-- ==== Sys2Proof/Word.lean ====
section
/-! DEFINITION. The word and index types of the manual (R6, R7), and the operand shapes the commands of
Syntax.lean carry: what the outside world (host, carrier, partner device, physical event) supplies. -/

namespace Sys2Proof

/-- A byte. -/
abbrev Byte := BitVec 8
/-- A 32-bit register or word. -/
abbrev W32 := BitVec 32
/-- A 64-bit descriptor word, register or time (R8). -/
abbrev W64 := BitVec 64

/-- 12-bit command tag (R13). -/
abbrev Tag := BitVec 12
/-- Core number 0 to 63 (R83). -/
abbrev CoreNo := BitVec 6
/-- Submission queue number 0 to 63 (R374). -/
abbrev QueueNo := BitVec 6
/-- Hardware partition 0 to 7 (R438). -/
abbrev PartNo := BitVec 3
/-- Plan number 0 to 15 (R281). -/
abbrev PlanNo := BitVec 4
/-- Request-table entry 0 to 4095 (R293). -/
abbrev SeqNo := BitVec 12
/-- Object number (R192). -/
abbrev ObjNo := BitVec 16
/-- Granule number within an object (R251). -/
abbrev GranNo := BitVec 24
/-- Cellar channel FC0 to FC63 (R220). -/
abbrev ChanNo := BitVec 6
/-- Cellar channel block (R220); 5,472 and above name no block. -/
abbrev BlockNo := BitVec 13
/-- Die of a Cellar channel (R220). -/
abbrev DieNo := BitVec 3
/-- Elvor port EL0 to EL7 (R42). -/
abbrev PortNo := BitVec 3
/-- Lane of a port (R42). -/
abbrev LaneNo := BitVec 2
/-- Group member 0 to 63 (R334). -/
abbrev MemberNo := BitVec 6
/-- Function: 0 the PF, 1 to 8 the VFs (R361, R392). -/
abbrev Func := Fin 9
/-- Firmware component 0 to 7 (R414). -/
abbrev CompNo := BitVec 3

/-- A table kept by key: ascending keys, no entry equal to the table's default (see `Tbl.wf`). -/
abbrev Tbl (α : Type) := List (Nat × α)

/-- Which completion record a COMPLETION_RECORD_WRITE writes (R378): that of a tag in COMPLETING, or
the oldest record a queue holds that belongs to no tag entry (a rejection of R95 steps 1 to 5, a host transfer). -/
inductive RecSrc where
  | tag (t : Tag)
  | queue (q : QueueNo)
deriving DecidableEq, Repr

/-- Register blocks and queues that a firmware component may be given (R414). -/
inductive FwBlock where
  | mpu
  | hif
  | fwImages
  | srv
  | requestTable
  | tier
  | cellarQueues
  | sec
  | keySlots
  | elk
  | pwr
  | od
deriving DecidableEq, Repr

/-- What a control processor reaches: a component's code, data or message rings in firmware SRAM, or a register block (R415). -/
inductive FwRegion where
  | code (c : CompNo)
  | data (c : CompNo)
  | rings (c : CompNo)
  | block (b : FwBlock)
deriving DecidableEq, Repr

inductive FwAccess where
  | read
  | write
  | execute
deriving DecidableEq, Repr

/-- What makes a component fault (R415, R417). -/
inductive FwFault where
  | access (r : FwRegion) (a : FwAccess)
  | watchdog
  | assertion
deriving DecidableEq, Repr

/-- A component's fault: of HIF's standby instance or not, its cause, and whether the state it keeps is good enough to roll a trial back (R417, R430). -/
structure CompFault where
  standby : Bool
  why : FwFault
  stateOk : Bool
deriving DecidableEq, Repr

/-- The cases of R327 a check of a lane can start a retune for: its corrected symbols, or a failed retune that left it out (log entry 111). -/
inductive RetuneCase where
  | symbols
  | rejoin
deriving DecidableEq, Repr

/-- Size of an access to a BAR (R366): 32 bits, 64 bits, or another number of bytes. -/
inductive AccSize where
  | dword
  | qword
  | other (bytes : BitVec 13)
deriving DecidableEq, Repr
/-- Bytes of an access. -/
def AccSize.bytes : AccSize → Nat
  | .dword => 4
  | .qword => 8
  | .other n => n.toNat

/-- Where a REGISTER_WRITE writes: an offset of the function's BAR0 (R364 to R366), or a control of configuration space that the manual gives an
effect: NumVFs (R371), the power state (R470), PTM Enable (R368). -/
inductive RegPlace where
  | bar (offset : BitVec 25)
  | numVfs
  | powerState
  | ptmEnable
deriving DecidableEq, Repr

/-- A unit that can fail a test or be retired (R235, R481). -/
inductive UnitId where
  | core (c : CoreNo)
  | quad (q : BitVec 6)
  | rack (r : BitVec 4)
  | channel (c : ChanNo)
  | lane (p : PortNo) (l : LaneNo)
deriving DecidableEq, Repr

/-- A unit's event register (R396). -/
inductive EvtReg where
  | coreEvt (c : CoreNo)
  | mxeEvt (c : CoreNo)
  | wxEvt (c : CoreNo)
  | veEvt (c : CoreNo)
  | attEvt (c : CoreNo)
  | tierEvt
  | attChipEvt
  | flcEvt
  | srvEvt
  | elkEvt (p : PortNo)
  | elkGevt
  | hifEvt (f : Func)
  | pwrEvt
  | fwEvt
  | secEvt
deriving DecidableEq, Repr

/-- Fields of a Cellar queue descriptor other than OP (R236). -/
structure FlcDesc where
  flags : BitVec 8
  block : BitVec 16
  cw : BitVec 16
  qtag : BitVec 16
  buf : BitVec 64
  ref : BitVec 64
deriving DecidableEq, Repr

/-- What the flash does with an operation (R226, R229, R231): corrected bits, read-retry level reached,
program-verify loops, and whether it failed. -/
structure FlashOutcome where
  cbits : BitVec 16
  rlvl : BitVec 4
  loops : BitVec 16
  fail : Bool
deriving DecidableEq, Repr

/-- A record of the erase journal (R233). -/
structure JRec where
  start : Bool
  block : BitVec 16
  eraseCount : BitVec 32
  seqNo : BitVec 64
deriving DecidableEq, Repr

/-- The header fields of a link packet (R332). -/
structure PktHdr where
  pepoch : BitVec 16
  enc : Bool
  part : PartNo
  src : MemberNo
  dest : MemberNo
  hop1 : Bool
  xid : BitVec 16
deriving DecidableEq, Repr

/-- A link packet: header, type, OFFSET word and body bytes (R332, R333). -/
structure Pkt where
  hdr : PktHdr
  typ : BitVec 8
  off : BitVec 32
  body : List Byte
deriving DecidableEq, Repr

/-- An FEC block that reaches a port (R324, R325): the 256 bytes of flit that its sender put into it, and the symbols among its 272
that came in wrong, each with what it came in as. -/
structure RxFlit where
  flit : List Byte
  wrong : List (BitVec 9 × Byte)
deriving DecidableEq, Repr

/-- The contents of an INIT message (R326). -/
structure InitMsg where
  serial : List Byte
  port : PortNo
  credits0 : BitVec 11
  credits1 : BitVec 11
  credits2 : BitVec 11
  version : BitVec 16
deriving DecidableEq, Repr

/-- A device found by group discovery (R334): its serial, its neighbours with the ports toward each, and whether it meets the
joining conditions of R334 and speaks the head's protocol version. For a formation, neighbours are numbered 0 for the head and from 1
on in discovery order; for an addition, by member number. -/
structure Found where
  serial : List Byte
  nbrs : List (BitVec 6 × BitVec 8)
  free : Bool
  versionOk : Bool
deriving DecidableEq, Repr

/-- A GROUP message (R333); its body is the firmware's own, so only what it does is carried. `part` is a partition command of the head
that this member follows, as the SEC_CMD word with ASSIGN's core mask (R439). -/
inductive GroupMsg where
  | join (member : MemberNo) (size : BitVec 7) (version : BitVec 16)
  | leave
  | routes (size : BitVec 7) (topology : BitVec 3) (r : List (MemberNo × BitVec 32))
  | part (cmd : W32) (mask : W64)
  | level (lev : BitVec 3)
deriving DecidableEq, Repr

/-- A GROUP packet with what it does. -/
structure GroupPkt where
  pkt : Pkt
  msg : GroupMsg
deriving DecidableEq, Repr

/-- How a partition command or a staging command reaches the device (R427, R441). -/
inductive CmdPath where
  | host
  | mgmt
deriving DecidableEq, Repr

/-- A requester path of the Object Dictionary (R495). -/
inductive OdPath where
  | pf
  | vdm
  | side
  | vf (v : Fin 8)
deriving DecidableEq, Repr

/-- An MCTP binding (R496). -/
inductive Binding where
  | vdm
  | side
deriving DecidableEq, Repr

/-- The scope of a Safe Hold (R482), with the CAUSE code of its fault record (R485). -/
inductive HoldScope where
  | seq (q : SeqNo)
  | part (p : PartNo)
  | device
deriving DecidableEq, Repr

/-- What patrol reads (R484): a granule's Cask or Rack frame, or a granule of a sealed entry. -/
inductive PatrolTarget where
  | frame (o : ObjNo) (g : GranNo) (rack : Bool)
  | sealedGran (entry : BitVec 12) (g : GranNo)
deriving DecidableEq, Repr

/-- What an access finds: nothing wrong, a correctable error, an uncorrectable one. -/
inductive EccOutcome where
  | clean
  | corrected
  | uncorrectable
deriving DecidableEq, Repr

/-- What re-encryption moves next (R447). -/
inductive ReTarget where
  | frame (o : ObjNo) (g : GranNo)
  | block (ch : ChanNo) (b : BlockNo)
deriving DecidableEq, Repr

/-- A debug-port access (R459). -/
inductive DebugAcc where
  | idcode
  | boundaryScan
  | haltCp (cp : BitVec 2)
  | readSram (addr : BitVec 26)
deriving DecidableEq, Repr

end Sys2Proof
end

