-- ==== Sys2Proof/Syntax.lean ====
section
/-! DEFINITION. The commands of the block: one constructor per row of spec/opcode_table.json, with the row's
operands. The table gives no operand fields; an operand here is what the row's rule takes from outside the device
(the tag of the command concerned, a pin level, a register value, a packet, the outcome of a physical event). -/

namespace Sys2Proof

/-- A command or event of the device (see INVENTORY.md, Instructions). -/
inductive Instr where
  /-- AUX_POWER_UP (R36): P3V3_AUX enters its operating range: the straps are sampled and the management ROM starts MGMT. -/
  | auxPowerUp (mgmtMode : Bool) (addrSel : BitVec 3)
  /-- PWR_EN_RISE (R45): The carrier raises PWR_EN; main rails ramp once P48V has been in range for 1 ms. -/
  | pwrEnRise
  /-- PWR_GOOD_ASSERT (R45): The main rail ramp completes and PWR_GOOD is asserted. -/
  | pwrGoodAssert
  /-- PWR_EN_FALL (R47): PWR_EN is lowered: the device acts as on PERST_N assertion, then removes main rails in reverse ramp order. -/
  | pwrEnFall
  /-- PERST_N_ASSERT (R47): PERST_N is asserted while running: everything outside the P3V3_AUX domain is reset and admitted sequences end without further output. -/
  | perstNAssert
  /-- PERST_N_DEASSERT (R422): PERST_N is deasserted: RCVY_N and TICK_PRSNT_N are sampled, and the boot ROM selects, verifies and loads components 0 to 6. -/
  | perstNDeassert (rcvyN tickPrsntN : Bool)
  /-- BOOT_INIT (R45): Firmware trains the Cask and Rack, checks the Cellar erase journal, restores partitions and loads the default model. -/
  | bootInit (failed : List UnitId)
  /-- FIRMWARE_READY (R45): Firmware becomes ready: HIF_STATUS.READY is set and Request Retry Status ends. -/
  | firmwareReady
  /-- MAIN_POWER_LOSS (R33): P48V leaves its range: PWR_GOOD drops, cores and ports stop, the Cellar aborts erases and lets programs run on hold-up. -/
  | mainPowerLoss
  /-- P48V_DIP (R54): P48V dips below 44.0 V without reaching the loss threshold, or the draw exceeds its limits; a PWR_PINS near-miss bit is set. -/
  | p48vDip (excursion : Bool)
  /-- RAIL_FAULT (R486): A main rail leaves regulation while PWR_EN is high: FAULT_N is asserted and main rails are removed. -/
  | railFault (rail : BitVec 3)
  /-- THERM_TRIP (R51): The die or a Cask stack reaches its trip temperature: THERM_TRIP_N and FAULT_N assert and main rails are removed. -/
  | thermTrip (cask : Bool) (sensor : BitVec 4)
  /-- TICK_EDGE (R38, R54): TICK takes a level; high, an accepted rising edge, it is recorded with its DEV_TIME. -/
  | tickEdge
  /-- COOL_OK_CHANGE (R39): A filtered COOL_OK level change: a fall while requests are admitted is a thermal emergency. -/
  | coolOkChange (level : Bool)
  /-- NOP (R107): NOP completes DONE when its waits and fence resolve. -/
  | nop (t : Tag)
  /-- BARRIER (R109): A BARRIER arrival opens or joins a chip-wide barrier, which completes when COUNT arrivals have been made. -/
  | barrier (t : Tag)
  /-- BARRIER_TIMEOUT (R109): TIMEOUT_US passes before COUNT arrivals: every arrival completes BAR_TIMEOUT and the barrier frees. -/
  | barrierTimeout (bar : BitVec 6)
  /-- CANCEL (R108): CANCEL aborts its target when the target is WAITING or READY. -/
  | cancel (t : Tag)
  /-- MATMUL (R125): MATMUL multiplies operands on the matrix engines and delivers tiles to the tile queue or to scratchpad. -/
  | matmul (t : Tag) (parity : Option (BitVec 2))
  /-- VECOP (R178): VECOP performs a vector-engine operation on streams or on drained tiles. -/
  | vecop (t : Tag)
  /-- SAMPLE (R182): SAMPLE draws one token per logit row under its slot parameters and mask. -/
  | sample (t : Tag)
  /-- EXPAND (R157): EXPAND decodes stored weight blocks into the tiled layout and scales in scratchpad. -/
  | expand (t : Tag)
  /-- SLOT_LOAD (R149): SLOT_LOAD checks a 4 KiB image and commits it to a table slot when the slot's reference count is zero. -/
  | slotLoad (t : Tag)
  /-- SLOT_PIN (R150): SLOT_PIN adds pins to a READY slot at the expected version. -/
  | slotPin (t : Tag)
  /-- SLOT_UNPIN (R150): SLOT_UNPIN removes pins from a READY slot at the expected version. -/
  | slotUnpin (t : Tag)
  /-- MASK_FILL (R309): MASK FILL writes each row's allowed-token bitmap from its automaton state. -/
  | maskFill (t : Tag)
  /-- MASK_ADVANCE (R309): MASK ADVANCE finds each row's next automaton state for its token. -/
  | maskAdvance (t : Tag)
  /-- MOVE (R110): MOVE copies a two-dimensional region between scratchpads, the Cask and the Rack. -/
  | move (t : Tag)
  /-- ATTEND (R256): ATTEND snapshots a sequence's KV map, optionally appends keys and values, and walks the pages to compute attention. -/
  | attend (t : Tag)
  /-- OBJ_CREATE (R206): OBJ_CREATE creates an object, optionally attaching a catalogue entry, and reserves its space. -/
  | objCreate (t : Tag)
  /-- OBJ_DESTROY (R206): OBJ_DESTROY moves an object to DYING and completes when the object reaches FREE. -/
  | objDestroy (t : Tag)
  /-- DECANT (R206): DECANT moves working granules up a tier or gives sealed granules a copy there. -/
  | decant (t : Tag)
  /-- LAY_DOWN (R206): LAY_DOWN moves working granules to T2 or drops copies of sealed granules above TIER. -/
  | layDown (t : Tag)
  /-- PIN (R206): PIN gives sealed granules a copy in TIER and raises their pin counts. -/
  | pin (t : Tag)
  /-- UNPIN (R206): UNPIN lowers the pin counts of sealed granules. -/
  | unpin (t : Tag)
  /-- WINDOW_ADVANCE (R209): WINDOW_ADVANCE unpins the release range and pins the target range. -/
  | windowAdvance (t : Tag)
  /-- OBJ_SEAL (R224): OBJ_SEAL places and programs an OPEN object's T3 copy, records a catalogue entry and makes the object SEALED. -/
  | objSeal (t : Tag)
  /-- OBJ_QUERY (R208): OBJ_QUERY writes a 64-byte report about an object. -/
  | objQuery (t : Tag)
  /-- LINK_PUT (R341): LINK_PUT opens a transfer to a member and sends codec blocks to it. -/
  | linkPut (t : Tag)
  /-- LINK_WAIT (R344): LINK_WAIT waits for a notify counter to reach TARGET, then subtracts TARGET from it. -/
  | linkWait (t : Tag)
  /-- LINK_WAIT_TIMEOUT (R344): TIMEOUT_US passes before the counter reaches TARGET: LINK_WAIT completes LK_TIMEOUT. -/
  | linkWaitTimeout (t : Tag)
  /-- WAIT_RESOLVE (R98): A waited tag completes and the wait resolves with success or failure; a failure completes the waiter ABORTED. -/
  | waitResolve (t : Tag)
  /-- FENCE_CLEAR (R99): The last earlier command of the unit completes and the fenced command's fence clears. -/
  | fenceClear (t : Tag)
  /-- COMMAND_START (R114): A READY command starts on its unit 6 cycles after entering READY, once it is first in order on its unit; steps 6 to 11 of the checks run. -/
  | commandStart (t : Tag) (upsets : List Nat)
  /-- COMPLETION_RECORD_WRITE (R378): A waiting completion record is written once its ring has space, and its tag returns to FREE. -/
  | completionRecordWrite (src : RecSrc)
  /-- WATCHDOG_EXPIRY (R102): A command stays RUNNING past the watchdog limit: its engines reset and it completes UNCORRECTABLE. -/
  | watchdogExpiry (t : Tag)
  /-- TILE_PUSH (R172): A producer pushes a finished tile, or waits for room in the tile queue. -/
  | tilePush (c : CoreNo)
  /-- TILE_POP (R174): A tile-mode VECOP acts on the head of the tile queue once an entry is there. -/
  | tilePop (c : CoreNo)
  /-- DRAIN_LOST (R133): A drainer completes before popping LAST: the producer's remaining tiles are discarded and the MATMUL completes MM_DRAIN_LOST. -/
  | drainLost (t : Tag)
  /-- WX_BLOCK_PRESENT (R153): A weight block has fully arrived, been checked and decoded, and its first tile is presented to the engines. -/
  | wxBlockPresent (t : Tag) (corrupt : Bool)
  /-- INVALID_BLOCK_REFETCH (R79): An invalid weight block is fetched again from its tier as a transient retry. -/
  | invalidBlockRefetch (t : Tag)
  /-- ON_DEMAND_FETCH (R204): 200 ns after a missed access, the missing granule and those fetched ahead are brought into the PLACE tier, or read through. -/
  | onDemandFetch (o : ObjNo) (g : GranNo)
  /-- GRANULE_MOVE_COMMIT (R209): A granule move commits: waiting writes proceed to the destination and pins taken at the commit apply. -/
  | granuleMoveCommit (o : ObjNo) (g : GranNo)
  /-- OBJECT_FREE (R195): The last reference on a DYING object is returned and the object's frames are freed. -/
  | objectFree (o : ObjNo)
  /-- READ_G (R236): Cellar queue descriptor reading one granule. -/
  | readG (ch : ChanNo) (d : FlcDesc)
  /-- PROG_G (R236): Cellar queue descriptor programming one granule at the block's write pointer. -/
  | progG (ch : ChanNo) (d : FlcDesc)
  /-- ERASE (R233): Cellar queue erase of a block that has a committed journal START. -/
  | eraseBlk (ch : ChanNo) (d : FlcDesc)
  /-- READ_CAL (R236): Cellar queue descriptor reading a die's calibration row. -/
  | readCal (ch : ChanNo) (d : FlcDesc)
  /-- READ_CW (R236): Cellar queue descriptor reading one code word. -/
  | readCw (ch : ChanNo) (d : FlcDesc)
  /-- PROG_CW (R236): Cellar queue descriptor programming one metadata code word. -/
  | progCw (ch : ChanNo) (d : FlcDesc) (rec : Option JRec)
  /-- DIE_RESET (R236): Cellar queue descriptor resetting a die. -/
  | dieReset (ch : ChanNo) (d : FlcDesc)
  /-- CELLAR_OP_COMPLETE (R226): A Cellar sense, program or erase finishes and its completion is returned. -/
  | cellarOpComplete (ch : ChanNo) (die : DieNo) (r : FlashOutcome)
  /-- SUSPEND (R227): A program or erase is suspended after its minimum run time to serve queued reads, then resumed. -/
  | suspend (ch : ChanNo) (die : DieNo)
  /-- ERASE_DONE (R233): An erase verifies, a DONE record is committed and the block becomes FREE. -/
  | eraseDone (ch : ChanNo) (b : BlockNo)
  /-- GRANULE_LOST (R229): A granule fails after read-retry and transient retries: it is re-homed, or marked damaged and its entry degraded. -/
  | granuleLost (entry : BitVec 12) (g : GranNo)
  /-- BLOCK_RELOCATE (R230): A worn block's granules are copied to a FREE block and the new place is committed. -/
  | blockRelocate (ch : ChanNo) (b : BlockNo)
  /-- BLOCK_RETIRE (R231): A block that fails a program verify or three erases is retired and T3 capacity falls. -/
  | blockRetire (ch : ChanNo) (b : BlockNo)
  /-- CATALOGUE_COMMIT (R225): A catalogue change commits when all four copies are programmed. -/
  | catalogueCommit
  /-- CATALOGUE_DELETE (R246): A write to 0x3010:0x02 deletes a catalogue entry; its blocks become ERASE_PENDING at the commit. -/
  | catalogueDelete (entry : W32)
  /-- PLANNED_RETIREMENT (R235): A write to 0x3012:0x01 evacuates a Cellar channel and then retires it. -/
  | plannedRetirement (ch : BitVec 8)
  /-- CHANNEL_RETIRE (R235): A Cellar channel is retired: its data blocks leave capacity and later seals skip it. -/
  | channelRetire (ch : ChanNo)
  /-- FLC_UNLOCK (R238): A key write to FLC_UNLOCK advances the register-interface lock level or returns it to 0. -/
  | flcUnlock (key : BitVec 16)
  /-- FLC_LOCK_TIMEOUT (R238): 100 ms pass with no FLC_ write and the lock falls to level 0. -/
  | flcLockTimeout
  /-- FLC_READ_ID (R240): Register command READ_ID returns the identity of the die holding BLOCK. -/
  | flcReadId
  /-- FLC_READ_CAL (R240): Register command READ_CAL returns a die's calibration row. -/
  | flcReadCal
  /-- FLC_READ_CW (R240): Register command READ_CW returns a code word's corrected data. -/
  | flcReadCw
  /-- FLC_READ_BLK (R240): Register command READ_BLK returns the block-table record. -/
  | flcReadBlk
  /-- FLC_CLAIM (R240): Register command CLAIM makes a FREE block TEST. -/
  | flcClaim
  /-- FLC_RELEASE (R240): Register command RELEASE makes a TEST block ERASE_PENDING. -/
  | flcRelease
  /-- FLC_ERASE (R240): Register command ERASE erases a TEST block under the journal. -/
  | flcErase
  /-- FLC_PROGRAM (R240): Register command PROGRAM programs FLC_DATA into a TEST block at CW. -/
  | flcProgram
  /-- PAGE_LAND (R260): A staged KV page lands in scratchpad and ATTEND processes it. -/
  | pageLand (t : Tag) (page : BitVec 14)
  /-- SUBMIT (R288): A SUBMIT record is checked and admitted under the admission rule, or rejected. -/
  | submit (q : QueueNo)
  /-- END_SEQ (R304): END_SEQ ends or releases a sequence according to its state. -/
  | endSeq (q : QueueNo)
  /-- PARK (R303): PARK frees a DECODE sequence's time reservation and lays its pages down to T2. -/
  | park (q : QueueNo)
  /-- RESUME (R303): RESUME admits a PARKED sequence and decants its pages. -/
  | resume (q : QueueNo)
  /-- DECANT_DONE (R303): The decant of a resumed sequence completes and the sequence returns to DECODE. -/
  | decantDone (q : SeqNo)
  /-- PLAN_LOAD (R281): PLAN_LOAD checks a plan header and program section and makes the plan ACTIVE. -/
  | planLoad (q : QueueNo)
  /-- PLAN_RETIRE (R315): PLAN_RETIRE makes a plan DRAINING, optionally naming a successor. -/
  | planRetire (q : QueueNo)
  /-- ADAPTER_LOAD (R313): ADAPTER_LOAD makes a new adapter version current. -/
  | adapterLoad (q : QueueNo)
  /-- ADAPTER_DROP (R313): ADAPTER_DROP removes an ID's current version. -/
  | adapterDrop (q : QueueNo)
  /-- STEP_START (R295): A plan's step starts at the latest of its schedule point, the last retirement and any hold-back, and issues its templates. -/
  | stepStart (p : PlanNo)
  /-- STEP_RETIRE (R298): Every command of a step has completed: tokens and ends are committed and map edits, Vine inserts and Pruning are applied. -/
  | stepRetire (p : PlanNo)
  /-- TICK_PREDICT (R297): No edge falls in the window: e(k) is predicted and SRV_CNT_TICKMISS counts. -/
  | tickPredict (p : PlanNo)
  /-- HOLD_RETAIN_EXPIRY (R306): HOLD_RETAIN expires for a SAFE_HOLD entry and its pages are released. -/
  | holdRetainExpiry (q : SeqNo)
  /-- EVENT_BACKLOG_DRAIN (R378): Backlog events leave in order as completion-ring space frees. -/
  | eventBacklogDrain
  /-- PROMPT (R384): A mailbox PROMPT record is taken from the IN ring and admitted. -/
  | prompt
  /-- MBOX_CANCEL (R384): A mailbox CANCEL record ends every live mailbox sequence with its REQ_ID. -/
  | mboxCancel
  /-- MBOX_BAD_TYPE (R385): A mailbox record with an unknown TYPE discards the ring up to TAIL and writes a REJECT. -/
  | mboxBadType
  /-- ATTACH (R370): ATTACH takes or resumes a function's lease and, on the PF, sets the accepted feature word. -/
  | attach (f : Func) (force : Bool)
  /-- RENEW (R372): RENEW moves a LIVE lease's due forward. -/
  | renew (f : Func)
  /-- DETACH (R372): DETACH moves a LIVE lease to HOLD. -/
  | detach (f : Func)
  /-- LEASE_EXPIRY (R373): A lease due passes: the lease enters HOLD and the function's queues, commands and sequences are stopped. -/
  | leaseExpiry (f : Func)
  /-- HOLD_END (R305): The hold period ends: backlog events are discarded and HELD sequences end ABORTED. -/
  | holdEnd (f : Func)
  /-- FUNCTION_LEVEL_RESET (R372): A Function Level Reset acts as DETACH on the function, or on every function for the PF. -/
  | functionLevelReset (f : Func)
  /-- HOT_RESET (R407): A hot reset of the PF resets delivery settings of the event concentrator. -/
  | hotReset
  /-- QUEUE_ENABLE (R375): EN written 1 checks the queue and resets its heads, tails and phase. -/
  | queueEnable (f : Func) (q : QueueNo)
  /-- QUEUE_DISABLE (R383): EN written 0 stops fetching and drains the records still due. -/
  | queueDisable (f : Func) (q : QueueNo)
  /-- SQ_DOORBELL (R376): A write of HIF_SQ_TAIL makes submission entries ready for fetch. -/
  | sqDoorbell (f : Func) (q : QueueNo) (tail : BitVec 12)
  /-- CQ_DOORBELL (R376): A write of HIF_CQ_HEAD returns completion entries to the driver. -/
  | cqDoorbell (f : Func) (q : QueueNo) (head : BitVec 16)
  /-- QUEUE_FAULT (R383): A host error on a fetch or completion write faults the queue. -/
  | queueFault (q : QueueNo)
  /-- H2D (R380): A host-to-device transfer entry moves bytes from host memory into an object. -/
  | h2d (q : QueueNo) (xid : BitVec 16)
  /-- D2H (R380): A device-to-host transfer entry moves bytes from an object to host memory. -/
  | d2h (q : QueueNo) (xid : BitVec 16)
  /-- XF_HOST_FAULT (R381): A host completion returns in error and the transfer ends XF_HOST_FAULT. -/
  | xfHostFault (q : QueueNo) (xid : BitVec 16)
  /-- QUEUE_INTERRUPT (R382): A queue's hold-off passes and an MSI-X message covers the entries written since the last one. -/
  | queueInterrupt (q : QueueNo)
  /-- PTM_DIALOGUE (R368): A periodic PTM dialogue aligns or rate-corrects DEV_TIME. -/
  | ptmDialogue (hostTime : W64)
  /-- PTM_LOST (R368): 10 periods pass without a successful dialogue: PTM_LOCK clears. -/
  | ptmLost
  /-- REGISTER_WRITE (R9): A write to a register field that has no row of its own takes effect under its access code. -/
  | registerWrite (f : Func) (place : RegPlace) (size : AccSize) (v : Nat)
  /-- FLIT_RECEIVE (R328): A flit is received, checked and accepted, or discarded with a NAK. -/
  | flitReceive (p : PortNo) (fl : RxFlit)
  /-- REPLAY_TIMEOUT (R328): No ACK covers the oldest unacknowledged flit for 2 µs and the sender replays. -/
  | replayTimeout (p : PortNo)
  /-- INIT (R326): The INIT control message exchanges serial, port, credits and protocol version at training. -/
  | initMsg (p : PortNo) (m : InitMsg)
  /-- NAK (R328): A NAK makes the sender replay from the flit after the named FSEQ. -/
  | nak (p : PortNo) (lastGood : BitVec 10)
  /-- RETUNE_REQ (R327): RETUNE_REQ names a lane and a switch point for a live retune. -/
  | retuneReq (p : PortNo) (l : LaneNo) (switchPoint : BitVec 10)
  /-- RETUNE_ACK (R327): RETUNE_ACK accepts a live retune. -/
  | retuneAck (p : PortNo)
  /-- RETUNE_DONE (R327): RETUNE_DONE ends a lane's re-equalisation. -/
  | retuneDone (p : PortNo) (ok : Bool)
  /-- WIDTH (R327): WIDTH names the rejoin point at which both ends stripe on all active lanes again. -/
  | width (p : PortNo) (rejoin : BitVec 10)
  /-- RETUNE_CHECK (R327): Each second, a lane whose corrected FEC symbols exceed the threshold starts a retune. -/
  | retuneCheck (p : PortNo) (l : LaneNo) (why : RetuneCase)
  /-- LANE_RETUNE_REQUEST (R360): A write to 0x5013:0x01 starts a retune of the named lane. -/
  | laneRetuneRequest (v : BitVec 8)
  /-- PARTNER_DETECT (R326): A partner signal persists for 1 ms and the port enters TRAIN. -/
  | partnerDetect (p : PortNo)
  /-- TRAIN_DONE (R326): Training ends: the port goes UP on the lanes that passed, to FAULT, or back to DETECT. -/
  | trainDone (p : PortNo) (passed : BitVec 4) (order : Bool)
  /-- PORT_RETRAIN (R329): The replay limit is exceeded or FEC lock is lost and the port retrains. -/
  | portRetrain (p : PortNo)
  /-- OPEN (R341): The destination checks an OPEN and answers OPEN_ACK. -/
  | openPkt (k : Pkt)
  /-- OPEN_ACK (R341): The source starts sending data, or completes, or retries after a busy answer. -/
  | openAck (k : Pkt)
  /-- OPEN_RETRY (R341): 1 µs after a busy answer, the source sends OPEN again. -/
  | openRetry (t : Tag)
  /-- DATA (R343): A DATA packet's codec block is decoded and written, or added, at its offset. -/
  | dataPkt (p : PortNo) (k : Pkt)
  /-- DONE (R341): A DONE packet arrives and the source completes 20 ns later. -/
  | donePkt (k : Pkt)
  /-- ABORT (R333): An ABORT packet makes the destination close its transfer. -/
  | abortPkt (k : Pkt)
  /-- NACK (R349): A NACK answers a packet for a transfer that is not open. -/
  | nack (k : Pkt)
  /-- RCMD (R333): An RCMD packet carries a descriptor from the head to a member for execution. -/
  | rcmd (k : Pkt)
  /-- RDONE (R344): An RDONE packet returns a member's completion record to the head and releases held templates. -/
  | rdone (k : Pkt)
  /-- STEP (R333): A STEP packet carries serving-step control from the head. -/
  | stepPkt (k : Pkt)
  /-- MGMT (R508): An MGMT packet carries a bridged Object Dictionary request or response. -/
  | mgmt (k : Pkt)
  /-- BEAT (R351): A BEAT packet carries the sender's DEV_TIME as proof of presence. -/
  | beat (k : Pkt)
  /-- BEAT_TIMER (R351): Every 1 ms the head and each member send BEAT. -/
  | beatTimer
  /-- TIME (R338): A TIME exchange aligns a satellite's DEV_TIME to the head's. -/
  | time (k : Pkt) (arrived : W64)
  /-- TIME_EXCHANGE_TIMER (R338): Every 1 ms the head starts a TIME exchange with each member. -/
  | timeExchangeTimer
  /-- EPOCH (R349): An EPOCH packet sets a partition's new epoch on a member. -/
  | epoch (k : Pkt)
  /-- GROUP (R335): A GROUP packet carries discovery, join, leave or route tables. -/
  | group (g : GroupPkt)
  /-- MEMBER_LOSS (R351): No BEAT from a member for the loss time: the head completes its transfers, ends its sequences and recomputes routes. -/
  | memberLoss (m : MemberNo)
  /-- HEAD_LOSS (R351): A satellite hears no BEAT from the head: it aborts its commands, scrubs its group objects and returns to SOLO. -/
  | headLoss
  /-- GROUP_FORM (R335): Group command form discovers devices, assigns member numbers and writes routes. -/
  | groupForm (found : List Found)
  /-- GROUP_DISSOLVE (R335): Group command dissolve sends every member back to SOLO. -/
  | groupDissolve
  /-- GROUP_ADD (R352): Group command add joins a device to a running group. -/
  | groupAdd (m : MemberNo) (d : Option Found)
  /-- GROUP_REMOVE (R352): Group command remove sends a member GROUP leave. -/
  | groupRemove (m : MemberNo)
  /-- SOURCE_FIRE (R395): A unit sets an event bit: the source's counter and pending bit update and its group may become armed. -/
  | sourceFire (r : EvtReg) (bit : BitVec 5)
  /-- EVC_CNTCLR (R409): A write to EVC_CNTCLR clears one counter or all of them. -/
  | evcCntclr (v : W32)
  /-- EVC_SWSET (R409): A write to EVC_SWSET fires software sources. -/
  | evcSwset (v : W32)
  /-- EVC_EN_WRITE (R399): A write to EVC_EN changes enables and may arm a group. -/
  | evcEnWrite (j : BitVec 3) (v : W32)
  /-- EVC_GDIS_WRITE (R403): A write to GDIS holds all delivery, or releases it and arms requesting groups. -/
  | evcGdisWrite (v : W32)
  /-- GROUP_DELIVERY (R400): An armed group delivers an MSI-X message or a CP interrupt and starts its hold-off. -/
  | groupDelivery (g : BitVec 4)
  /-- GROUP_HOLDOFF_EXPIRY (R401): A group's hold-off timer expires. -/
  | groupHoldoffExpiry (g : BitVec 4)
  /-- FW_STAGE (R427): STAGE writes one component's image into its other slot area and checks it. -/
  | fwStage (path : CmdPath) (mask : BitVec 8)
  /-- STAGING_DONE (R429): Staging ends: the copy is STAGED or the area is not valid. -/
  | stagingDone
  /-- STAGING_LOCK_TIMEOUT (R427): 60 s pass with no staging command or piece and the lock is released. -/
  | stagingLockTimeout
  /-- FW_ACTIVATE (R428): ACTIVATE arms components for a trial reset, or makes a live activation PENDING. -/
  | fwActivate (path : CmdPath) (mask : BitVec 8) (resetMode : Bool)
  /-- COMPONENT_SWITCH (R428): At a quiet window, a component switches to its new copy with a state handover. -/
  | componentSwitch (c : CompNo)
  /-- ACT_WAIT_EXPIRY (R428): ACT_WAIT expires before the last switch and switched components return to their old copies. -/
  | actWaitExpiry
  /-- FW_COMMIT (R429): COMMIT appends a boot record naming the running slot and raises the SVN floor. -/
  | fwCommit (path : CmdPath) (mask : BitVec 8)
  /-- TRIAL_TIME_EXPIRY (R429): TRIAL_TIME passes with auto-commit on and the component commits. -/
  | trialTimeExpiry
  /-- FW_CANCEL (R429): CANCEL returns a PENDING or ARMED component to STAGED. -/
  | fwCancel (path : CmdPath) (mask : BitVec 8)
  /-- FW_ABORT (R429): ABORT ends a staging, or a trial on the old copy. -/
  | fwAbort (path : CmdPath) (mask : BitVec 8)
  /-- COMPONENT_FAULT (R417): A component faults: HIF swaps to its standby, a trial rolls back, or device-scope Safe Hold follows. -/
  | componentFault (c : CompNo) (x : CompFault)
  /-- CREATE (R441): CREATE makes a partition LIVE with new keys. -/
  | create (path : CmdPath) (cmd : W32)
  /-- REMOVE (R449): REMOVE starts teardown and makes the partition DRAINING. -/
  | remove (path : CmdPath) (cmd : W32)
  /-- PARTITION_RETIRING (R449): Nothing waiting remains and the partition enters RETIRING. -/
  | partitionRetiring (p : PartNo)
  /-- EPOCH_CHANGE (R449): Running work has completed: the epoch rises on every member and the keys are destroyed. -/
  | epochChange (p : PartNo)
  /-- SCRUB_DONE (R450): Scrubbing and catalogue deletion finish and the partition becomes ABSENT. -/
  | scrubDone (p : PartNo)
  /-- ASSIGN (R441): ASSIGN moves cores to a partition after clearing them. -/
  | assign (path : CmdPath) (cmd : W32)
  /-- BIND_VF (R441): BIND_VF binds a VF to a partition. -/
  | bindVf (path : CmdPath) (cmd : W32)
  /-- UNBIND_VF (R441): UNBIND_VF unbinds a VF. -/
  | unbindVf (path : CmdPath) (cmd : W32)
  /-- ROTATE (R446): ROTATE makes a new storage vintage current. -/
  | rotate (path : CmdPath) (cmd : W32)
  /-- REENCRYPT_MOVE (R447): A frame or block of the old vintage is re-encrypted under the current vintage. -/
  | reencryptMove (x : ReTarget)
  /-- OLD_VINTAGE_DESTROY (R448): No frame records the old vintage any longer, so the old key is destroyed. -/
  | oldVintageDestroy (p : PartNo)
  /-- ATTEST (R461): ATTEST produces a signed report. -/
  | attest (path : CmdPath) (cmd : W32)
  /-- DBG_UNLOCK (R459): DBG_UNLOCK checks a debug token and opens internal debug. -/
  | dbgUnlock (path : CmdPath) (cmd : W32)
  /-- REVOKE (R460): REVOKE blows a firmware key's revocation fuse. -/
  | revoke (path : CmdPath) (cmd : W32)
  /-- ENTROPY_FAIL (R443): An entropy health test fails: ENTROPY_OK clears and device-scope Safe Hold follows. -/
  | entropyFail
  /-- DRBG_RESEED (R443): The DRBG reseeds after 2^20 requests or one second. -/
  | drbgReseed
  /-- SAMPLER_RESEED (R443): The sampler reseeds from the DRBG every 1 ms. -/
  | samplerReseed
  /-- LIMITER_SAMPLE (R473): Every 10 µs the limiter samples P48V power and withholds core issue while the 1 ms average exceeds the cap. -/
  | limiterSample (power avg1ms avg100ms : BitVec 16)
  /-- SENSOR_READ (R475): Every 1 ms the sensors are read for warnings and thermal emergencies. -/
  | sensorRead (temps : List (BitVec 8))
  /-- EMERGENCY_CLEAR (R475): An emergency clears after 1 s below warning, or of limiter idleness. -/
  | emergencyClear
  /-- EMERGENCY_LEVEL_DROP (R476): Each 100 ms of a persisting emergency lowers the level, and at L4 withdraws every sequence. -/
  | emergencyLevelDrop
  /-- LEVEL_CHANGE (R472): In a gap, the performance level changes in 100 µs and a lowered cap comes into force. -/
  | levelChange
  /-- CAP_FORCE_TIMEOUT (R472): No gap occurs within 20 ms and the lowered cap comes into force at the old level. -/
  | capForceTimeout
  /-- IDLE_ENTRY (R470): No command is in flight and no sequence is in PREFILL or DECODE, and the device enters IDLE. -/
  | idleEntry
  /-- NAP_ENTRY (R470): After NAP_AFTER in IDLE, or at once on COOL_OK low, the device enters NAP and retains concentrator state. -/
  | napEntry
  /-- NAP_WAKE (R470): A wake event returns the device from NAP to IDLE and restores retained state. -/
  | napWake
  /-- DEEP_ENTRY (R470): Every function is in D3hot and nothing is served, and the device enters DEEP. -/
  | deepEntry
  /-- DEEP_WAKE (R470): The PF returns to D0 and the device leaves DEEP. -/
  | deepWake
  /-- RETEST (R479): After retries run out, the unit is retested within 10 ms. -/
  | retest (u : UnitId) (passed : Bool)
  /-- UNIT_RETIRE (R481): A unit is retired: tier capacity shrinks, floors are lowered and admission is recomputed. -/
  | unitRetire (u : UnitId)
  /-- SAFE_HOLD (R483): Safe Hold of a scope aborts its commands, ends its sequences and stops its links. -/
  | safeHold (sc : HoldScope) (cause : BitVec 8)
  /-- SAFE_HOLD_RELEASE (R482): A write to 0x7010:0x01 releases a partition's Safe Hold after a recheck. -/
  | safeHoldRelease (p : BitVec 8) (recheckOk : Bool)
  /-- PATROL_READ (R484): Patrol reads frames and sealed granules, writing back corrections. -/
  | patrolRead (x : PatrolTarget) (r : EccOutcome)
  /-- OD_READ (R501): An Object Dictionary READ returns an entry's value. -/
  | odRead (path : OdPath) (member : BitVec 8) (entry : BitVec 24)
  /-- OD_WRITE (R501): An Object Dictionary WRITE applies a new value under the entry's write rules. -/
  | odWrite (path : OdPath) (member : BitVec 8) (entry : BitVec 24) (value : List Byte)
  /-- OD_DESCRIBE (R501): DESCRIBE returns an entry's type, access and largest length. -/
  | odDescribe (path : OdPath) (member : BitVec 8) (entry : BitVec 24)
  /-- OD_NEXT (R501): NEXT returns the next existing entry. -/
  | odNext (path : OdPath) (member : BitVec 8) (entry : BitVec 24)
  /-- OD_RESTORE (R510): RESTORE writes every RWP entry's default. -/
  | odRestore (path : OdPath) (member : BitVec 8)
  /-- SET_ENDPOINT_ID (R498): MCTP Set Endpoint ID assigns the binding's endpoint ID. -/
  | setEndpointId (b : Binding) (eid : Byte) (fromOwner : Bool)
  /-- GET_ENDPOINT_ID (R497): MCTP Get Endpoint ID. -/
  | getEndpointId (b : Binding)
  /-- GET_ENDPOINT_UUID (R497): MCTP Get Endpoint UUID returns the per-unit UUID. -/
  | getEndpointUuid (b : Binding)
  /-- GET_MCTP_VERSION_SUPPORT (R497): MCTP Get MCTP Version Support. -/
  | getMctpVersionSupport (b : Binding)
  /-- GET_MESSAGE_TYPE_SUPPORT (R497): MCTP Get Message Type Support. -/
  | getMessageTypeSupport (b : Binding)
  /-- GET_VENDOR_DEFINED_MSG_SUPPORT (R497): MCTP Get Vendor Defined Message Support. -/
  | getVendorDefinedMsgSupport (b : Binding)
  /-- PREPARE_FOR_ENDPOINT_DISCOVERY (R497): MCTP Prepare for Endpoint Discovery on VDM. -/
  | prepareForEndpointDiscovery (b : Binding)
  /-- ENDPOINT_DISCOVERY (R497): MCTP Endpoint Discovery on VDM. -/
  | endpointDiscovery (b : Binding)
  /-- DISCOVERY_NOTIFY (R496): The device sends Discovery Notify after each link-up. -/
  | discoveryNotify
  /-- UNSUPPORTED_CONTROL_CMD (R497): Any other MCTP control command completes ERROR_UNSUPPORTED_CMD. -/
  | unsupportedControlCmd (b : Binding) (code : Byte)
  /-- ALERT_RESPONSE (R499): The device answers the SMBus Alert Response Address with its own address. -/
  | alertResponse
  /-- MGMT_ALERT (R499): An alert condition begins: MGMT_ALERT_N goes low, or an IBI is raised in I3C mode. -/
  | mgmtAlert
  /-- AUX_POWER_LOSS (R37): P3V3_AUX is removed: FAULT_N goes high-impedance, PWR_FAULT and retained state are lost, debug unlock ends and the sideband path disappears. -/
  | auxPowerLoss
  /-- P48V_IN_RANGE (R47): P48V has been in range for 1 ms while PWR_EN is already high, and the device ramps its main rails. -/
  | p48vInRange
  /-- THERM_TRIP_RELEASE (R51): PWR_EN has been low for 100 ms and every sensor reads 15 °C below its trip point, so THERM_TRIP_N releases and main power may return. -/
  | thermTripRelease
  /-- IDLE_FLIT_TIMER (R331): No flit would otherwise leave within 100 ns, so the receiver sends an IDLE flit carrying returned credits. -/
  | idleFlitTimer (p : PortNo)
  /-- MSIX_ENABLE_WRITE (R402): MSI-X Enable is set or Function Mask is cleared in configuration space, and armed event groups then deliver. -/
  | msixEnableWrite (f : Func) (enable mask : Bool)
  /-- DEBUG_PORT_ACCESS (R459): An access on the debug port is answered with IDCODE or boundary scan, or internal debug once unlocked. -/
  | debugPortAccess (a : DebugAcc)
  /-- I3C_DYNAMIC_ADDRESS_ASSIGNMENT (R496): The I3C controller assigns the device a dynamic address by SETDASA or ENTDAA. -/
  | i3cDynamicAddressAssignment (addr : BitVec 7)
deriving DecidableEq, Repr

end Sys2Proof
end

