-- ==== Sys2Proof/Config.lean ====
section
/-! DEFINITION. What one unit fixes, and the free values the manual leaves open. Every constant without a
body is uninterpreted: no proof can see its value (log entries 5 to 12). -/

namespace Sys2Proof.Config

/-- A byte the manual leaves undefined, fresh at each draw (the n-th draw of the counter of `State`). -/
opaque freeByte : Nat → Byte
/-- A number the manual leaves undetermined at this level of description (stalled cycles, timings), fresh at each draw. -/
opaque freeWord : Nat → W64
/-- The sampler's 24-bit draw (R184); software can neither seed nor read its source. -/
opaque samplerDraw : Nat → BitVec 24
/-- Where within its accuracy bound (R70) the vector engine's value of function `op` of FP32 operand `x` lies on core `core`:
reduced by the caller to an offset in units of last place. -/
opaque ulpChoice : (core op : Nat) → (x : W32) → Nat
/-- The value of a function of R70 at an operand for which the manual states none (logarithm of 0, NaN operand ...). -/
opaque openValue : (op : Nat) → (x : W32) → W32
/-- SHA-384 (R419, R461); a standard the manual names and does not define. -/
opaque sha384 : List Byte → List Byte
/-- Verification of an ECDSA brainpoolP384r1 signature under Holtaris firmware key `k` (R419, R459, R460). -/
opaque ecdsaVerify : (k : Nat) → (msg sig : List Byte) → Bool
/-- Signing with the identity key (R461). -/
opaque identitySign : List Byte → List Byte
/-- Validity of an uncompressed brainpoolP384r1 point (R441). -/
opaque pointValid : List Byte → Bool
/-- The n-th key the DRBG generates (R442); keys are named by that number and never read. -/
opaque ephemeralPublic : (n : Nat) → List Byte
/-- AES-256-GCM encryption (R455 to R457): key number, nonce, additional data, plaintext; gives ciphertext and 16-byte tag. -/
opaque gcmSeal : (key : Nat) → (nonce aad plain : List Byte) → List Byte
/-- AES-256-GCM decryption: none where the tag fails. -/
opaque gcmOpen : (key : Nat) → (nonce aad cipher : List Byte) → Option (List Byte)
/-- One line of AES-256-XTS as the Cellar register interface reads it back (R444): key number, tweak, plaintext byte index and byte. -/
opaque xtsByte : (key tweak idx : Nat) → Byte → Byte
/-- SipHash key number `n` (R442): the partition's 128-bit Vine key. -/
opaque vineKey : Nat → BitVec 128
/-- Device certificate and intermediate certificate, DER (R461). -/
opaque certificate : Nat → List Byte
/-- Identity public key, 97 bytes (R467). -/
opaque identityPublic : List Byte
/-- The calibration row of a die (R222): 4,096 bytes. -/
opaque calibration : (die idx : Nat) → Byte
/-- The identity of a die as READ_ID gives it (R240): 64 bytes, their contents not laid down. -/
opaque dieIdentity : (die idx : Nat) → Byte
/-- The block-table record as READ_BLK gives it (R240): 64 bytes that hold state, erase count, write pointer and owning entry in a layout the manual does not give. -/
opaque blkRecord : (state erases wp entry idx : Nat) → Byte
/-- The first 64 bytes of the code word of a journal record (R233): kind, channel, block, erase count and sequence number with a CRC-32C, in a layout the
manual does not give. -/
opaque journalByte : (start : Bool) → (ch block erases seq idx : Nat) → Byte
/-- The nominal number of program-verify loops of a die (R231). -/
opaque nominalLoops : (die : Nat) → Nat
/-- The challenge after the n-th attempt (R459). -/
opaque debugChallenge : Nat → BitVec 256
/-- IDCODE of the debug port (R459); not given by the manual. -/
opaque idcode : W32
/-- The boundary-scan answer (R459). -/
opaque boundaryScan : Nat → W64
/-- A word of firmware SRAM (R459); its contents are not given. -/
opaque firmwareSram : (addr draw : Nat) → W64
/-- The 16 parity symbols of a flit's FEC block (R324): RS(272,256) over 8-bit symbols, whose field and generator are not given. -/
opaque fecParity : List Byte → List Byte
/-- The table slots a model's image names, as (slot, offset of its image in the object), by the first 4,096 bytes of the object (spec/06 R149); where
the image names them is not given. -/
opaque defaultSlots : List Byte → List (Nat × Nat)
/-- The value written by a corner of a conversion the manual does not state. -/
opaque freeCode : Nat → Nat

/-- Module serial number, 12 characters (R26), per unit: a number whose 12 bytes are the characters. -/
opaque serialNumber : BitVec 96
/-- The serial's characters, first character first. -/
def serial : List Byte := (List.range 12).map fun i => serialNumber.extractLsb' (8 * i) 8
/-- Board revision (R26), per build. -/
opaque boardRevision : BitVec 16
/-- PCI Vendor ID (R26). -/
def vendorId : BitVec 16 := 0x1FC4
/-- Device IDs of the PF and of a VF, Subsystem ID and class code in configuration space (R361). -/
def deviceIdPf : BitVec 16 := 0x6408
def deviceIdVf : BitVec 16 := 0x6409
def subsystemId : BitVec 16 := 0x0001
def classCode : BitVec 24 := 0x120000
/-- Bits of the feature word the factory firmware supports (R27): all of [16:0]; bit [14] is further gated by the strap. -/
def factoryFeatures : BitVec 128 := 0x1FFFF
/-- Endpoint UUID, fixed per unit and derived from the serial (R497); the derivation is not given. -/
opaque uuid : List Byte → BitVec 128

end Sys2Proof.Config
end

