-- ==== Sys2Proof/Machine/Table.lean ====
section
/-! DEFINITION. Tables kept by key in one canonical form, and byte memories over them. -/

namespace Sys2Proof

/-- The entry of key `k`; `d` where the table lists none. -/
def Tbl.get {α : Type} (d : α) : Tbl α → Nat → α
  | [], _ => d
  | (j, x) :: t, k => if k = j then x else Tbl.get d t k

/-- Table with `k` listed as `v`. -/
def Tbl.put {α : Type} (k : Nat) (v : α) : Tbl α → Tbl α
  | [] => [(k, v)]
  | (j, x) :: t => if k < j then (k, v) :: (j, x) :: t else if k = j then (k, v) :: t else (j, x) :: Tbl.put k v t

/-- Table without key `k`. -/
def Tbl.del {α : Type} (k : Nat) : Tbl α → Tbl α
  | [] => []
  | (j, x) :: t => if k = j then Tbl.del k t else (j, x) :: Tbl.del k t

/-- Table with the entry of `k` equal to `v`: a default value is not listed. -/
def Tbl.set {α : Type} [DecidableEq α] (d : α) (t : Tbl α) (k : Nat) (v : α) : Tbl α :=
  if v = d then Tbl.del k t else Tbl.put k v t

/-- Change of one entry. -/
def Tbl.mod {α : Type} [DecidableEq α] (d : α) (t : Tbl α) (k : Nat) (f : α → α) : Tbl α :=
  Tbl.set d t k (f (Tbl.get d t k))

/-- Every key of the table is above `k` and the keys rise; no entry equals `d`. -/
def Tbl.wfAbove {α : Type} [DecidableEq α] (d : α) : Nat → Tbl α → Bool
  | _, [] => true
  | k, (j, x) :: t => decide (k < j) && decide (x ≠ d) && Tbl.wfAbove d j t

/-- The canonical form: keys strictly rising, no entry equal to what an unlisted key reads as. -/
def Tbl.wf {α : Type} [DecidableEq α] (d : α) : Tbl α → Bool
  | [] => true
  | (j, x) :: t => decide (x ≠ d) && Tbl.wfAbove d j t

/-- Entries whose key satisfies `p` removed. -/
def Tbl.drop {α : Type} (p : Nat → Bool) (t : Tbl α) : Tbl α := t.filter fun e => ! p e.1

/-- Every entry mapped; entries that become the default are no longer listed. -/
def Tbl.mapAll {α : Type} [DecidableEq α] (d : α) (f : Nat → α → α) : Tbl α → Tbl α
  | [] => []
  | (j, x) :: t =>
    let y := f j x
    if y = d then Tbl.mapAll d f t else (j, y) :: Tbl.mapAll d f t

/-- A byte memory: `Host.Cell` pairs in the canonical form; an unlisted address reads 0. -/
abbrev Memory := List Host.Cell

/-- The canonical form of a memory. -/
def Memory.wf (m : Memory) : Bool := Tbl.wf (0 : Byte) m

/-- The byte at an address. -/
def Memory.read (m : Memory) (a : Nat) : Byte := Tbl.get (0 : Byte) m a

/-- The memory with one byte written. -/
def Memory.write (m : Memory) (a : Nat) (b : Byte) : Memory := Tbl.set (0 : Byte) m a b

/-- `n` bytes from `a` up. -/
def Memory.readN (m : Memory) (a : Nat) : Nat → List Byte
  | 0 => []
  | n + 1 => Memory.read m a :: Memory.readN m (a + 1) n

/-- The memory with the bytes stored from `a` up. -/
def Memory.writeN (m : Memory) (a : Nat) : List Byte → Memory
  | [] => m
  | b :: bs => Memory.writeN (Memory.write m a b) (a + 1) bs

/-- The memory with bytes `a` to `a + n - 1` back at what an unlisted address reads as. -/
def Memory.clear (m : Memory) (a n : Nat) : Memory := Tbl.drop (fun k => decide (a ≤ k ∧ k < a + n)) m

/-- The little-endian number of a byte list (R7). -/
def leNat : List Byte → Nat
  | [] => 0
  | b :: bs => b.toNat + 256 * leNat bs

/-- The low `n` bytes of a number, least significant first (R7). -/
def natLe : Nat → Nat → List Byte
  | 0, _ => []
  | n + 1, v => BitVec.ofNat 8 v :: natLe n (v / 256)

/-- A little-endian number of `n` bytes in memory. -/
def Memory.readLe (m : Memory) (a n : Nat) : Nat := leNat (Memory.readN m a n)

/-- A number stored little-endian in `n` bytes. -/
def Memory.writeLe (m : Memory) (a n v : Nat) : Memory := Memory.writeN m a (natLe n v)

/-- Bits [hi:lo] of a number. -/
def fld (w hi lo : Nat) : Nat := (w >>> lo) % 2 ^ (hi + 1 - lo)

/-- Bit `i` of a number. -/
def bitN (w i : Nat) : Bool := (w >>> i) % 2 == 1

/-- A number for a Boolean. -/
def b2n (b : Bool) : Nat := if b then 1 else 0

/-- Quotient rounded up. -/
def ceilDiv (a b : Nat) : Nat := (a + b - 1) / b

/-- Numbers `a` to `a + n - 1`. -/
def upFrom (a n : Nat) : List Nat := (List.range n).map (a + ·)

/-- The bits set in the low `n` of a number, ascending. -/
def setBits (w n : Nat) : List Nat := (List.range n).filter (bitN w)

/-- The first entry of an association list whose key is `k`. -/
def lookupKey {α : Type} (k : Nat) : List (Nat × α) → Option α
  | [] => none
  | (j, x) :: t => if k = j then some x else lookupKey k t

end Sys2Proof
end

