-- ==== Sys2Proof/Machine/State/Cellar.lean ====
section
/-! DEFINITION. State of the Cellar: blocks, catalogue, journal, queues and the register interface (spec/09). -/

namespace Sys2Proof.Machine

/-- Block states (R223). -/
inductive BlkState where
  | free
  | allocated
  | test
  | erasePending
  | erasing
  | interrupted
  | retired
deriving DecidableEq, Repr

/-- A block table record (R223, R240). -/
structure Blk where
  st : BlkState
  erases : Nat
  /-- write pointer: the next unprogrammed code word (R237) -/
  wp : Nat
  /-- owning catalogue entry, 0 for none -/
  entry : BitVec 12
  /-- its data is committed (R224) -/
  committed : Bool
  /-- verify failures of the erase in progress; 3 where the block is to be retired (R223, R231) -/
  fails : Nat
  /-- its erase has verified and DONE is not committed yet (R233) -/
  verified : Bool
deriving DecidableEq, Repr

/-- A FREE, never erased data block. -/
def Blk.reset : Blk := ⟨.free, 0, 0, 0, false, 0, false⟩

/-- Place of a granule: channel, block and granule slot in the block (R224). -/
structure Place where
  ch : Nat
  blk : Nat
  slot : Nat
deriving DecidableEq, Repr

/-- A catalogue entry (R225). -/
structure CatE where
  used : Bool
  part : PartNo
  degraded : Bool
  size : Nat
  granules : Nat
  blocks : Nat
  firstCh : Nat
  channels : Nat
  sealTime : W64
  seqNo : W64
  /-- place of each granule that is not lost -/
  places : Tbl Place
  /-- key vintage of each granule (R446); default 0 -/
  vint : Tbl (BitVec 16)
deriving DecidableEq, Repr

/-- An unused entry number. -/
def CatE.reset : CatE := ⟨false, 0, false, 0, 0, 0, 0, 0, 0, 0, [], []⟩

/-- A place no granule has. -/
def Place.none : Place := ⟨64, 0, 0⟩

/-- A committed journal record, and the journal block that holds it (R221, R233). -/
structure JEnt where
  jr : JRec
  blk : Nat
deriving DecidableEq, Repr

/-- The newest good copy of the catalogue on a channel (R225): its sequence number, the metadata block that holds it, and its entries. -/
structure CatCopy where
  seq : W64
  blk : Nat
  cat : Tbl CatE
deriving DecidableEq, Repr

/-- No copy. -/
def CatCopy.reset : CatCopy := ⟨0, 4, []⟩

/-- A catalogue change under way (R225): a seal, or a deletion. -/
inductive CatChange where
  | seal (t : Tag) (obj : ObjNo) (entry : BitVec 12) (programmed : Bool) (e : CatE)
  | delete (entry : BitVec 12)
deriving DecidableEq, Repr

/-- Operations of a channel queue (R236), and READ_ID of the register interface (R240). -/
inductive FlcOp where
  | readG
  | progG
  | erase
  | readCal
  | readCw
  | progCw
  | dieReset
  | readId
deriving DecidableEq, Repr

/-- An operation queued on a channel, or running on a die. -/
structure DieOp where
  op : FlcOp
  desc : FlcDesc
  jrec : Option JRec
  /-- a command of the register interface rather than a descriptor (R240) -/
  reg : Bool
  /-- DEV_TIME of its start or last resume (R227) -/
  since : Nat
deriving DecidableEq, Repr

/-- A die: the operation that runs, the one it suspends, and the reads served in this suspension (R227). -/
structure DieSt where
  run : Option DieOp
  susp : Option DieOp
  served : Nat
deriving DecidableEq, Repr
/-- An idle die. -/
def DieSt.reset : DieSt := ⟨none, none, 0⟩

/-- A queue completion (R236). -/
structure FlcDone where
  qtag : BitVec 16
  result : BitVec 8
  cbits : BitVec 16
  rlvl : BitVec 4
  loops : BitVec 16
deriving DecidableEq, Repr

/-- State of the Cellar. -/
structure Cellar where
  /-- by channel × 5472 + block; default `Blk.reset` -/
  blk : Tbl Blk
  /-- user bytes at ((channel × 5472 + block) × 3072 + code word) × 16384 + byte -/
  mem : Memory
  /-- by entry number; default `CatE.reset` -/
  cat : Tbl CatE
  /-- catalogue sequence number -/
  catSeq : W64
  /-- changes not committed yet, oldest first -/
  changes : List CatChange
  /-- seal counter r (R224) -/
  sealCtr : Nat
  /-- committed journal records of each channel, oldest first (R233) -/
  journal : Tbl (List JEnt)
  /-- the catalogue's copies, by channel (R225) -/
  copies : Tbl CatCopy
  /-- keys under which the slots of blocks that have left their entries are stored, by channel × 5472 + block and slot (R240, R444) -/
  old : Tbl (Tbl Nat)
  /-- queued operations of each channel (R236) -/
  queue : Tbl (List DieOp)
  /-- by channel × 8 + die; default `DieSt.reset` -/
  die : Tbl DieSt
  /-- completions returned on each channel, oldest first -/
  done : Tbl (List FlcDone)
  /-- controller buffers (R236) -/
  buf : Memory
  /-- FLC_CHMAP (R243) -/
  chmap : BitVec 64
  /-- lock level, and whether the first key of the next pair has been written (R238) -/
  lock : Nat
  half : Bool
  /-- DEV_TIME of the last FLC_ write -/
  lastWrite : W64
  /-- FLC_ADDR (R239) -/
  addr : W32
  busy : Bool
  result : BitVec 8
  rlvl : BitVec 4
  cbits : BitVec 16
  /-- FLC_DATA (R240) -/
  data : Memory
  /-- highest corrected bits of each channel since reset (0x3002) -/
  chBits : Tbl Nat
  /-- blocks, by channel × 5472 + block, of which a read passed the WEAK threshold or needed read-retry level 4 or above (R230) -/
  worn : Tbl Bool
  /-- 0x3001:0x05 -/
  weak : Nat
  /-- planned retirement that runs; 0xFF for none (0x3012:0x01) -/
  retiring : BitVec 8
deriving DecidableEq, Repr

/-- The Cellar of a unit with no bad block and an empty catalogue (log entry 33). -/
def Cellar.reset : Cellar :=
  { blk := [], mem := [], cat := [], catSeq := 0, changes := [], sealCtr := 0, journal := [], copies := [], old := [], queue := [], die := [],
    done := [], buf := [], chmap := BitVec.allOnes 64, lock := 0, half := false, lastWrite := 0, addr := 0, busy := false,
    result := 0, rlvl := 0, cbits := 0, data := [], chBits := [], worn := [], weak := 96, retiring := 0xFF }

end Sys2Proof.Machine
end

