-- ==== Sys2Proof/Machine/State/Cores.lean ====
section
/-! DEFINITION. State of the cores, the core sequencers, the engines and the table slots (spec/04 to spec/07). -/

namespace Sys2Proof.Machine

/-- A 64-byte command descriptor (R8). -/
structure Desc where
  w0 : W64
  w1 : W64
  w2 : W64
  w3 : W64
  w4 : W64
  w5 : W64
  w6 : W64
  w7 : W64
deriving DecidableEq, Repr

/-- The all-zero descriptor. -/
def Desc.zero : Desc := ⟨0, 0, 0, 0, 0, 0, 0, 0⟩

/-- States of a tag table entry (R93). -/
inductive TagState where
  | free
  | waiting
  | ready
  | running
  | completing
deriving DecidableEq, Repr

/-- Who issued a command: a submission queue, the firmware, or a group head through RCMD (R92, R333). -/
inductive Issuer where
  | queue (q : QueueNo)
  | firmware
  | head (member : MemberNo) (ext : Nat) (ctx : W64)
deriving DecidableEq, Repr

/-- A wait of an accepted command (R98): none left, on a tag still in flight, or decided and not yet applied. -/
inductive Wait where
  | none
  | on (t : Tag)
  | got (t : Tag) (ok : Bool)
deriving DecidableEq, Repr

/-- A tag table entry (R92, R93, R103). -/
structure TagE where
  st : TagState
  /-- status kept since the last completion (R92) -/
  status : Byte
  desc : Desc
  iss : Issuer
  /-- partition epoch stamped at acceptance (R95) -/
  epoch : BitVec 16
  /-- place in acceptance order (R97) -/
  order : Nat
  wait0 : Wait
  wait1 : Wait
  /-- the commands a fence still holds this one for; none where no fence holds it (R99) -/
  fence : Option (List Tag)
  retries : Byte
  detail : BitVec 16
  result : W32
  /-- DEV_TIME at completion, low word (R103) -/
  timeLo : W32
  /-- objects this command holds a reference on (R196) -/
  refs : List ObjNo
  /-- objects it names that were DYING at its acceptance (R196) -/
  dead : List ObjNo
  /-- it has left WAITING and passed steps 6 to 11 (R95) -/
  checked : Bool
  /-- DEV_TIME at the start (R102) -/
  started : W64
  /-- DM1 rather than DM0 runs it (R97) -/
  dm1 : Bool
deriving DecidableEq, Repr

/-- A FREE entry with DONE kept (R92). -/
def TagE.reset : TagE :=
  ⟨.free, 0, Desc.zero, .firmware, 0, 0, .none, .none, none, 0, 0, 0, 0, [], [], false, 0, false⟩

/-- A barrier (R109). -/
structure Bar where
  isOpen : Bool
  part : PartNo
  count : Nat
  /-- DEV_TIME at which it times out; none for no limit -/
  limit : Option Nat
  arrivals : List Tag
deriving DecidableEq, Repr

/-- A free barrier. -/
def Bar.reset : Bar := ⟨false, 0, 0, none, []⟩

/-- A tile queue entry (R171). -/
structure Tile where
  data : List W32
  scales : List W32
  prod : Tag
  drain : Tag
  i : BitVec 8
  j : BitVec 16
  last : Bool
  fail : Bool
  scalesValid : Bool
deriving DecidableEq, Repr

/-- Scratchpad, tile queue and assignment of a core (R83 to R87, R115, R171). -/
structure CoreSt where
  inService : Bool
  assigned : Bool
  part : PartNo
  queue : List Tile
  /-- highest tile queue occupancy (R187) -/
  hwm : Nat
  /-- tiles finished by the producer and not pushed yet, and the producer's tag (R124, R131) -/
  due : List Tile
  producer : Option Tag
deriving DecidableEq, Repr

/-- A core after reset (R115). -/
def CoreSt.reset : CoreSt := ⟨true, false, 0, [], 0, [], none⟩

/-- A weight block the expander has decoded: element codes by row, channel scales (R147, R153). -/
structure WBlock where
  rowBlk : Nat
  colBlk : Nat
  codes : List (List Nat)
  scales : List W32
  scale2 : W32
  sidecar : Option (List Byte)
deriving DecidableEq, Repr

/-- Progress of a MATMUL or EXPAND that reads weight blocks (R127, R153, R157). -/
structure WxRun where
  /-- index of the next block in the sequence -/
  next : Nat
  /-- address of the next block -/
  pos : Nat
  /-- fetches of the next block that were found invalid (R79) -/
  tries : Nat
  /-- the next block was found invalid and waits to be fetched again -/
  again : Bool
  blocks : List WBlock
deriving DecidableEq, Repr

/-- Weight read at its start. -/
def WxRun.reset : WxRun := ⟨0, 0, 0, false, []⟩

/-- States of a table slot (R149). -/
inductive SlotState where
  | empty
  | loading
  | ready
deriving DecidableEq, Repr

/-- A table slot (R149, R150, R164). -/
structure Slot where
  st : SlotState
  kind : BitVec 4
  etype : BitVec 4
  cbkW : BitVec 4
  pins : BitVec 16
  version : W32
  uses : Nat
  /-- partition that loaded it -/
  part : PartNo
  image : List Byte
deriving DecidableEq, Repr

/-- A slot after reset: EMPTY, version 0. -/
def Slot.reset : Slot := ⟨.empty, 0, 0, 0, 0, 0, 0, 0, []⟩

/-- A row of a head in ATTEND's online softmax (R261): running maximum, sum, accumulators, and whether a score was NaN or +∞. -/
structure AttRow where
  m : W32
  l : W32
  acc : List W32
  bad : Bool
deriving DecidableEq, Repr

/-- Progress of an ATTEND (R254 to R263): its snapshot and its walk. -/
structure AttRun where
  /-- the snapshot has been taken -/
  on : Bool
  /-- EDIT of the snapshot epoch (R254) -/
  edit : BitVec 16
  /-- the KV map, its PAGES_MAX and TRELLIS_OFF -/
  mapObj : ObjNo
  pagesMax : Nat
  trellis : Nat
  /-- page entries of the stream as read, by page index -/
  pages : Tbl W64
  /-- walk set, ascending, and the pages of it that have not landed -/
  walk : List Nat
  todo : List Nat
  /-- state of row r of head h at h × R + r -/
  rows : List AttRow
  /-- per landed page, in landing order: each row's sum and the maximum it was taken at (R263) -/
  recs : List (Nat × List (W32 × W32))
deriving DecidableEq, Repr

/-- ATTEND before its snapshot. -/
def AttRun.reset : AttRun := ⟨false, 0, 0, 0, 0, [], [], [], [], []⟩

/-- Cores, sequencers and engines. -/
structure Cores where
  /-- by core number; default `CoreSt.reset` -/
  core : Tbl CoreSt
  /-- scratchpad bytes at core × 2^24 + offset (R84, R86) -/
  scratch : Memory
  /-- written lines at core × 2^16 + line (R86) -/
  written : Tbl Bool
  /-- by tag; default `TagE.reset` -/
  tag : Tbl TagE
  /-- commands accepted so far: the next place in acceptance order -/
  order : Nat
  /-- by BAR_ID; default `Bar.reset` -/
  bar : Tbl Bar
  /-- tiles processed by a running tile-mode VECOP, by tag -/
  drained : Tbl Nat
  /-- tiles pushed or written by a running MATMUL, by tag -/
  pushed : Tbl Nat
  /-- weight reads in progress, by tag -/
  wx : Tbl WxRun
  /-- by slot number; default `Slot.reset` -/
  slot : Tbl Slot
  /-- ATTEND commands in progress, by tag -/
  att : Tbl AttRun
  /-- MATMULs whose drainer has completed before popping LAST (R133) -/
  lost : List Tag
  /-- table slots on which a running command holds a use, by tag (R150) -/
  slotUse : Tbl (List Nat)
deriving DecidableEq, Repr

/-- Cores after reset (R92, R115, R149). -/
def Cores.reset : Cores := ⟨[], [], [], [], 0, [], [], [], [], [], [], [], []⟩

end Sys2Proof.Machine
end

