-- ==== Sys2Proof/Machine/State/Fw.lean ====
section
/-! DEFINITION. State of the firmware's components, and what the boot flash and the fuses hold (spec/15, spec/02 R49). -/

namespace Sys2Proof.Machine

/-- A copy of a component as its header states it (R419), with the outcome of the checks that read its body:
format (MAGIC, HDR_VER, COMP, reserved bytes, area), digest and signature (R420). -/
structure FwCopy where
  version : W32
  svn : Nat
  feat : W32
  iface : W32
  requires : List W32
  keyIdx : Nat
  gpv : Byte
  formOk : Bool
  digestOk : Bool
  sigOk : Bool
deriving DecidableEq, Repr

/-- An area that holds no copy. -/
def FwCopy.blank : FwCopy := ⟨0, 0, 0, 0, [], 0, 0, false, false, false⟩

/-- The copy the factory programmed, the same for every component (log entry 36). -/
def FwCopy.factory : FwCopy := ⟨0x01000000, 0, 0x1FFFF, 0x00010000, [0, 0, 0, 0, 0, 0, 0, 0], 0, 1, true, true, true⟩

/-- A boot record (R421): its SEQ, and per component the committed slot (true: B), NEXT and TRIED. -/
structure BootRec where
  seqNo : W32
  slotB : BitVec 8
  next : BitVec 8
  tried : BitVec 8
deriving DecidableEq, Repr

/-- Update states with the codes of FW_COMPST.STATE (R429, R434). -/
inductive UpState where
  | idle
  | writing
  | staged
  | pending
  | trial
  | armed
deriving DecidableEq, Repr

/-- A component as it runs (R429, R434). -/
structure Comp where
  st : UpState
  runB : Bool
  run : FwCopy
  fellback : Bool
  reason : BitVec 2
  /-- trial from a reset rather than from a LIVE activation (R429) -/
  fromReset : Bool
  /-- LIVE activation: the new copy has been switched in -/
  switched : Bool
  /-- its instances switched so far: SUPV's by CP, HIF's by instance (R414, R428) -/
  insts : BitVec 4
deriving DecidableEq, Repr

/-- A component running the factory copy of slot A. -/
def Comp.reset : Comp := ⟨.idle, false, FwCopy.factory, false, 0, false, false, 0⟩

/-- A region of a CP's memory protection unit: the component it is for, what it covers, and the accesses it allows (R415). -/
structure MpuRegion where
  comp : CompNo
  region : FwRegion
  allow : List FwAccess
deriving DecidableEq, Repr

/-- State of the firmware. -/
structure Fw where
  /-- by component; default `Comp.reset` -/
  comp : Tbl Comp
  recovery : Bool
  /-- firmware not running: the recovery image too was not valid (R424) -/
  dead : Bool
  /-- 0 none, 1 host, 2 management -/
  stager : BitVec 2
  /-- component being staged -/
  stageComp : Option CompNo
  /-- staging buffer, offset and length of the management path -/
  buf : Memory
  off : Nat
  len : Nat
  /-- DEV_TIME of the last staging command or piece -/
  lastAt : Nat
  /-- object the host stager holds a reference on -/
  stageObj : Option ObjNo
  /-- FW_STAGE_ADDR, FW_STAGE_LEN -/
  regAddr : W64
  regLen : W32
  /-- FW_RESULT, and 0xA010:0x02 -/
  result : W32
  resultMgmt : W32
  /-- command path of the running activation -/
  actMgmt : Bool
  /-- DEV_TIME ACT_WAIT counts from; none while an emergency holds it -/
  actFrom : Option Nat
  /-- FW_TRIAL_END -/
  trialEnd : Nat
  /-- HIF instance that is active (R417) -/
  hifB : Bool
  /-- regions of the memory protection units, by CP (R415) -/
  mpu : Tbl (List MpuRegion)
  /-- 0x1001:0x01 and 0x02 less the strap's bit [14] -/
  offered : BitVec 128
deriving DecidableEq, Repr

/-- The firmware after reset (R431 to R434). -/
def Fw.reset : Fw :=
  { comp := [], recovery := false, dead := false, stager := 0, stageComp := none, buf := [], off := 0, len := 0,
    lastAt := 0, stageObj := none, regAddr := 0, regLen := 0, result := 0, resultMgmt := 0, actMgmt := false, actFrom := none,
    trialEnd := 0, hifB := false, mpu := [], offered := 0x1FFFF }

/-- The persisted record of a partition (R445, R451). -/
structure PartRec where
  zero : Bool
  epoch : BitVec 16
  vintCur : BitVec 16
  vintOld : BitVec 16
  live2 : Bool
  keyCur : Option Nat
  keyOld : Option Nat
  floor1 : Nat
  floor2 : Nat
  floor3 : Nat
  cls : Nat
  removing : Bool
deriving DecidableEq, Repr

/-- What the boot flash and the fuses hold (R48, R49, R421, R426, R445). -/
structure Nv where
  /-- firmware areas by slot × 8 + component; default `FwCopy.factory` in slot A, `FwCopy.blank` in slot B -/
  area : Tbl FwCopy
  /-- the recovery image -/
  recov : FwCopy
  /-- the current boot record, if any, and records in the ring -/
  boot : Option BootRec
  bootCount : Nat
  /-- SVN fuses by component; 8 is the recovery image -/
  floor : Tbl Nat
  /-- key revocation fuses -/
  revoked : BitVec 4
  /-- RWP store: entry index × 256 + subindex to value bytes -/
  rwp : Tbl (List Byte)
  /-- partition records -/
  part : Tbl (Option PartRec)
  /-- fault records kept across reset: the last 64, oldest first (R485) -/
  faults : List (List Byte)
deriving DecidableEq, Repr

/-- Boot flash as shipped: factory copies in slot A, slot B and the stores empty (log entry 36). -/
def Nv.reset : Nv :=
  { area := [], recov := FwCopy.factory, boot := none, bootCount := 0, floor := [], revoked := 0, rwp := [], part := [],
    faults := [] }

end Sys2Proof.Machine
end

