-- ==== Sys2Proof/Machine/State/Hif.lean ====
section
/-! DEFINITION. State of the host interface: queues, leases, transfers, mailbox, interrupts, DEV_TIME (spec/13). -/

namespace Sys2Proof.Machine

/-- An entry due to a completion ring: its bytes but for the phase bit, and whether IRQ_MODE 0b00 interrupts for it (R378, R382). -/
structure Rec where
  bytes : List Byte
  irq : Bool
deriving DecidableEq, Repr

/-- A submission queue and its completion ring (R374 to R378, R392, R393). -/
structure QueueSt where
  /-- owning function (HIF_QOWN) -/
  func : BitVec 4
  sqBase : W64
  cqBase : W64
  /-- HIF_QCFG without EN -/
  cfg : W64
  en : Bool
  fault : Bool
  draining : Bool
  err : BitVec 5
  sqHead : Nat
  sqTail : Nat
  cqHead : Nat
  cqTail : Nat
  phase : Bool
  /-- records that belong to no tag entry and are due, oldest first -/
  due : List Rec
  /-- an interrupt is due that covers entries written since the last message (R382) -/
  irqDue : Bool
  /-- DEV_TIME of the last message, if any -/
  irqLast : Option W64
deriving DecidableEq, Repr

/-- A queue after reset (R392, R393). -/
def QueueSt.reset : QueueSt :=
  ⟨0, 0, 0, 0, false, false, false, 0, 0, 0, 0, 0, true, [], false, none⟩

/-- A host transfer that has started (R379 to R381). -/
structure Xfer where
  q : QueueNo
  xid : BitVec 16
  part : PartNo
  toDev : Bool
  irq : Bool
  host : Nat
  dev : Nat
  len : Nat
  /-- bytes moved so far, in order -/
  done : Nat
deriving DecidableEq, Repr

/-- Lease states (R372). -/
inductive LeaseState where
  | none
  | live
  | hold
deriving DecidableEq, Repr

/-- The lease of a function and its registers (R372, R390). -/
structure Lease where
  st : LeaseState
  ident : W64
  periodMs : Nat
  holdS : Nat
  /-- LIVE: the due. HOLD: the hold end. NONE: 0 (HIF_LEASE_DUE) -/
  due : Nat
  /-- HIF_LEASE_ID -/
  regId : W64
  /-- HIF_LEASE_CFG -/
  regCfg : W32
  /-- HIF_ATTACH.RESULT -/
  result : BitVec 8
deriving DecidableEq, Repr

/-- A lease after reset (R390). -/
def Lease.reset : Lease := ⟨.none, 0, 250, 30, 0, 0, 0x001E00FA, 0⟩

/-- An event in the backlog (R378): its ring (none: the mailbox OUT ring), the function whose sequence it is an event of (none: an
event of no sequence, or of one no lease covers), its bytes. -/
structure BackEv where
  q : Option QueueNo
  func : Option Nat
  entry : Rec
deriving DecidableEq, Repr

/-- State of the host interface. -/
structure Hif where
  /-- by queue number; default `QueueSt.reset` -/
  queue : Tbl QueueSt
  /-- running transfers, oldest first -/
  xfers : List Xfer
  /-- by function; default `Lease.reset` -/
  lease : Tbl Lease
  /-- events waiting for ring space, oldest first -/
  backlog : List BackEv
  /-- accepted feature word (R28, R29) -/
  accepted : BitVec 128
  /-- HIF_FEAT_REQ -/
  req : BitVec 128
  /-- DEV_TIME (R368) -/
  devTime : W64
  /-- the first alignment has taken place -/
  aligned : Bool
  ptmLock : Bool
  ptmLast : W64
  /-- HIF_PTM.OFFSET and PERIOD_US -/
  ptmOffset : W32
  ptmPeriod : BitVec 16
  /-- PTM Enable of configuration space (R368) -/
  ptmEn : Bool
  /-- the rate correction in force, in ppm, and the part of a nanosecond it has gathered, in millionths (R368) -/
  ptmRate : Int
  ptmFrac : Nat
  ready : Bool
  mboxReady : Bool
  /-- mailbox IN ring bytes and indices (R384, R394) -/
  mboxIn : Memory
  inHead : Nat
  inTail : Nat
  /-- mailbox OUT ring bytes, indices and phase (R386, R394) -/
  mboxOut : Memory
  outHead : Nat
  outTail : Nat
  outPhase : Bool
  /-- HIF_MBOX_STAT.DRAIN (R371) -/
  drain : Bool
  /-- enabled VFs: NumVFs of the SR-IOV capability (R361, R371) -/
  numVfs : Nat
  /-- D3hot rather than D0, by function (R361, R470) -/
  d3 : Tbl Bool
  /-- MSI-X table by function × 64 + vector: address, data, unmasked (R361, R364) -/
  msixAddr : Tbl W64
  msixData : Tbl W32
  msixOn : Tbl Bool
  /-- pending-bit array -/
  msixPend : Tbl Bool
  /-- MSI-X Enable and Function Mask by function -/
  msixEn : Tbl Bool
  msixMask : Tbl Bool
  /-- high halves latched by 32-bit reads and not read yet, by function × 2^25 + offset (R366) -/
  latch : Tbl (Option W32)
  /-- advisory non-fatal errors reported through AER (R366, R383) -/
  aer : Nat
deriving DecidableEq, Repr

/-- The host interface after reset (R388 to R394). -/
def Hif.reset : Hif :=
  { queue := [], xfers := [], lease := [], backlog := [], accepted := 1, req := 0, devTime := 0, aligned := false,
    ptmLock := false, ptmLast := 0, ptmOffset := 0, ptmPeriod := 1000, ptmEn := false, ptmRate := 0, ptmFrac := 0, ready := false, mboxReady := false, mboxIn := [],
    inHead := 0, inTail := 0, mboxOut := [], outHead := 0, outTail := 0, outPhase := true, drain := false, numVfs := 0,
    d3 := [], msixAddr := [], msixData := [], msixOn := [], msixPend := [], msixEn := [], msixMask := [], latch := [], aer := 0 }

end Sys2Proof.Machine
end

