-- ==== Sys2Proof/Machine/State/Links.lean ====
section
/-! DEFINITION. State of the Elvor ports, the device group and link transfers (spec/12). -/

namespace Sys2Proof.Machine

/-- Port states with the codes of ELK_PSTAT.STATE (R326, R355). -/
inductive PortState where
  | disabled
  | detect
  | train
  | up
  | fault
deriving DecidableEq, Repr

/-- A PKT flit kept until an ACK covers it (R325, R328): its sequence number, replays made, the packet it starts, its header and its payload. -/
structure TxFlit where
  fseq : Nat
  replays : Nat
  starts : Option Pkt
  hdr : W32
  payload : List Byte
deriving DecidableEq, Repr

/-- A link control message that waits to leave (R325, R327, R328). -/
inductive CtrlMsg where
  | init (m : InitMsg)
  | nak (last : BitVec 10)
  | retuneReq (l : LaneNo) (switchPoint : BitVec 10)
  | retuneAck
  | retuneDone (ok : Bool)
  | width (rejoin : BitVec 10)
deriving DecidableEq, Repr

/-- A port (R324 to R331, R355). -/
structure Port where
  st : PortState
  active : BitVec 4
  retired : BitVec 4
  /-- failed trainings and retunes in a row, by lane -/
  fails : Tbl Nat
  partner : List Byte
  partnerMember : MemberNo
  pport : BitVec 3
  /-- group-protocol version of the partner's last INIT -/
  pversion : BitVec 16
  retuning : Option LaneNo
  /-- this end started the retune; the lane has re-equalised and may rejoin -/
  retuneMine : Bool
  rejoin : Bool
  /-- the switch point of the retune, both ends agreed to it, and the rejoin point once it is named -/
  switchPt : BitVec 10
  agreed : Bool
  rejoinPt : Option (BitVec 10)
  /-- the retune was written to 0x5013:0x01 -/
  asked : Bool
  /-- lanes that a failed retune left out -/
  left : BitVec 4
  /-- symbols corrected on each lane since the last RETUNE_CHECK of it -/
  fixed : Tbl Nat
  /-- next FSEQ to send, and last FSEQ accepted -/
  txSeq : BitVec 10
  rxSeq : BitVec 10
  /-- unacknowledged flits, oldest first -/
  retry : List TxFlit
  /-- credits held for the partner's buffers, by VC -/
  credit : Tbl Nat
  /-- credits to return, by VC -/
  owed : Tbl Nat
  /-- flits held in the receive buffers, by VC -/
  occ : Tbl Nat
  /-- highest codec-queue occupancy -/
  hwm : Nat
  ctrl : List CtrlMsg
  /-- the bytes of the packet being received and its flits still to come, and packets received whole and not yet processed -/
  rx : Option (List Byte × Nat)
  inq : List Pkt
  /-- packets waiting for credits, by VC in order, with the port a forwarded one came from -/
  out : List (Pkt × Option PortNo)
  /-- the FEC blocks of the last sending, each as the bytes of every active lane in ascending order (R324) -/
  wire : List (List (List Byte))
  /-- DEV_TIME of entries to TRAIN, newest first -/
  trains : List Nat
deriving DecidableEq, Repr

/-- A port after reset. -/
def Port.reset : Port :=
  { st := .detect, active := 0, retired := 0, fails := [], partner := [], partnerMember := 0, pport := 0, pversion := 0, retuning := none,
    retuneMine := false, rejoin := false, switchPt := 0, agreed := false, rejoinPt := none, asked := false, left := 0, fixed := [], txSeq := 0, rxSeq := 0x3FF, retry := [], credit := [], owed := [], occ := [], hwm := 0, ctrl := [],
    rx := none, inq := [], out := [], wire := [], trains := [] }

/-- Group states with the codes of ELK_GROUP.STATE (R335, R358). -/
inductive GroupState where
  | solo
  | forming
  | grouped
  | degraded
  | satellite
deriving DecidableEq, Repr

/-- A transfer open at its source (R341). -/
structure SrcXfer where
  t : Tag
  xid : BitVec 16
  /-- extended XID wraps (R457) -/
  wraps : Nat
  member : MemberNo
  /-- OPEN sent and not answered; answered busy; accepted -/
  opened : Bool
  busy : Bool
  /-- next block to send, and blocks in all -/
  next : Nat
  blocks : Nat
  coded : Nat
deriving DecidableEq, Repr

/-- A transfer open at its destination (R341). -/
structure DstXfer where
  src : MemberNo
  xid : BitVec 16
  part : PartNo
  epoch : BitVec 16
  dst : W64
  len : Nat
  add : Bool
  etype : BitVec 4
  codec : BitVec 2
  slot : BitVec 6
  slotVer : W32
  notify : Option (BitVec 6)
  blocks : Nat
  /-- blocks written, ascending -/
  got : List Nat
deriving DecidableEq, Repr

/-- A route table entry (R337, R358). -/
structure Route where
  hops : BitVec 4
  valid : Bool
  next : MemberNo
  ports : BitVec 8
deriving DecidableEq, Repr

/-- No route. -/
def Route.reset : Route := ⟨0, false, 0, 0⟩

/-- A member as the head knows it (R334, R351). -/
structure Member where
  present : Bool
  serial : List Byte
  /-- DEV_TIME of its last BEAT -/
  beat : Nat
  /-- performance level it last reported to the head (R474) -/
  level : Nat
deriving DecidableEq, Repr

/-- No such member. -/
def Member.reset : Member := ⟨false, [], 0, 0⟩

/-- A command the head forwarded to a member and whose RDONE it awaits (R333, R344). -/
structure Fwd where
  member : MemberNo
  xid : BitVec 16
  tag : Tag
deriving DecidableEq, Repr

/-- An Object Dictionary request bridged to a member and not answered yet (R508). -/
structure Bridged where
  member : MemberNo
  xid : BitVec 16
  path : OdPath
deriving DecidableEq, Repr

/-- State of links and group. -/
structure Links where
  /-- by port; default `Port.reset` -/
  port : Tbl Port
  group : GroupState
  member : MemberNo
  size : Nat
  topology : Nat
  /-- by member; default `Member.reset` -/
  members : Tbl Member
  /-- on the head: each member's neighbours, with the number of ports of the pair (R336) -/
  nbrs : Tbl (List (Nat × Nat))
  /-- a satellite that has not yet made its one step of DEV_TIME (R338), and the objects it held when it joined -/
  fresh : Bool
  kept : List ObjNo
  /-- by member; default `Route.reset` -/
  route : Tbl Route
  /-- last DEV_TIME correction (0x5000:0x08) -/
  corr : W32
  /-- running group command and last result (0x5011) -/
  cmd : BitVec 16
  result : BitVec 8
  /-- 0x5010:0x01 -/
  list : List Byte
  /-- 0x5012 -/
  retuneAt : Nat
  replayLimit : Nat
  lossMs : Nat
  disable : BitVec 8
  /-- transfers open as source and as destination, oldest first -/
  src : List SrcXfer
  dst : List DstXfer
  /-- next XID by partition × 64 + destination, with its wraps (R457) -/
  xid : Tbl Nat
  /-- highest extended XID seen by partition × 64 + source (R457) -/
  xidSeen : Tbl Nat
  /-- notify counters by partition × 64 + counter (R344) -/
  nctr : Tbl Nat
  fwd : List Fwd
  /-- members whose acknowledgement of an EPOCH is awaited, by partition (R349) -/
  epochWait : Tbl (List Nat)
  /-- bridged Object Dictionary requests that await their response (R508), oldest first -/
  bridged : List Bridged
  /-- packets sent so far over the route entry of each member: the round-robin place of R337 -/
  rr : Tbl Nat
deriving DecidableEq, Repr

/-- Links and group after reset: every port in DETECT, SOLO (R335, R355, R358, R359). -/
def Links.reset : Links :=
  { port := [], group := .solo, member := 0, size := 1, topology := 0, members := [(0, ⟨true, [], 0, 0⟩)],
    nbrs := [], fresh := false, kept := [], route := [], corr := 0,
    cmd := 0, result := 0, list := [], retuneAt := 1000000, replayLimit := 4, lossMs := 10, disable := 0, src := [], dst := [],
    xid := [], xidSeen := [], nctr := [], fwd := [], epochWait := [], bridged := [], rr := [] }

end Sys2Proof.Machine
end

