-- ==== Sys2Proof/Machine/State/Misc.lean ====
section
/-! DEFINITION. State of the pins and power-up (spec/02), the Elvor links and the group (spec/12), the event concentrator
(spec/14), firmware components (spec/15), power and faults (spec/17), the Object Dictionary and MCTP (spec/18). -/

namespace Sys2Proof.Machine

/-- Phase of power-up (R45). -/
inductive Phase where
  | off
  | aux
  | ramping
  | held
  | rom
  | boot
  | ready
deriving DecidableEq, Repr

/-- The main rails, named by what they feed (R45). -/
inductive Rail where
  | dieLogic
  | sram
  | cask
  | rack
  | cellar
  | serDes
deriving DecidableEq, Repr
/-- The fixed order in which the main rails ramp (R45). -/
def rampOrder : List Rail := [.dieLogic, .sram, .cask, .rack, .cellar, .serDes]

/-- Pins, straps and rails (R31 to R39, R45 to R54). -/
structure Pins where
  phase : Phase
  /-- main rails switched on, in the order they ramped; the last switchings made, oldest first, on or off (R45, R47) -/
  rails : List Rail
  railLog : List (Rail × Bool)
  auxUp : Bool
  p48vOk : Bool
  pwrEn : Bool
  perstN : Bool
  pwrGood : Bool
  coolOk : Bool
  tickLvl : Bool
  mgmtMode : Bool
  addrSel : BitVec 3
  rcvyN : Bool
  tickPrsntN : Bool
  faultDrv : Bool
  thermTrip : Bool
  alertDrv : Bool
  uvSeen : Bool
  excursion : Bool
  /-- BOOT_INIT of this boot is done -/
  inited : Bool
deriving DecidableEq, Repr

/-- Pins after step 5 of R45: main rails up and PWR_GOOD high, PERST_N still asserted, open inputs high (log entry 3). -/
def Pins.reset : Pins :=
  { phase := .held, rails := rampOrder, railLog := rampOrder.map fun r => (r, true), auxUp := true, p48vOk := true, pwrEn := true, perstN := false, pwrGood := true, coolOk := true,
    tickLvl := true, mgmtMode := true, addrSel := 7, rcvyN := true, tickPrsntN := true, faultDrv := false,
    thermTrip := false, alertDrv := false, uvSeen := false, excursion := false, inited := false }

/-- The concentrator's state that is retained across NAP and DEEP (R397 to R405), by source number where per source. -/
structure EvcCore where
  count : Tbl (BitVec 8)
  pend : BitVec 256
  enable : BitVec 256
  gdis : Bool
  armed : BitVec 16
  sat : BitVec 16
  hoRun : BitVec 16
  /-- by group: DEV_TIME at which its hold-off timer was started, and the HOLDOFF it runs for (R401) -/
  hoFrom : Tbl Nat
  hoLen : Tbl (BitVec 4)
  cpEn : BitVec 16
  msiEn : BitVec 16
  cp : Tbl (BitVec 2)
  holdoff : Tbl (BitVec 4)
  vector : Tbl (BitVec 6)
deriving DecidableEq, Repr

/-- Reset values (R408 to R412). -/
def EvcCore.reset : EvcCore :=
  { count := [], pend := 0, enable := 0, gdis := false, armed := 0, sat := 0, hoRun := 0, hoFrom := [], hoLen := [], cpEn := 0, msiEn := 0, cp := [],
    holdoff := [], vector := [] }

/-- The event concentrator (spec/14). -/
structure Evc where
  core : EvcCore
  /-- retained copy while in NAP or DEEP (R405) -/
  retained : Option EvcCore
  /-- EVC_RET.RESTORED -/
  restored : Bool
  /-- messages sent, and control-processor interrupts raised (0x9000) -/
  sent : W64
  cpInts : W64
  /-- interrupt lines of CP0 to CP3 -/
  cpLine : BitVec 4
deriving DecidableEq, Repr

/-- The concentrator after reset. -/
def Evc.reset : Evc := ⟨EvcCore.reset, none, false, 0, 0, 0⟩

/-- Power states with the codes of PWR_STAT.STATE (R469, R488). OFF is `Pins.phase` before `held`. -/
inductive PwrState where
  | active
  | idle
  | nap
  | deep
deriving DecidableEq, Repr

/-- Power, thermal and fault state (spec/17). -/
structure Pwr where
  st : PwrState
  /-- DEV_TIME since which the device is IDLE -/
  idleAt : Nat
  level : Nat
  /-- cap in force, cap last written, DEV_TIME of a lowered cap not in force yet -/
  capForce : Nat
  capWritten : Nat
  capAt : Option Nat
  therm : Bool
  power : Bool
  /-- COOL_OK lost while requests were admitted (R39, R477) -/
  coolLost : Bool
  /-- DEV_TIME at which the emergency began or last dropped the level -/
  emergAt : Nat
  /-- DEV_TIME since which every sensor reads below its warning, and since which the limiter has been idle -/
  coolAt : Option Nat
  limitAt : Option Nat
  /-- level that an emergency asks for; 0 for none -/
  emergLevel : Nat
  /-- every sequence was withdrawn at L4 and nothing is admitted (R476) -/
  withdrawn : Bool
  limiting : Bool
  /-- DEV_TIME of the limiter samples of the last 100 ms at which it acted, newest first -/
  limited : List Nat
  /-- PWR_POWER -/
  now : BitVec 16
  avg100 : BitVec 16
  /-- sensor readings in 0.5 degree C by sensor: die 0 to 15, Cask 16 to 23, Rack 24 to 35, Cellar 36 to 43, stage 44 to 49, outlet 50 -/
  temp : Tbl Nat
  /-- PWR_FAULT, in the P3V3_AUX domain -/
  fault : W32
  /-- hottest die, Cask, Rack, Cellar and stage readings and the outlet's, of the rounds of the last 100 ms, newest first, by DEV_TIME -/
  tempLog : List (Nat × List Nat)
  partHold : BitVec 8
  devHold : Bool
  retiredUnits : Nat
  /-- fault records, newest first, at most 1,024 (R485) -/
  log : List (List Byte)
  /-- DEV_TIME of failed accesses, of corrections and of parity or scratchpad faults, by unit key, newest first (R481) -/
  uncorr : Tbl (List Nat)
  corr : Tbl (List Nat)
  parity : Tbl (List Nat)
  /-- a rail fault or thermal trip keeps main power off until PWR_EN has been low for 100 ms (R51, R486) -/
  latched : Bool
deriving DecidableEq, Repr

/-- Power state after reset (R488 to R493): IDLE, L0, the 550 W cap; every sensor at 40 degrees C (log entry 37). -/
def Pwr.reset : Pwr :=
  { st := .idle, idleAt := 0, level := 0, capForce := 550, capWritten := 550, capAt := none, therm := false, power := false,
    coolLost := false, emergAt := 0, coolAt := none, limitAt := none, emergLevel := 0, withdrawn := false, limiting := false, limited := [], now := 0,
    avg100 := 0, temp := [], fault := 0, tempLog := [], partHold := 0, devHold := false, retiredUnits := 0, log := [], uncorr := [], corr := [],
    parity := [], latched := false }

/-- The OD_ window of a function (R511, R512). -/
structure OdWin where
  req : W64
  resp : W32
  data : Memory
deriving DecidableEq, Repr

/-- An OD_ window after reset: MEMBER reads 0xFF. -/
def OdWin.reset : OdWin := ⟨0x00FF000000000000, 0, []⟩

/-- An Object Dictionary response (R500 to R503). -/
structure OdResp where
  result : Byte
  value : List Byte
  typ : BitVec 4
  access : BitVec 2
deriving DecidableEq, Repr

/-- An MCTP binding (R496 to R498). -/
structure Mctp where
  /-- endpoint ID; 0 is null -/
  eid : Byte
  discovered : Bool
deriving DecidableEq, Repr

/-- A binding after power-up. -/
def Mctp.reset : Mctp := ⟨0, false⟩

/-- State of the Object Dictionary and the management controller (spec/18). -/
structure Od where
  /-- values of RW and RWP entries that differ from their default, by index × 256 + subindex -/
  val : Tbl (List Byte)
  /-- cursor values by path × 2^24 + index × 256 + subindex (R506) -/
  cursor : Tbl Nat
  /-- by function; default `OdWin.reset` -/
  win : Tbl OdWin
  wpVdm : Bool
  wpSide : Bool
  /-- last response of each path: PF 0, VDM 1, SIDE 2, VF v 3 + v -/
  resp : Tbl (Option OdResp)
  /-- paths whose write of the host window waits for the firmware's commands to leave it (spec/04 R119) -/
  draining : List OdPath
  /-- bindings: VDM 0, SIDE 1 -/
  mctp : Tbl Mctp
  /-- dynamic I3C address -/
  i3c : Option (BitVec 7)
  /-- last MCTP control response sent on each binding: completion code and data bytes -/
  ctrl : Tbl (List Byte)
  /-- Discovery Notify messages sent, and IBIs with byte 0xC1 raised -/
  notifies : Nat
  ibis : Nat
  /-- address answered to the Alert Response Address -/
  ara : Option (BitVec 7)
  /-- last answer of the debug port -/
  debugOut : W64
  halted : BitVec 4
deriving DecidableEq, Repr

/-- The Object Dictionary after reset: every entry at its default. -/
def Od.reset : Od :=
  { val := [], cursor := [], win := [], wpVdm := false, wpSide := false, resp := [], draining := [], mctp := [], i3c := none, ctrl := [], notifies := 0,
    ibis := 0, ara := none, debugOut := 0, halted := 0 }

end Sys2Proof.Machine
end

