-- ==== Sys2Proof/Machine/State/Sec.lean ====
section
/-! DEFINITION. State of partitions, keys and confidential mode (spec/16). Keys are named by the number of their draw
from the DRBG and are never read (R442). -/

namespace Sys2Proof.Machine

/-- Partition states, with the codes of SEC_PART.STATE (R440, R465). -/
inductive PartState where
  | absent
  | live
  | draining
  | retiring
  | scrubbing
deriving DecidableEq, Repr

/-- A partition (R440 to R454, R465). -/
structure Part where
  st : PartState
  conf : Bool
  /-- SCRUB: ZERO rather than CRYPTO (R450) -/
  zero : Bool
  epoch : BitVec 16
  vintCur : BitVec 16
  vintOld : BitVec 16
  live2 : Bool
  /-- keys by number; none: destroyed or never made -/
  keyCur : Option Nat
  keyOld : Option Nat
  keyLink : Option Nat
  keyHost : Option Nat
  keyVine : Option Nat
  /-- number of the ephemeral key pair of R454, and the tenant's public key -/
  eph : Option Nat
  tenant : List Byte
  /-- D2H counter, highest H2D counter accepted and the accepted ones in its window (R455) -/
  d2h : Nat
  h2dMax : Option Nat
  h2dSeen : List Nat
deriving DecidableEq, Repr

/-- An ABSENT partition. -/
def Part.reset : Part := ⟨.absent, false, false, 0, 0, 0, false, none, none, none, none, none, none, [], 0, none, []⟩

/-- State of SEC. -/
structure Sec where
  /-- by partition; default `Part.reset` -/
  part : Tbl Part
  /-- partition a VF is bound to, by VF number 1 to 8 (R441) -/
  vf : Tbl (Option PartNo)
  entropyOk : Bool
  debugUnlocked : Bool
  /-- unlock attempts made: the challenge's number (R459) -/
  chal : Nat
  /-- SEC_RESULT (R464) -/
  result : W32
  /-- the command whose result stands came from the management path -/
  resultMgmt : W32
  /-- SEC_ARG -/
  arg : Memory
  /-- argument bytes of 0x8010:0x03 -/
  argMgmt : List Byte
  /-- SEC_REPORT -/
  report : List Byte
  /-- keys drawn so far -/
  keys : Nat
  /-- DRBG requests since the last reseed, and DEV_TIME of the last reseeds (R443) -/
  requests : Nat
  reseedAt : W64
  samplerAt : W64
  /-- 0x8000:0x05 -/
  refused : W64
deriving DecidableEq, Repr

/-- Partition 0 as the device creates it (R439): LIVE, CRYPTO; keys 0 (storage) and 1 (Vine). -/
def Part.zeroPart : Part :=
  { Part.reset with st := .live, keyCur := some 0, keyVine := some 1 }

/-- SEC after reset (R463 to R465). -/
def Sec.reset : Sec :=
  { part := [(0, Part.zeroPart)], vf := [], entropyOk := true, debugUnlocked := false, chal := 0, result := 0,
    resultMgmt := 0, arg := [], argMgmt := [], report := [], keys := 2, requests := 0, reseedAt := 0, samplerAt := 0,
    refused := 0 }

end Sys2Proof.Machine
end

