-- ==== Sys2Proof/Machine/State/Serving.lean ====
section
/-! DEFINITION. State of the serving engine and of the key-value cache it manages (spec/10, spec/11). -/

namespace Sys2Proof.Machine

/-- Plan states with the codes of 0x4005:0x02 (R284). -/
inductive PlanState where
  | free
  | active
  | draining
  | suspended
deriving DecidableEq, Repr

/-- A template of a plan's program section (R283). -/
structure Tmpl where
  desc : Desc
  rpt : Nat
  patch : Nat
  member : MemberNo
  stride : Nat
  /-- 1 + index of the template waited on; 0 for none -/
  wait0 : Nat
  wait1 : Nat
deriving DecidableEq, Repr

/-- A template's repetition that waits to be issued (R283): its template, the sequence with its place in the batch, the stream,
and the tags it waits on, once they are bound. -/
structure StepJob where
  tmpl : Nat
  seq : Option (SeqNo × Nat)
  stream : Nat
  bound : Option (List Tag × List Tag)
deriving DecidableEq, Repr

/-- A command a step has issued: its template (none: a NOP that joins waits), whom it belongs to, its member and tag, its
descriptor, its status and DETAIL once they are known, and the masses it recorded (R263, R298). -/
structure StepCmd where
  tmpl : Option Nat
  seq : Option (SeqNo × Nat)
  stream : Nat
  member : MemberNo
  tag : Tag
  desc : Desc
  done : Option (Byte × BitVec 16)
  mass : List (Nat × W32)
deriving DecidableEq, Repr

/-- A step to be run again on a fallback plan (R302): its batch and its number, schedule point and due. -/
structure Rerun where
  batch : List SeqNo
  k : Nat
  sched : Nat
  due : Nat
deriving DecidableEq, Repr

/-- A plan (R281 to R284, R295 to R297, R319). -/
structure Plan where
  st : PlanState
  part : PartNo
  /-- plan object and pool object -/
  obj : ObjNo
  pool : ObjNo
  /-- the 128 header bytes, as loaded -/
  hdr : List Byte
  tmpl : List Tmpl
  fallback : BitVec 8
  successor : BitVec 8
  /-- the default plan of the Basic Mailbox, whose pool is the firmware's own (R316) -/
  mbox : Bool
  tick : Bool
  offsetUs : BitVec 16
  /-- the queue and REQ_ID its RELEASE goes to; the mailbox's plan has none -/
  owner : Option (QueueNo × W32)
  /-- A of R296; an alignment of DEV_TIME may shift it below 0 -/
  anchor : Int
  /-- number the next step takes at least -/
  nextK : Nat
  /-- SRV_STEP, SRV_SCHED, SRV_DUE, SRV_COMMIT -/
  k : Nat
  sched : Nat
  due : Nat
  commit : Nat
  /-- the step in flight: its batch in ascending SEQ, its commands and the repetitions not issued yet -/
  running : Bool
  batch : List SeqNo
  cmds : List StepCmd
  todo : List StepJob
  /-- TICK: number of the next edge to anchor and the edge before it -/
  edgeK : Nat
  edge : Option Nat
  /-- edges that anchor steps not started yet, by step number -/
  edges : List (Nat × Nat)
  /-- the last edge that anchored, the intervals between such edges, newest first, and predicted edges in a row -/
  lastEdge : Option Nat
  intervals : List Nat
  missRow : Nat
  /-- TICK_LOST has been set for this run of predicted edges -/
  tickLost : Bool
  /-- a core or member of the plan was lost while the step ran (R302) -/
  lost : Bool
  /-- steps of lost plans to be run again here, oldest first -/
  rerun : List Rerun
deriving DecidableEq, Repr

/-- A FREE plan. -/
def Plan.reset : Plan :=
  { st := .free, part := 0, obj := 0, pool := 0, hdr := [], tmpl := [], fallback := 0xFF, successor := 0xFF, mbox := false, tick := false,
    offsetUs := 0, owner := none, anchor := 0, nextK := 0, k := 0, sched := 0, due := 0, commit := 0, running := false, batch := [],
    cmds := [], todo := [], edgeK := 0, edge := none, edges := [], lastEdge := none, intervals := [], missRow := 0, tickLost := false,
    lost := false, rerun := [] }

/-- Request-table states with the codes of R294. -/
inductive SeqState where
  | free
  | prefill
  | decode
  | parked
  | held
  | ending
  | safeHold
deriving DecidableEq, Repr

/-- A request-table entry (R293, R294). -/
structure Seq where
  st : SeqState
  /-- state before HELD -/
  was : SeqState
  part : PartNo
  soft : Bool
  prune : Bool
  grammar : Bool
  adapter : Bool
  vine : Bool
  mbox : Bool
  priority : BitVec 8
  plan : PlanNo
  adapterId : BitVec 6
  adapterVer : W32
  /-- the version it is pinned to, which a version number loaded anew does not name -/
  adUid : Nat
  gen : BitVec 16
  edit : BitVec 16
  /-- positions written -/
  len : Nat
  promptLen : Nat
  maxNew : Nat
  /-- prompt tokens, copied at admission -/
  prompt : List W32
  /-- pages reserved in its pool and not written yet -/
  reserved : Nat
  pool : ObjNo
  kvObj : ObjNo
  vineMatched : Nat
  reqId : W32
  /-- queue whose ring takes its events; none for the mailbox -/
  queue : Option QueueNo
  /-- function whose lease covers it (R305) -/
  func : Nat
  admitted : Nat
  /-- first step it may join -/
  k0 : Nat
  firstDl : Nat
  firstDue : Nat
  itl : Nat
  /-- tokens delivered, oldest first -/
  out : List W32
  automaton : W64
  autoState : W32
  /-- c and cp reserved, in ps -/
  cost : Nat
  costPf : Nat
  temp : W32
  topP : W32
  topK : BitVec 16
  pageBudget : Nat
  /-- END decided: status and detail -/
  endCode : Byte
  endDetail : BitVec 16
  /-- queue and REQ_ID of a PARK that waits for the retirement of the step in flight, or of a RESUME whose decant runs -/
  parkReq : Option (QueueNo × W32)
  /-- DEV_TIME at which it entered SAFE_HOLD -/
  heldAt : Nat
  /-- the decant of a RESUME runs -/
  resuming : Bool
  /-- the first token, if it was promised during a lease hold that outlived its due, carries LATE (R305) -/
  lateFirst : Bool
  /-- rows it contributes to the step in flight -/
  rows : Nat
  /-- steps it has taken part in -/
  steps : Nat
  /-- Vine salt; blocks from the start that matched or were inserted, the slot and hash of the last of them; it inserts no more -/
  salt : W64
  vineUpto : Nat
  vineParent : Nat
  vineHash : W64
  vineOff : Bool
  /-- Pruning: score of a page, and the step at which it became full, by stream × 16384 + page -/
  score : Tbl W32
  fullAt : Tbl Nat
deriving DecidableEq, Repr

/-- A FREE entry. -/
def Seq.reset : Seq :=
  { st := .free, was := .free, part := 0, soft := false, prune := false, grammar := false, adapter := false, vine := false,
    mbox := false, priority := 0, plan := 0, adapterId := 0, adapterVer := 0, adUid := 0, gen := 0, edit := 0, len := 0, promptLen := 0,
    maxNew := 0, prompt := [], reserved := 0, pool := 0, kvObj := 0, vineMatched := 0, reqId := 0, queue := none, func := 0, admitted := 0,
    k0 := 0, firstDl := 0, firstDue := 0, itl := 0, out := [], automaton := 0, autoState := 0, cost := 0, costPf := 0,
    temp := 0, topP := 0, topK := 0, pageBudget := 0, endCode := 0, endDetail := 0, parkReq := none,
    heldAt := 0, resuming := false, lateFirst := false, rows := 0, steps := 0, salt := 0, vineUpto := 0, vineParent := 0,
    vineHash := 0, vineOff := false, score := [], fullAt := [] }

/-- A live version of an adapter (R313, R314); `uid` tells it from another load of the same number. -/
structure AdVer where
  uid : Nat
  version : W32
  obj : ObjNo
  salt : W64
  pins : Nat
  plan : PlanNo
  owner : QueueNo × W32
  current : Bool
deriving DecidableEq, Repr

/-- A page or a KV map released and not freed yet (R254): its sequence, the EDIT it is tagged with, the object and the granule
(none: the whole object, a map). -/
structure Released where
  seq : SeqNo
  edit : BitVec 16
  obj : ObjNo
  gran : Option Nat
deriving DecidableEq, Repr

/-- A request to be admitted: a SUBMIT's, or a mailbox prompt with its tokens (R286, R316). -/
structure Sub where
  q : Option QueueNo
  func : Nat
  req : W32
  part : PartNo
  plan : PlanNo
  prio : BitVec 8
  vine : Bool
  adapter : Bool
  grammar : Bool
  prune : Bool
  soft : Bool
  promptLen : Nat
  maxNew : Nat
  prompt : Nat
  toks : Option (List W32)
  firstDl : Nat
  itl : Nat
  adapterId : BitVec 6
  budget : Nat
  automaton : Nat
  start : W32
  temp : W32
  topP : W32
  topK : BitVec 16
  /-- it has been held for a recompute, under the plan it was taken for -/
  kept : Bool
deriving DecidableEq, Repr

/-- An admission held until a recompute ends (R300): a request, or a RESUME as its queue and words. -/
inductive HeldReq where
  | sub (x : Sub)
  | resume (q : QueueNo) (w : List Nat)
deriving DecidableEq, Repr

/-- What a recompute after a capacity fall meets again (R301): a plan's step time at a level (of the sequences a fallback took over,
where it did), or a partition's T1 floor. -/
inductive Fall where
  | time (plan : PlanNo) (level : Nat) (moved : Option (List SeqNo))
  | t1 (part : PartNo)
deriving DecidableEq, Repr

/-- A recompute that waits for the retirement of the steps in flight at the fall, by plan (R300, R317). -/
structure Recomp where
  fall : Fall
  waits : List PlanNo
deriving DecidableEq, Repr

/-- A full page on its way from a prefill member to a decode member (spec/12 R353): whose it is, its stream and index, the two plans, the
member and tag of its LINK_PUT once that is issued, and how that ended. -/
structure HandOff where
  seq : SeqNo
  gen : BitVec 16
  stream : Nat
  page : Nat
  src : PlanNo
  dst : PlanNo
  cmd : Option (MemberNo × Tag)
  done : Option Byte
deriving DecidableEq, Repr

/-- State of the serving engine. -/
structure Srv where
  /-- by plan; default `Plan.reset` -/
  plan : Tbl Plan
  /-- by request-table entry; default `Seq.reset` -/
  seq : Tbl Seq
  /-- live versions by partition × 64 + ID, newest first -/
  adapter : Tbl (List AdVer)
  /-- Vine object of partition p, 0 for none, and the node slots it has -/
  vineObj : Tbl ObjNo
  vineNodes : Tbl Nat
  /-- node slots in use by partition, ascending -/
  vineUsed : Tbl (List Nat)
  /-- Vine slots written for partition p (0xB041) -/
  vineSlots : Tbl Nat
  /-- streams of a node whose page has its summary, as bits, by partition × 2^32 + slot (R270) -/
  vineTsum : Tbl Nat
  /-- partitions, as bits, whose Vine the next step boundary makes anew (R280) -/
  vineAnew : Nat
  /-- references on pages of pools, by object × 2^24 + granule (R252) -/
  pageRef : Tbl Nat
  released : List Released
  /-- recorded TICK edges, newest first (R38) -/
  ticks : List Nat
  /-- budget class by partition (0x4001) -/
  cls : Tbl Nat
  /-- versions of adapters loaded so far -/
  adSerial : Nat
  /-- recomputes to come, oldest first, and the admissions held for them -/
  recomp : List Recomp
  heldReq : List HeldReq
  /-- pages handed off whose edits are not applied yet, oldest first -/
  hand : List HandOff
deriving DecidableEq, Repr

/-- Serving engine after reset. -/
def Srv.reset : Srv :=
  { plan := [], seq := [], adapter := [], vineObj := [], vineNodes := [], vineUsed := [], vineSlots := [(0, 131072)], vineTsum := [], vineAnew := 0,
    pageRef := [], released := [], ticks := [], cls := [], adSerial := 0, recomp := [], heldReq := [], hand := [] }

end Sys2Proof.Machine
end

