-- ==== Sys2Proof/Machine/State/Tier.lean ====
section
/-! DEFINITION. State of the tier engine and the Unified Range (spec/08). -/

namespace Sys2Proof.Machine

/-- The tiers of external memory. -/
inductive Tier where
  | t1
  | t2
  | t3
deriving DecidableEq, Repr

/-- A frame of the Cask or the Rack: its quad or channel (R198) and the key vintage it records (R446). -/
structure Frame where
  unit : Nat
  vint : BitVec 16
deriving DecidableEq, Repr

/-- What the granule map holds of a granule (R193, R197, R202, R212). -/
structure Gran where
  t1 : Option Frame
  t2 : Option Frame
  /-- tier a working granule's reservation has been moved to; none: PLACE -/
  resv : Option Tier
  damaged : Bool
  pins : Nat
  pinTier : Tier
  /-- place of its T1 and of its T2 copy in the released list of R202, if that copy was released and not used since -/
  rel1 : Option Nat
  rel2 : Option Nat
deriving DecidableEq, Repr

/-- A granule nothing has been done to: UNWRITTEN, or with its T3 copy only. -/
def Gran.reset : Gran := ⟨none, none, none, false, 0, .t1, none, none⟩

/-- Object states (R195). -/
inductive ObjState where
  | free
  | live
  | opened
  | sealed
  | dying
deriving DecidableEq, Repr

/-- An object (R195 to R197, R202). -/
structure Obj where
  st : ObjState
  part : PartNo
  readOnly : Bool
  place : Tier
  size : Nat
  /-- catalogue entry of a SEALED object, 0 otherwise -/
  cat : BitVec 12
  age : W64
  /-- references held by accepted commands (R196) -/
  refs : Nat
  /-- state before DYING, kept for the rules that still apply -/
  was : ObjState
  /-- the OBJ_DESTROY that made it DYING -/
  destroyer : Option Tag
  /-- rotation point its granules start from (R198) -/
  rot : Nat
  /-- bytes an OPEN object reserves in T3 (R206, R224) -/
  t3 : Nat
  /-- by granule; default `Gran.reset` -/
  gran : Tbl Gran
deriving DecidableEq, Repr

/-- A FREE object number. -/
def Obj.reset : Obj := ⟨.free, 0, false, .t1, 0, 0, 0, 0, .free, none, 0, 0, []⟩

/-- Why a granule moves. -/
inductive MoveFor where
  | cmd (t : Tag)
  | fetch
deriving DecidableEq, Repr

/-- A granule move in flight (R206, R209, R210). -/
structure Mv where
  obj : ObjNo
  g : Nat
  src : Option Tier
  dst : Tier
  frame : Frame
  why : MoveFor
  /-- commands that take a pin at its commit, those that joined it among them -/
  pinners : List Tag
  /-- commands that joined it without a pin -/
  joined : List Tag
  /-- LAY_DOWN to T2 of a sealed granule: the T1 copy is dropped at the commit -/
  dropT1 : Bool
  /-- the command that moves a working granule's frame rather than adding a copy -/
  working : Bool
deriving DecidableEq, Repr

/-- Progress of a tier command (R206, R209). -/
structure TierRun where
  /-- granules not yet acted on, ascending -/
  todo : List Nat
  /-- granules acted on: RESULT -/
  count : Nat
deriving DecidableEq, Repr

/-- Nothing to do. -/
def TierRun.reset : TierRun := ⟨[], 0⟩

/-- A missed access waiting for an on-demand fetch (R204). -/
structure Miss where
  obj : ObjNo
  g : Nat
deriving DecidableEq, Repr

/-- State of the tier engine. -/
structure TierSt where
  /-- by object number; default `Obj.reset` -/
  obj : Tbl Obj
  /-- bytes of granules that hold a frame or copy, at object × 2^40 + offset -/
  mem : Memory
  /-- granule moves in flight, oldest first -/
  moves : List Mv
  /-- tier commands running, by tag -/
  run : Tbl TierRun
  misses : List Miss
  /-- granules that no frame could be made free for and that the reader reads through (R203) -/
  through : List Miss
  /-- granules to be fetched ahead once fewer than 256 moves are in flight, oldest first (R204, R206) -/
  fetchQ : List Miss
  /-- next place in the released list -/
  relNo : Nat
  /-- rotation point of the next object created (R198) -/
  rot : Nat
  /-- TIER_QUADS (R215) -/
  quads : BitVec 64
  /-- TIER_RACK (R215) -/
  rack : BitVec 12
  /-- floors in bytes of partition p: T1, T2, T3 (R218) -/
  floor1 : Tbl Nat
  floor2 : Tbl Nat
  floor3 : Tbl Nat
  /-- quads that hold the two copies of the map region (R194) -/
  map0 : Nat
  map1 : Nat
  /-- 0x2009:0x01 -/
  fetchAhead : Nat
deriving DecidableEq, Repr

/-- T1 object capacity before any retirement (R194). -/
def t1Capacity0 : Nat := 410169376768
/-- T2 object capacity before any retirement (R211). -/
def t2Capacity0 : Nat := 824633720832
/-- Cellar data blocks times their bytes before any retirement: 64 channels of 5,461 blocks (see spec/09). -/
def t3Capacity0 : Nat := 64 * 5461 * 768 * 65536

/-- The tier engine after reset; partition 0 holds the whole of each tier as its floor (R218). -/
def TierSt.reset : TierSt :=
  { obj := [], mem := [], moves := [], run := [], misses := [], through := [], fetchQ := [], relNo := 0, rot := 0,
    quads := BitVec.allOnes 64, rack := BitVec.allOnes 12,
    floor1 := [(0, t1Capacity0)], floor2 := [(0, t2Capacity0)], floor3 := [(0, t3Capacity0)],
    map0 := 0, map1 := 8, fetchAhead := 15 }

end Sys2Proof.Machine
end

