-- ==== Sys2Proof/Machine/State.lean ====
section
/-! DEFINITION. The state of the device, the reasons a command can stop, and the state after reset. -/

namespace Sys2Proof.Machine

/-- What the module holds outside the boot flash and the fuses. -/
structure Dev where
  pins : Pins
  cores : Cores
  tier : TierSt
  cellar : Cellar
  srv : Srv
  links : Links
  hif : Hif
  evc : Evc
  fw : Fw
  sec : Sec
  pwr : Pwr
  od : Od
  /-- unit event registers, by `evtKey` (R396) -/
  evt : Tbl W32
  /-- counter registers, by `cntKey` -/
  cnt : Tbl W64
  /-- running totals since reset that the Object Dictionary reports, by index × 256 + subindex (R139) -/
  tot : Tbl W64
  /-- counter values sampled at the last multiple of 10 ms (R458) -/
  cntHeld : Tbl W64
  totHeld : Tbl W64
  /-- draws made from the free values of `Config` (log entry 5) -/
  draws : Nat
deriving DecidableEq, Repr

/-- The device after reset. -/
def Dev.reset : Dev :=
  { pins := Pins.reset, cores := Cores.reset, tier := TierSt.reset, cellar := Cellar.reset, srv := Srv.reset, links := Links.reset,
    hif := Hif.reset, evc := Evc.reset, fw := Fw.reset, sec := Sec.reset, pwr := Pwr.reset, od := Od.reset, evt := [], cnt := [],
    tot := [], cntHeld := [], totHeld := [], draws := 0 }

/-- The whole state: the device, its boot flash and fuses, the host's memory as the device reads and writes it (log entry 4),
and the commands that wait, first in, first out. -/
structure State where
  dev : Dev
  nv : Nv
  host : Memory
  pending : List Instr
deriving DecidableEq, Repr

/-- Reasons for which a command faults: none, since every command of the table has an effect. -/
inductive Fault where
deriving DecidableEq, Repr

/-- Reasons for which a command is refused. -/
inductive Refusal where
  /-- raised by an arm of exec that has no meaning yet; safe: nothing is claimed of such a command -/
  | notModelled (mnemonic : String)
deriving DecidableEq, Repr

/-- The state right after reset: PERST_N still asserted after step 5 of R45 (log entry 3). -/
def State.reset : State := { dev := Dev.reset, nv := Nv.reset, host := [], pending := [] }

end Sys2Proof.Machine
end

