-- ==== Sys2Proof/Machine/Ops.lean ====
section
/-! DEFINITION. Named operations over the device: registers, counters, event bits, scratchpad, free values, and the
completion of a command with its record (spec/04 R86, R92 to R106; spec/14 R395 to R399). -/

namespace Sys2Proof.Machine

/-! Status codes (R14). -/
def stDONE : Byte := 0x00
def stLATE : Byte := 0x01
def stMISSED : Byte := 0x02
def stABORTED : Byte := 0x03
def stLENGTH : Byte := 0x04
def stADMISSION : Byte := 0x05
def stRIGHTS : Byte := 0x06
def stBUSYSLOT : Byte := 0x07
def stRETRIED : Byte := 0x08
def stWITHDRAWN : Byte := 0x09
def stSTALE : Byte := 0x0A
def stUNCORR : Byte := 0x0B
def stNOTSUP : Byte := 0x0C

/-- DONE, RETRIED_DONE and LATE count as success (R98). -/
def stSuccess (s : Byte) : Bool := s == stDONE || s == stRETRIED || s == stLATE

/-- A field locator (R104): word, lowest bit, reason. -/
def locator (word bit reason : Nat) : BitVec 16 := BitVec.ofNat 16 (0x8000 + word % 8 * 4096 + bit % 64 * 64 + reason % 64)

/-! Descriptor fields (R90). -/

/-- Word `i` of a descriptor as a number. -/
def Desc.w (x : Desc) : Nat → Nat
  | 0 => x.w0.toNat
  | 1 => x.w1.toNat
  | 2 => x.w2.toNat
  | 3 => x.w3.toNat
  | 4 => x.w4.toNat
  | 5 => x.w5.toNat
  | 6 => x.w6.toNat
  | 7 => x.w7.toNat
  | _ => 0
/-- Bits [hi:lo] of word `i`. -/
def Desc.f (x : Desc) (i hi lo : Nat) : Nat := fld (x.w i) hi lo
/-- OPCODE. -/
def Desc.op (x : Desc) : Nat := x.f 0 7 0
/-- TAG. -/
def Desc.tag (x : Desc) : Tag := BitVec.ofNat 12 (x.f 0 19 8)
/-- PART. -/
def Desc.part (x : Desc) : PartNo := BitVec.ofNat 3 (x.f 0 22 20)
/-- CORE. -/
def Desc.core (x : Desc) : CoreNo := BitVec.ofNat 6 (x.f 0 29 24)
/-- IRQ. -/
def Desc.irq (x : Desc) : Bool := bitN x.w0.toNat 35
/-- QUIET. -/
def Desc.quiet (x : Desc) : Bool := bitN x.w0.toNat 36
/-- FENCE. -/
def Desc.fence (x : Desc) : Bool := bitN x.w0.toNat 37
/-- The descriptor of 64 bytes (R7, R8). -/
def Desc.ofBytes (bs : List Byte) : Desc :=
  let w := fun i => BitVec.ofNat 64 (leNat ((bs.drop (8 * i)).take 8))
  ⟨w 0, w 1, w 2, w 3, w 4, w 5, w 6, w 7⟩
/-- Its 64 bytes. -/
def Desc.bytes (x : Desc) : List Byte :=
  [x.w0, x.w1, x.w2, x.w3, x.w4, x.w5, x.w6, x.w7].flatMap fun w => natLe 8 w.toNat

/-- Run by a chip unit rather than by a core (R91). -/
def opChip (op : Nat) : Bool := op == 0x14 || (0x40 ≤ op && op ≤ 0x5F)

/-! Accessors: every table of the device is read and written here. -/

def Dev.core (d : Dev) (c : CoreNo) : CoreSt := Tbl.get CoreSt.reset d.cores.core c.toNat
def Dev.setCore (d : Dev) (c : CoreNo) (v : CoreSt) : Dev :=
  { d with cores := { d.cores with core := Tbl.set CoreSt.reset d.cores.core c.toNat v } }
def Dev.tagE (d : Dev) (t : Tag) : TagE := Tbl.get TagE.reset d.cores.tag t.toNat
def Dev.setTag (d : Dev) (t : Tag) (v : TagE) : Dev :=
  { d with cores := { d.cores with tag := Tbl.set TagE.reset d.cores.tag t.toNat v } }
def Dev.slot (d : Dev) (n : Nat) : Slot := Tbl.get Slot.reset d.cores.slot n
def Dev.setSlot (d : Dev) (n : Nat) (v : Slot) : Dev :=
  { d with cores := { d.cores with slot := Tbl.set Slot.reset d.cores.slot n v } }
def Dev.bar (d : Dev) (n : Nat) : Bar := Tbl.get Bar.reset d.cores.bar n
def Dev.setBar (d : Dev) (n : Nat) (v : Bar) : Dev :=
  { d with cores := { d.cores with bar := Tbl.set Bar.reset d.cores.bar n v } }
def Dev.obj (d : Dev) (o : ObjNo) : Obj := Tbl.get Obj.reset d.tier.obj o.toNat
def Dev.setObj (d : Dev) (o : ObjNo) (v : Obj) : Dev :=
  { d with tier := { d.tier with obj := Tbl.set Obj.reset d.tier.obj o.toNat v } }
def Dev.part (d : Dev) (p : PartNo) : Part := Tbl.get Part.reset d.sec.part p.toNat
def Dev.setPart (d : Dev) (p : PartNo) (v : Part) : Dev :=
  { d with sec := { d.sec with part := Tbl.set Part.reset d.sec.part p.toNat v } }
def Dev.queue (d : Dev) (q : QueueNo) : QueueSt := Tbl.get QueueSt.reset d.hif.queue q.toNat
def Dev.setQueue (d : Dev) (q : QueueNo) (v : QueueSt) : Dev :=
  { d with hif := { d.hif with queue := Tbl.set QueueSt.reset d.hif.queue q.toNat v } }
def Dev.lease (d : Dev) (f : Nat) : Lease := Tbl.get Lease.reset d.hif.lease f
def Dev.setLease (d : Dev) (f : Nat) (v : Lease) : Dev :=
  { d with hif := { d.hif with lease := Tbl.set Lease.reset d.hif.lease f v } }
def Dev.plan (d : Dev) (p : PlanNo) : Plan := Tbl.get Plan.reset d.srv.plan p.toNat
def Dev.setPlan (d : Dev) (p : PlanNo) (v : Plan) : Dev :=
  { d with srv := { d.srv with plan := Tbl.set Plan.reset d.srv.plan p.toNat v } }
def Dev.seq (d : Dev) (q : SeqNo) : Seq := Tbl.get Seq.reset d.srv.seq q.toNat
def Dev.setSeq (d : Dev) (q : SeqNo) (v : Seq) : Dev :=
  { d with srv := { d.srv with seq := Tbl.set Seq.reset d.srv.seq q.toNat v } }
def Dev.port (d : Dev) (p : PortNo) : Port := Tbl.get Port.reset d.links.port p.toNat
def Dev.setPort (d : Dev) (p : PortNo) (v : Port) : Dev :=
  { d with links := { d.links with port := Tbl.set Port.reset d.links.port p.toNat v } }
def Dev.blk (d : Dev) (ch b : Nat) : Blk := Tbl.get Blk.reset d.cellar.blk (ch * 5472 + b)
def Dev.setBlk (d : Dev) (ch b : Nat) (v : Blk) : Dev :=
  { d with cellar := { d.cellar with blk := Tbl.set Blk.reset d.cellar.blk (ch * 5472 + b) v } }
def Dev.cat (d : Dev) (n : Nat) : CatE := Tbl.get CatE.reset d.cellar.cat n
def Dev.setCat (d : Dev) (n : Nat) (v : CatE) : Dev :=
  { d with cellar := { d.cellar with cat := Tbl.set CatE.reset d.cellar.cat n v } }
def Dev.comp (d : Dev) (c : Nat) : Comp := Tbl.get Comp.reset d.fw.comp c
def Dev.setComp (d : Dev) (c : Nat) (v : Comp) : Dev :=
  { d with fw := { d.fw with comp := Tbl.set Comp.reset d.fw.comp c v } }

/-- DEV_TIME. -/
def Dev.now (d : Dev) : Nat := d.hif.devTime.toNat

/-- Feature bit `i` of the accepted word (R27, R28). -/
def Dev.feature (d : Dev) (i : Nat) : Bool := d.hif.accepted.getLsbD i

/-- A feature bit as a command's checks read it: on a satellite the head's driver has accepted what its head sends (R334). -/
def Dev.grants (d : Dev) (i : Nat) : Bool := d.feature i || d.links.group == .satellite

/-- Device-scope Safe Hold. -/
def Dev.held (d : Dev) : Bool := d.pwr.devHold

/-- Value of a numeric dictionary entry: the one written, else its default (R19). -/
def Dev.odNat (d : Dev) (ent dflt : Nat) : Nat :=
  match lookupKey ent d.od.val with
  | some bs => leNat bs
  | none => dflt

/-- Tag range word of a partition (R118): base in [27:16], size in [12:0]. -/
def Dev.tagRange (d : Dev) (p : PartNo) : Nat := d.odNat (0xB001 * 256 + p.toNat + 1) (if p = 0 then 0x800 else 0)
/-- Host window (R118). -/
def Dev.hostWindow (d : Dev) : Nat := d.odNat (0xB000 * 256 + 1) 2048
/-- Transient retry limit (R118). -/
def Dev.retryLimit (d : Dev) : Nat := d.odNat (0xB000 * 256 + 2) 3
/-- Watchdog limit in ns (R118). -/
def Dev.watchdogNs (d : Dev) : Nat := d.odNat (0xB000 * 256 + 3) 50000000
/-- Slots a partition owns (R165). -/
def Dev.slotMask (d : Dev) (p : PartNo) : Nat := d.odNat (0xB020 * 256 + p.toNat + 1) (if p = 0 then 2 ^ 64 - 1 else 0)
/-- Partition `p` owns slot `n` (R152). -/
def Dev.slotOwned (d : Dev) (p : PartNo) (n : Nat) : Bool := bitN (d.slotMask p) n

/-- An effect on the device alone: boot flash, host memory and the queue of commands stay. -/
def State.onDev (s : State) (f : Dev → Dev) : Host.Outcome State Fault Refusal := .next { s with dev := f s.dev }

/-! Free values (log entry 5). -/

/-- `n` bytes the manual leaves undefined, and the device with the draws counted. -/
def Dev.freeBytes (d : Dev) (n : Nat) : List Byte × Dev :=
  ((List.range n).map fun i => Config.freeByte (d.draws + i), { d with draws := d.draws + n })

/-- One number the manual leaves undetermined. -/
def Dev.freeNat (d : Dev) : Nat × Dev := ((Config.freeWord d.draws).toNat, { d with draws := d.draws + 1 })

/-! Counters (R139): a counter register is named by its offset in PF BAR0 (R364), a total by its dictionary entry. -/

/-- The counter at `off` raised by `n`, wrapping at 2^64. -/
def Dev.addCnt (d : Dev) (off n : Nat) : Dev :=
  { d with cnt := Tbl.mod (0 : W64) d.cnt off (· + BitVec.ofNat 64 n) }

/-- The total of dictionary entry `ent` raised by `n`. -/
def Dev.addTot (d : Dev) (ent n : Nat) : Dev :=
  { d with tot := Tbl.mod (0 : W64) d.tot ent (· + BitVec.ofNat 64 n) }

/-- Both. -/
def Dev.count (d : Dev) (off ent n : Nat) : Dev := (d.addCnt off n).addTot ent n

/-- Offset of register `r` of core `c` in the CORE_, MXE_, VE_, WX_ and ATT_ blocks (R364). -/
def coreReg (c : CoreNo) (r : Nat) : Nat := 0x200000 + c.toNat * 0x1000 + r
def mxeReg (c : CoreNo) (r : Nat) : Nat := 0x240000 + c.toNat * 0x1000 + r
def veReg (c : CoreNo) (r : Nat) : Nat := 0x280000 + c.toNat * 0x1000 + r
def wxReg (c : CoreNo) (r : Nat) : Nat := 0x300000 + c.toNat * 0x1000 + r
def attReg (c : CoreNo) (r : Nat) : Nat := 0x380000 + c.toNat * 0x1000 + r
def tierReg (r : Nat) : Nat := 0x11000 + r
def srvReg (r : Nat) : Nat := 0x12000 + r
def flcReg (r : Nat) : Nat := 0x40000 + r
def pwrReg (r : Nat) : Nat := 0x10000 + r
def elkReg (p : PortNo) (r : Nat) : Nat := 0x30000 + p.toNat * 0x1000 + r

/-- A number of cycles or ns that only timing decides, added to a stall counter (log entry 2). -/
def Dev.stall (d : Dev) (off ent : Nat) : Dev :=
  let p := d.freeNat
  p.2.count off ent p.1

/-! Event bits and the concentrator's record of them. -/

/-- Key of a unit's event register. -/
def evtKey : EvtReg → Nat
  | .coreEvt c => c.toNat * 8
  | .mxeEvt c => c.toNat * 8 + 1
  | .wxEvt c => c.toNat * 8 + 2
  | .veEvt c => c.toNat * 8 + 3
  | .attEvt c => c.toNat * 8 + 4
  | .tierEvt => 0x1000
  | .attChipEvt => 0x1001
  | .flcEvt => 0x1002
  | .srvEvt => 0x1003
  | .elkEvt p => 0x1010 + p.toNat
  | .elkGevt => 0x1004
  | .hifEvt f => 0x1020 + f.val
  | .pwrEvt => 0x1005
  | .fwEvt => 0x1006
  | .secEvt => 0x1007

/-- The defined bits of a unit's event register (R117, R137, R163, R189, R278, R217, R244, R321, R357, R391, R491, R435, R466). -/
def evtMask : EvtReg → Nat
  | .coreEvt _ => 0x7
  | .mxeEvt _ => 0xF
  | .wxEvt _ => 0x7
  | .veEvt _ => 0xF
  | .attEvt _ => 0xF
  | .tierEvt => 0x1F
  | .attChipEvt => 0x7
  | .flcEvt => 0x7F
  | .srvEvt => 0xFF
  | .elkEvt _ => 0xFF
  | .elkGevt => 0xF
  | .hifEvt _ => 0xFF
  | .pwrEvt => 0x3FF01FF
  | .fwEvt => 0x7FF
  | .secEvt => 0x3FF

/-- The sources that fire when the bits of `mask` are set (R396); one firing for a source that covers several bits (R395). -/
def evtSources (r : EvtReg) (mask : Nat) : List Nat :=
  match r with
  | .coreEvt c | .mxeEvt c | .wxEvt c | .veEvt c | .attEvt c => if mask = 0 then [] else [c.toNat]
  | .elkEvt p => if mask = 0 then [] else [0x70 + p.toNat]
  | .tierEvt => (setBits mask 32).map (0x40 + ·)
  | .attChipEvt => (setBits mask 32).map (0x45 + ·)
  | .flcEvt => (setBits mask 32).map (0x50 + ·)
  | .srvEvt => (setBits mask 32).map (0x60 + ·)
  | .elkGevt => (setBits mask 32).map (0x78 + ·)
  | .hifEvt _ => (setBits mask 32).map (0x80 + ·)
  | .pwrEvt => (setBits mask 32).map (0x90 + ·)
  | .fwEvt => (setBits mask 32).map (0xB0 + ·)
  | .secEvt => (setBits mask 32).map (0xC0 + ·)

/-- Group `g` requests delivery: one of its sources is pending and enabled (R399). -/
def EvcCore.req (e : EvcCore) (g : Nat) : Bool := fld (e.pend &&& e.enable).toNat (16 * g + 15) (16 * g) ≠ 0

/-- Source `n` fires: a counter that reaches 255 sets its group's bit in EVC_SAT (R397 to R399). -/
def EvcCore.fire (e : EvcCore) (n : Nat) : EvcCore :=
  let c := Tbl.get (0 : BitVec 8) e.count n
  let c' : BitVec 8 := if c = 255 then 255 else c + 1
  let g := n / 16
  { e with
    count := Tbl.set (0 : BitVec 8) e.count n c'
    sat := if c ≠ 255 ∧ c' = 255 then e.sat ||| BitVec.ofNat 16 (2 ^ g) else e.sat
    pend := e.pend ||| BitVec.ofNat 256 (2 ^ n)
    armed := if e.enable.getLsbD n then e.armed ||| BitVec.ofNat 16 (2 ^ g) else e.armed }

/-- A firing goes to the retained state while the device is in NAP or DEEP, where only sources 0x90 to 0xAF fire (R405). -/
def Evc.fire (e : Evc) (n : Nat) : Evc :=
  match e.retained with
  | none => { e with core := e.core.fire n }
  | some r => if 0x90 ≤ n ∧ n ≤ 0xAF then { e with retained := some (r.fire n) } else e

/-- A unit sets event bits: its register, and at once the sources (R395). -/
def Dev.setEvt (d : Dev) (r : EvtReg) (mask : Nat) : Dev :=
  let m := (BitVec.ofNat 32 mask &&& BitVec.ofNat 32 (evtMask r)).toNat
  { d with
    evt := Tbl.mod (0 : W32) d.evt (evtKey r) (· ||| BitVec.ofNat 32 m)
    evc := (evtSources r m).foldl Evc.fire d.evc }

/-- Source `n` fires `k` times more in a row. -/
def EvcCore.more (e : EvcCore) (n k : Nat) : EvcCore :=
  let c := (Tbl.get (0 : BitVec 8) e.count n).toNat
  let c' := min 255 (c + k)
  { e with
    count := Tbl.set (0 : BitVec 8) e.count n (BitVec.ofNat 8 c')
    sat := if c ≠ 255 ∧ c' = 255 then e.sat ||| BitVec.ofNat 16 (2 ^ (n / 16)) else e.sat }
/-- Event bits that a unit sets in one cycle or in several: one firing, and a free number of firings more, since a source fires once in each cycle in
which a bit is set, whatever bits they are (R395), and how many cycles those were is timing (log entry 2). -/
def Dev.setEvtCycles (d : Dev) (r : EvtReg) (mask : Nat) : Dev :=
  let p := (d.setEvt r mask).freeNat
  if p.2.evc.retained.isSome then p.2
  else { p.2 with evc := { p.2.evc with core := (evtSources r mask).foldl (fun e n => e.more n p.1) p.2.evc.core } }

/-- A unit's event register. -/
def Dev.evtReg (d : Dev) (r : EvtReg) : W32 := Tbl.get (0 : W32) d.evt (evtKey r)

/-! MGMT_ALERT_N (R499). -/

/-- A condition holds that MGMT_ALERT_N reports. -/
def Dev.alertCond (d : Dev) : Bool := d.pins.faultDrv || d.pwr.power || d.pwr.therm || d.pwr.devHold
/-- The pin is released when none of the conditions holds. -/
def Dev.alertRelease (d : Dev) : Dev := { d with pins := { d.pins with alertDrv := d.pins.alertDrv && d.alertCond } }

/-! Scratchpad (R84 to R86). -/

/-- Size of a scratchpad. -/
def spSize : Nat := 0x300000

/-- Key of a scratchpad byte. -/
def spKey (c : CoreNo) (off : Nat) : Nat := c.toNat * 2 ^ 24 + off

/-- Lines that bytes `off` to `off + n - 1` touch. -/
def linesOf (off n : Nat) : List Nat := if n = 0 then [] else upFrom (off / 64) ((off + n - 1) / 64 - off / 64 + 1)

/-- Lines of a range that have not been written. -/
def Dev.unwritten (d : Dev) (c : CoreNo) (off n : Nat) : Nat :=
  ((linesOf off n).filter fun l => ! Tbl.get false d.cores.written (c.toNat * 2 ^ 16 + l)).length

/-- Bytes of a scratchpad; an unwritten line reads zero and counts in CORE_CNT_ZREAD (R86). -/
def Dev.spRead (d : Dev) (c : CoreNo) (off n : Nat) : List Byte × Dev :=
  (Memory.readN d.cores.scratch (spKey c off) n,
   if d.unwritten c off n = 0 then d else d.addCnt (coreReg c 0x18) (d.unwritten c off n))

/-- Bytes stored to a scratchpad; the lines become written (R86). Bytes of an unwritten line that are not stored read zero. -/
def Dev.spWrite (d : Dev) (c : CoreNo) (off : Nat) (bs : List Byte) : Dev :=
  { d with cores := { d.cores with
      scratch := Memory.writeN d.cores.scratch (spKey c off) bs
      written := (linesOf off bs.length).foldl (fun w l => Tbl.set false w (c.toNat * 2 ^ 16 + l) true) d.cores.written } }

/-- All written bits of a core cleared, so that every line reads zero (R86). -/
def Dev.spClear (d : Dev) (c : CoreNo) : Dev :=
  { d with cores := { d.cores with
      scratch := Memory.clear d.cores.scratch (spKey c 0) (2 ^ 24)
      written := Tbl.drop (fun k => k / 2 ^ 16 == c.toNat) d.cores.written } }

/-! Tag table. -/

/-- In flight: WAITING, READY, RUNNING or COMPLETING (R92). -/
def TagE.inFlight (e : TagE) : Bool := decide (e.st ≠ .free)
/-- Accepted and not completed. -/
def TagE.live (e : TagE) : Bool := decide (e.st = .waiting ∨ e.st = .ready ∨ e.st = .running)

/-- The unit that orders a command (R97, R99): its core, or the chip unit: 64 tier engine, 65 link unit, 66 MASK unit. -/
def unitOf (x : Desc) : Nat :=
  if x.op = 0x14 then 66 else if 0x50 ≤ x.op ∧ x.op ≤ 0x5F then 65 else if 0x40 ≤ x.op ∧ x.op ≤ 0x4F then 64 else x.core.toNat

/-- Tags accepted and not completed by a unit. -/
def Dev.liveOf (d : Dev) (u : Nat) : List Tag :=
  (d.cores.tag.filter fun e => e.2.live && unitOf e.2.desc == u).map fun e => BitVec.ofNat 12 e.1

/-- Commands a core has accepted and not completed (R115). -/
def Dev.accepted (d : Dev) (c : CoreNo) : Nat := (d.liveOf c.toNat).length

/-- A wait decided by a completion (R98). -/
def Wait.decide (t : Tag) (ok : Bool) : Wait → Wait
  | .on u => if u = t then .got t ok else .on u
  | w => w

/-- What the completion of `t` does to another entry: waits are decided, fences shorten (R98, R99). -/
def TagE.noteDone (t : Tag) (ok : Bool) (e : TagE) : TagE :=
  { e with wait0 := e.wait0.decide t ok, wait1 := e.wait1.decide t ok, fence := e.fence.map (·.filter (· ≠ t)) }

/-- One reference on each listed object returned (R196). -/
def Dev.dropRefs (d : Dev) (os : List ObjNo) : Dev :=
  os.foldl (fun d o => d.setObj o { d.obj o with refs := (d.obj o).refs - 1 }) d

/-- One reference on each listed object taken. -/
def Dev.takeRefs (d : Dev) (os : List ObjNo) : Dev :=
  os.foldl (fun d o => d.setObj o { d.obj o with refs := (d.obj o).refs + 1 }) d

/-- The command's progress records are dropped when it completes. -/
def Cores.forget (c : Cores) (t : Tag) : Cores :=
  { c with
    drained := Tbl.del t.toNat c.drained
    pushed := Tbl.del t.toNat c.pushed
    wx := Tbl.del t.toNat c.wx
    att := Tbl.del t.toNat c.att
    lost := c.lost.filter (· ≠ t)
    slotUse := Tbl.del t.toNat c.slotUse }

/-- Uses of the slots a command holds returned (R150). -/
def Dev.dropUses (d : Dev) (t : Tag) : Dev :=
  (Tbl.get [] d.cores.slotUse t.toNat).foldl (fun d n => d.setSlot n { d.slot n with uses := (d.slot n).uses - 1 }) d

/-- The MATMULs into the tile queue, not completed, whose DRAIN_TAG names the command `e` of tag `t`, accepted after them (R130, R133, R173). -/
def Dev.drainedBy (d : Dev) (t : Tag) (e : TagE) : List Tag :=
  (d.cores.tag.filter fun p => p.2.live && p.2.desc.op == 0x10 && !bitN (p.2.desc.w 4) 14 && p.2.desc.f 4 11 0 == t.toNat &&
    decide (p.2.order < e.order)).map fun p => BitVec.ofNat 12 p.1
/-- A tile of drainer `t`: any, for a VECOP that drains this core's queue, else one of the producers `ps`. -/
def Tile.leftBy (t : Tag) (all : Bool) (ps : List Tag) (e : Tile) : Bool := e.drain == t && (all || ps.contains e.prod)
/-- Tiles that name a drainer are discarded when it completes, with any status, before it popped LAST; its producers still at work are marked
(R130, R133, R174). -/
def Dev.drainerGone (d : Dev) (t : Tag) (e : TagE) : Dev :=
  let ps := d.drainedBy t e
  let tq := e.desc.op == 0x11 && bitN (e.desc.w 4) 41
  { d with cores := { d.cores with
      core := Tbl.mapAll CoreSt.reset (fun c k =>
        let left := Tile.leftBy t (tq && c == e.desc.core.toNat) ps
        { k with queue := k.queue.filter fun x => !left x, due := k.due.filter fun x => !left x }) d.cores.core
      lost := ps ++ d.cores.lost } }

/-- The producer role is left when the producer completes. -/
def Dev.producerGone (d : Dev) (t : Tag) (c : CoreNo) : Dev :=
  let k := d.core c
  if k.producer = some t then d.setCore c { k with producer := none, due := [] } else d

/-- What a completion counts: CORE_CNT_DONE, ATT_CNT_CMD, the status totals, and the core's event bits (R116 to R118, R277). -/
def Dev.countDone (d : Dev) (x : Desc) (st : Byte) : Dev :=
  let d := if st.toNat ≤ 0x0C then d.addTot (0xB002 * 256 + st.toNat + 1) 1 else d
  if opChip x.op then d
  else
    let d := d.addCnt (coreReg x.core 0x08) 1
    let d := if x.op = 0x30 then d.count (attReg x.core 0x08) (0xB040 * 256 + 1) 1 else d
    if st = stUNCORR then d.setEvt (.coreEvt x.core) 2 else if st = stRETRIED then d.setEvt (.coreEvt x.core) 1 else d

/-- The command of tag `t` completes: its entry enters COMPLETING with its status decided, waits on it are decided, fences
shorten, its references and uses are returned (R92, R93, R98, R99, R103, R196). A tag that is not accepted is left alone. -/
def Dev.complete (d : Dev) (t : Tag) (st : Byte) (detail : BitVec 16) (result : Nat) : Dev :=
  let e := d.tagE t
  if e.live then
    let d := d.countDone e.desc st
    let d := d.dropUses t
    let d := d.dropRefs e.refs
    let d := d.drainerGone t e
    let d := d.producerGone t e.desc.core
    let d := { d with cores := d.cores.forget t }
    let d := { d with cores := { d.cores with tag := Tbl.mapAll TagE.reset (fun _ => TagE.noteDone t (stSuccess st)) d.cores.tag } }
    d.setTag t { e with st := .completing, status := st, detail := detail, result := BitVec.ofNat 32 result,
                        timeLo := d.hif.devTime.truncate 32, wait0 := .none, wait1 := .none, fence := none, refs := [], dead := [] }
  else d

/-- Completion with success: RETRIED_DONE where a retry was needed (R105). -/
def Dev.completeOk (d : Dev) (t : Tag) (result : Nat) : Dev :=
  d.complete t (if (d.tagE t).retries = 0 then stDONE else stRETRIED) 0 result

/-- The two words of a completion record but for the phase bit (R103); TIME_LO is coarsened for a confidential partition (R458). -/
def recordBytes (d : Dev) (x : Desc) (st retries : Byte) (detail : BitVec 16) (result timeLo : W32) : List Byte :=
  let t := if (d.part x.part).conf then timeLo.toNat / 65536 * 65536 else timeLo.toNat
  let c0 := detail.toNat * 2 ^ 48 + retries.toNat * 2 ^ 40 + x.op * 2 ^ 32 + (if opChip x.op then 0 else x.core.toNat) * 2 ^ 24 +
    x.part.toNat * 2 ^ 20 + x.tag.toNat * 2 ^ 8 + st.toNat
  natLe 8 c0 ++ natLe 8 (result.toNat * 2 ^ 32 + t)

/-- The record of an entry. -/
def Dev.tagRecord (d : Dev) (e : TagE) : Rec :=
  ⟨recordBytes d e.desc e.status e.retries e.detail e.result e.timeLo, e.desc.irq⟩

/-- The entry returns to FREE, keeping its status (R92). -/
def Dev.freeTag (d : Dev) (t : Tag) : Dev := d.setTag t { TagE.reset with status := (d.tagE t).status }

end Sys2Proof.Machine
end

