-- ==== Sys2Proof/Machine/Clock.lean ====
section
/-! DEFINITION. What passes with time alone: DEV_TIME counts nanoseconds from the deassertion of PERST_N (R368), and at
each multiple of 10 ms the counters are sampled for confidential mode (R458). -/

namespace Sys2Proof.Machine

/-- DEV_TIME set to `t`, with the counters sampled where it passes a multiple of 10 ms. -/
def Dev.setTime (d : Dev) (t : W64) : Dev :=
  let new := t.toNat / 10000000 ≠ d.hif.devTime.toNat / 10000000
  let d := { d with hif := { d.hif with devTime := t } }
  if new then { d with cntHeld := d.cnt, totHeld := d.tot } else d

/-- Millionths of a nanosecond by which DEV_TIME stands further after a nanosecond of the oscillator at the rate in force (R368). -/
def Hif.gathered (h : Hif) : Nat := h.ptmFrac + (1000000 + h.ptmRate).toNat

/-- One nanosecond of the oscillator, while the device is powered and out of reset. -/
def Dev.tickNs (d : Dev) : Dev :=
  if d.pins.perstN && d.pins.pwrGood then
    let n := d.hif.gathered
    { d with hif := { d.hif with ptmFrac := n % 1000000 } }.setTime (d.hif.devTime + BitVec.ofNat 64 (n / 1000000))
  else d

/-- An empty queue: time passes (log entry 1). -/
def idleTick (s : State) : State := { s with dev := s.dev.tickNs }

end Sys2Proof.Machine
end

