-- ==== Sys2Proof/Machine/Fp.lean ====
section
/-! DEFINITION. Number formats, conversion, rounding and exact arithmetic (spec/03, R55 to R70). A float value is held
exactly, as an integer times a power of two, until the rounding the manual names narrows it. -/

namespace Sys2Proof

/-- A value of a float format: NaN, an infinity, or (−1)^neg × mag × 2^exp exactly. -/
inductive Fp where
  | nan
  | inf (neg : Bool)
  | fin (neg : Bool) (mag : Nat) (exp : Int)
deriving DecidableEq, Repr

/-- Type codes of R55. -/
inductive Ty where
  | int4 | int8 | uint8 | int32 | e4m3 | e5m2 | bf16 | fp32
deriving DecidableEq, Repr

/-- The type of a 4-bit code; none for a reserved code. -/
def Ty.ofCode : Nat → Option Ty
  | 0 => some .int4
  | 1 => some .int8
  | 2 => some .uint8
  | 3 => some .int32
  | 4 => some .e4m3
  | 5 => some .e5m2
  | 6 => some .bf16
  | 7 => some .fp32
  | _ => none

/-- Width in bits. -/
def Ty.bits : Ty → Nat
  | .int4 => 4
  | .int8 | .uint8 | .e4m3 | .e5m2 => 8
  | .bf16 => 16
  | .int32 | .fp32 => 32

/-- Width in bytes of a type of at least a byte. -/
def Ty.bytes (t : Ty) : Nat := ceilDiv t.bits 8

/-- Number of binary digits. -/
def bitLen (n : Nat) : Nat := if n = 0 then 0 else Nat.log2 n + 1

/-- num ÷ den rounded to the nearest integer, ties to even. -/
def rneDiv (num den : Nat) : Nat :=
  let q := num / den
  let r := 2 * (num % den)
  if r < den then q else if r = den then (if q % 2 = 0 then q else q + 1) else q + 1

/-- num × 2^e as a fraction. -/
def scalePair (num den : Nat) (e : Int) : Nat × Nat :=
  if 0 ≤ e then (num * 2 ^ e.toNat, den) else (num, den * 2 ^ (-e).toNat)

/-- The exponent of the unit in the last place of `num ÷ den × 2^e` in a format of `p` significant bits whose least unit is 2^emin. -/
def ulpExp (p : Nat) (emin : Int) (num den : Nat) (e : Int) : Int :=
  let x0 : Int := (bitLen num : Int) - bitLen den + e - p
  let pr := scalePair num den (e - x0)
  let x := if pr.1 / pr.2 < 2 ^ p then x0 else x0 + 1
  if x < emin then emin else x

/-- `num ÷ den × 2^e` rounded to nearest even in that format: the integer significand and its exponent. -/
def rneSig (p : Nat) (emin : Int) (num den : Nat) (e : Int) : Nat × Int :=
  let x := ulpExp p emin num den e
  let pr := scalePair num den (e - x)
  (rneDiv pr.1 pr.2, x)

/-- Binary32 bits of a significand at an exponent (overflow gives infinity). -/
def packF32 (neg : Bool) (sig : Nat) (x : Int) : W32 :=
  let body := ((x + 149).toNat) * 2 ^ 23 + sig
  BitVec.ofNat 32 ((if body < 0x7F800000 then body else 0x7F800000) + b2n neg * 2 ^ 31)

/-- A fraction rounded to FP32, nearest even. -/
def ratF32 (neg : Bool) (num den : Nat) (e : Int) : W32 :=
  if num = 0 then BitVec.ofNat 32 (b2n neg * 2 ^ 31)
  else
    let r := rneSig 24 (-149) num den e
    packF32 neg r.1 r.2

/-- The quiet NaN the device writes in FP32 (log entry 21). -/
def nanF32 : W32 := 0x7FC00000

/-- Rounding to FP32, nearest even (R70). -/
def Fp.toF32 : Fp → W32
  | .nan => nanF32
  | .inf n => if n then 0xFF800000 else 0x7F800000
  | .fin n m e => ratF32 n m 1 e

/-- The value of FP32 bits. -/
def Fp.ofF32 (w : W32) : Fp :=
  let n := w.toNat
  let s := bitN n 31
  let ex := fld n 30 23
  let m := fld n 22 0
  if ex = 255 then (if m = 0 then .inf s else .nan)
  else if ex = 0 then .fin s m (-149)
  else .fin s (m + 2 ^ 23) ((ex : Int) - 150)

/-- The value of BF16 bits. -/
def Fp.ofBf16 (n : Nat) : Fp := Fp.ofF32 (BitVec.ofNat 32 (n * 65536))

/-- The value of an FP8E4M3 code (R55). -/
def Fp.ofE4m3 (n : Nat) : Fp :=
  let s := bitN n 7
  let ex := fld n 6 3
  let m := fld n 2 0
  if ex = 15 ∧ m = 7 then .nan
  else if ex = 0 then .fin s m (-9)
  else .fin s (m + 8) ((ex : Int) - 10)

/-- The value of an FP8E5M2 code (R55). -/
def Fp.ofE5m2 (n : Nat) : Fp :=
  let s := bitN n 7
  let ex := fld n 6 2
  let m := fld n 1 0
  if ex = 31 then (if m = 0 then .inf s else .nan)
  else if ex = 0 then .fin s m (-16)
  else .fin s (m + 4) ((ex : Int) - 17)

/-- A signed integer as a value. -/
def Fp.ofInt (i : Int) : Fp := .fin (decide (i < 0)) i.natAbs 0

/-- Two's complement of `b` bits. -/
def signedOf (b n : Nat) : Int := if n % 2 ^ b < 2 ^ (b - 1) then (n % 2 ^ b : Nat) else ((n % 2 ^ b : Nat) : Int) - (2 ^ b : Nat)

/-- The value of a code of a type. -/
def Fp.ofCode (t : Ty) (n : Nat) : Fp :=
  match t with
  | .int4 => Fp.ofInt (signedOf 4 n)
  | .int8 => Fp.ofInt (signedOf 8 n)
  | .uint8 => Fp.ofInt ((n % 256 : Nat) : Int)
  | .int32 => Fp.ofInt (signedOf 32 n)
  | .e4m3 => Fp.ofE4m3 n
  | .e5m2 => Fp.ofE5m2 n
  | .bf16 => Fp.ofBf16 n
  | .fp32 => Fp.ofF32 (BitVec.ofNat 32 n)

/-- Conversion of a code to FP32 on reading: exact, but for INT32 which is rounded (R70). -/
def codeToF32 (t : Ty) (n : Nat) : W32 := (Fp.ofCode t n).toF32

/-- Signed magnitude at exponent `e`, for exact sums. -/
def Fp.atExp (neg : Bool) (mag : Nat) (e e0 : Int) : Int :=
  let m : Nat := mag * 2 ^ (e - e0).toNat
  if neg then - (m : Int) else m

/-- Exact sum; an exact zero is −0 only where both addends are −0. -/
def Fp.add : Fp → Fp → Fp
  | .nan, _ => .nan
  | _, .nan => .nan
  | .inf a, .inf b => if a = b then .inf a else .nan
  | .inf a, _ => .inf a
  | _, .inf b => .inf b
  | .fin s m e, .fin t n f =>
    let e0 := min e f
    let v := Fp.atExp s m e e0 + Fp.atExp t n f e0
    if v = 0 then .fin (s && t) 0 0 else .fin (decide (v < 0)) v.natAbs e0

/-- Exact product. -/
def Fp.mul : Fp → Fp → Fp
  | .nan, _ => .nan
  | _, .nan => .nan
  | .inf a, .inf b => .inf (a != b)
  | .inf a, .fin t n _ => if n = 0 then .nan else .inf (a != t)
  | .fin s m _, .inf b => if m = 0 then .nan else .inf (s != b)
  | .fin s m e, .fin t n f => .fin (s != t) (m * n) (e + f)

/-- Sign change. -/
def Fp.neg : Fp → Fp
  | .nan => .nan
  | .inf a => .inf (!a)
  | .fin s m e => .fin (!s) m e

/-- Exact sum of a list, from its first element; the empty sum is +0. A sum of exactly zero is -0 only where every term is -0, and terms
that are no product of the run take no part (DESIGN CHOICE, log entry 102). -/
def Fp.sum : List Fp → Fp
  | [] => .fin false 0 0
  | x :: xs => xs.foldl Fp.add x

/-- FP32 sum, rounded once (R70). -/
def f32Add (x y : W32) : W32 := ((Fp.ofF32 x).add (Fp.ofF32 y)).toF32
/-- FP32 difference. -/
def f32Sub (x y : W32) : W32 := ((Fp.ofF32 x).add (Fp.ofF32 y).neg).toF32
/-- FP32 product. -/
def f32Mul (x y : W32) : W32 := ((Fp.ofF32 x).mul (Fp.ofF32 y)).toF32
/-- FP32 fused multiply-add. -/
def f32Fma (x y z : W32) : W32 := (((Fp.ofF32 x).mul (Fp.ofF32 y)).add (Fp.ofF32 z)).toF32
/-- Sign bit inverted. -/
def f32Neg (x : W32) : W32 := x ^^^ 0x80000000
/-- Sign bit cleared. -/
def f32Abs (x : W32) : W32 := x &&& 0x7FFFFFFF
/-- Is a NaN. -/
def f32IsNan (x : W32) : Bool := decide ((f32Abs x).toNat > 0x7F800000)
/-- Is an infinity. -/
def f32IsInf (x : W32) : Bool := decide (f32Abs x = 0x7F800000)
/-- Is +0 or −0. -/
def f32IsZero (x : W32) : Bool := decide (f32Abs x = 0)
/-- Is positive, finite and normal (R66, R78). -/
def f32PosNormal (x : W32) : Bool := decide (0x00800000 ≤ x.toNat ∧ x.toNat < 0x7F800000)
/-- Order key: −0 below +0; meaningful where neither is NaN. -/
def f32Key (x : W32) : Int := if bitN x.toNat 31 then - ((f32Abs x).toNat : Int) - 1 else (x.toNat : Int)
/-- x > y as real numbers (the zeros are equal). -/
def f32Gt (x y : W32) : Bool :=
  !(f32IsNan x) && !(f32IsNan y) && !(f32IsZero x && f32IsZero y) && decide (f32Key x > f32Key y)
/-- MIN of R177. -/
def f32Min (x y : W32) : W32 := if f32IsNan x || f32IsNan y then nanF32 else if f32Key x ≤ f32Key y then x else y
/-- MAX of R177. -/
def f32Max (x y : W32) : W32 := if f32IsNan x || f32IsNan y then nanF32 else if f32Key x ≥ f32Key y then x else y
/-- 1.0. -/
def oneF32 : W32 := 0x3F800000

/-- Dequantisation of R65: (acc × a_r) × s_c, a zero s_c giving +0. -/
def dequant (acc ar sc : W32) : W32 := if f32IsZero sc then 0 else f32Mul (f32Mul acc ar) sc

/-- Value of a channel scale code as significand and exponent (R62). -/
def qcPair (q : Nat) : Nat × Int :=
  let e := fld q 7 4
  let m := fld q 3 0
  if e = 0 then (m, -10) else (16 + m, (e : Int) - 11)

/-- The effective scale of a channel (R63). -/
def effScale (scale2 : W32) (q : Nat) : W32 :=
  let p := qcPair q
  ((Fp.ofF32 scale2).mul (.fin false p.1 p.2)).toF32

/-- A converted code with what it adds to the saturation and numeric-fault counters. -/
structure Conv where
  code : Nat
  sat : Nat
  flt : Nat
deriving DecidableEq, Repr

/-- A value rounded to the nearest integer, ties to even: the exact product x × k of R66 goes through here once. -/
def Fp.rneInt : Fp → Int
  | .fin s m e =>
    let pr := scalePair m 1 e
    let v : Nat := rneDiv pr.1 pr.2
    if s then - (v : Int) else v
  | _ => 0

/-- Saturation to `lo .. hi`. -/
def satInt (lo hi v : Int) : Int := if v < lo then lo else if hi < v then hi else v

/-- Two's complement code of `b` bits. -/
def codeOfInt (b : Nat) (v : Int) : Nat := (v % ((2 ^ b : Nat) : Int)).toNat

/-- A value rounded to BF16, nearest even. -/
def Fp.toBf16 : Fp → Nat
  | .nan => 0x7FC0
  | .inf s => 0x7F80 + b2n s * 0x8000
  | .fin s m e =>
    if m = 0 then b2n s * 0x8000
    else
      let r := rneSig 8 (-133) m 1 e
      let body := ((r.2 + 133).toNat) * 2 ^ 7 + r.1
      (if body < 0x7F80 then body else 0x7F80) + b2n s * 0x8000

/-- Conversion of FP32 to BF16 (R68). -/
def toBf16 (x : W32) : Conv := ⟨(Fp.ofF32 x).toBf16, 0, 0⟩

/-- Conversion to FP8E4M3 (R68); a finite overflow or an infinity saturates to ±448. -/
def toE4m3 (x : W32) : Conv :=
  match Fp.ofF32 x with
  | .nan => ⟨0x7F, 0, 0⟩
  | .inf s => ⟨0x7E + b2n s * 0x80, 1, 0⟩
  | .fin s m e =>
    if m = 0 then ⟨b2n s * 0x80, 0, 0⟩
    else
      let r := rneSig 4 (-9) m 1 e
      let body := ((r.2 + 9).toNat) * 8 + r.1
      if body ≤ 0x7E then ⟨body + b2n s * 0x80, 0, 0⟩ else ⟨0x7E + b2n s * 0x80, 1, 0⟩

/-- Conversion to FP8E5M2 (R68); a finite overflow saturates to ±57,344, an infinity stays. -/
def toE5m2 (x : W32) : Conv :=
  match Fp.ofF32 x with
  | .nan => ⟨0x7E, 0, 0⟩
  | .inf s => ⟨0x7C + b2n s * 0x80, 0, 0⟩
  | .fin s m e =>
    if m = 0 then ⟨b2n s * 0x80, 0, 0⟩
    else
      let r := rneSig 3 (-16) m 1 e
      let body := ((r.2 + 16).toNat) * 4 + r.1
      if body ≤ 0x7B then ⟨body + b2n s * 0x80, 0, 0⟩ else ⟨0x7B + b2n s * 0x80, 1, 0⟩

/-- Conversion to an integer range of `b` bits (R68). -/
def toIntCode (b : Nat) (lo hi : Int) (x : W32) : Conv :=
  match Fp.ofF32 x with
  | .nan => ⟨0, 0, 1⟩
  | .inf s => ⟨codeOfInt b (if s then lo else hi), 1, 0⟩
  | v =>
    let i := v.rneInt
    ⟨codeOfInt b (satInt lo hi i), if i < lo ∨ hi < i then 1 else 0, 0⟩

/-- Conversion of FP32 to a result type (R68). INT8 goes through R66 instead; INT4 is never a result type. -/
def f32To (t : Ty) (x : W32) : Conv :=
  match t with
  | .bf16 => toBf16 x
  | .e4m3 => toE4m3 x
  | .e5m2 => toE5m2 x
  | .int32 => toIntCode 32 (-2147483648) 2147483647 x
  | .uint8 => toIntCode 8 0 255 x
  | .int8 => toIntCode 8 (-127) 127 x
  | .int4 => toIntCode 4 (-8) 7 x
  | .fp32 => ⟨x.toNat, 0, 0⟩

/-- RNE_K of R66: num ÷ den rounded to a 24-bit significand without limit of exponent. -/
def rneK (num den : Nat) (e : Int) : Fp :=
  let x0 : Int := (bitLen num : Int) - bitLen den + e - 24
  let pr := scalePair num den (e - x0)
  let x := if pr.1 / pr.2 < 2 ^ 24 then x0 else x0 + 1
  let pr2 := scalePair num den (e - x)
  .fin false (rneDiv pr2.1 pr2.2) x

/-- One INT8 code by R66 from k: an infinity saturates and a NaN is a numeric fault. -/
def quantCode (k : Fp) (x : W32) : Conv :=
  match Fp.ofF32 x with
  | .nan => ⟨0, 0, 1⟩
  | .inf s => ⟨codeOfInt 8 (if s then -127 else 127), 1, 0⟩
  | v =>
    let i := (v.mul k).rneInt
    ⟨codeOfInt 8 (satInt (-127) 127 i), if i < -127 ∨ 127 < i then 1 else 0, 0⟩

/-- k of the static rule: RNE_K(1 ÷ a_r) for a positive, finite, normal a_r (R66). -/
def staticK (ar : W32) : Fp :=
  match Fp.ofF32 ar with
  | .fin _ m e => if m = 0 then .fin false 0 0 else rneK 1 m (-e)
  | _ => .fin false 0 0

/-- Largest magnitude of a row; NaN where an element is NaN. -/
def rowAmax (xs : List W32) : W32 := xs.foldl (fun a x => f32Max a (f32Abs x)) 0

/-- A requantised row: its scale and its codes. -/
structure QRow where
  scale : W32
  codes : List Nat
  sat : Nat
  flt : Nat
deriving DecidableEq, Repr

/-- Dynamic requantisation of a row to INT8 (R66). -/
def quantRow (xs : List W32) : QRow :=
  let amax := rowAmax xs
  if f32IsNan amax || f32IsInf amax then ⟨nanF32, xs.map fun _ => 0, 0, 1⟩
  else
    match Fp.ofF32 amax with
    | .fin _ m e =>
      if m = 0 then ⟨oneF32, xs.map fun _ => 0, 0, 0⟩
      else
        let k := rneK 127 m (-e)
        let cs := xs.map (quantCode k)
        ⟨ratF32 false m 127 e, cs.map (·.code), cs.foldl (fun a c => a + c.sat) 0, cs.foldl (fun a c => a + c.flt) 0⟩
    | _ => ⟨nanF32, xs.map fun _ => 0, 0, 1⟩

/-- The operand pairs of R57. -/
def pairAllowed : Ty → Ty → Bool
  | .int4, .int8 => true
  | .int8, .int8 => true
  | .e4m3, .e4m3 => true
  | .e4m3, .e5m2 => true
  | .e5m2, .e4m3 => true
  | .e5m2, .e5m2 => true
  | .bf16, .bf16 => true
  | _, _ => false

/-- An integer pair accumulates in INT32 (R57, R58). -/
def pairInteger : Ty → Bool
  | .int4 | .int8 => true
  | _ => false

/-- The exact integer dot product, and the one clamp to INT32 (R58): the FP32 value and whether it was clamped. -/
def dotInt (ta tb : Ty) (a b : List Nat) : W32 × Bool :=
  let prod := List.zipWith (fun x y => signedOf ta.bits x * signedOf tb.bits y) a b
  let v := prod.foldl (· + ·) (0 : Int)
  ((Fp.ofInt (satInt (-2147483648) 2147483647 v)).toF32, decide (v < -2147483648 ∨ 2147483647 < v))

/-- One FP32 accumulation: the exact sum of a run added with one rounding (R59). -/
def accRun (acc : W32) (run : List Fp) : W32 := ((Fp.ofF32 acc).add (Fp.sum run)).toF32

/-- The runs of 32 consecutive K positions, ascending, by fuel (R59). -/
def accRuns : Nat → W32 → List Fp → W32
  | 0, acc, _ => acc
  | n + 1, acc, ps => if ps.isEmpty then acc else accRuns n (accRun acc (ps.take 32)) (ps.drop 32)

/-- The float dot product from accumulator `acc` (R59, R128). -/
def dotFloat (ta tb : Ty) (acc : W32) (a b : List Nat) : W32 :=
  let prod := List.zipWith (fun x y => (Fp.ofCode ta x).mul (Fp.ofCode tb y)) a b
  accRuns (prod.length / 32 + 1) acc prod

end Sys2Proof
end

