-- ==== Sys2Proof/Machine/Operands.lean ====
section
/-! DEFINITION. What a descriptor's words say: address words and the regions they name, type codes, length and count fields,
and the checks of R95 steps 7 to 11 with each opcode's own checks after them (spec/04 R88 to R95, R110, R111; spec/05
R125 to R129; spec/06 R156 to R158; spec/07 R178 to R182; spec/08 R205 to R207; spec/10 R256 to R258; spec/11 R308, R309;
spec/12 R339, R340, R344). A reserved bit no chapter checks has no effect (log entry 13). -/

namespace Sys2Proof.Machine

/-! Address words (R88). -/

/-- Scratchpad form. -/
def isSp (w : Nat) : Bool := bitN w 63
/-- CORE of a scratchpad-form address. -/
def spCore (w : Nat) : CoreNo := BitVec.ofNat 6 (fld w 29 24)
/-- Offset of a scratchpad-form address. -/
def spOff (w : Nat) : Nat := fld w 21 0
/-- A scratchpad-form address that names a byte. -/
def spFormed (w : Nat) : Bool := fld w 62 30 == 0 && fld w 23 22 == 0 && decide (spOff w < spSize)
/-- OBJ of an object-form address (R192). -/
def urObj (w : Nat) : ObjNo := BitVec.ofNat 16 (fld w 55 40)
/-- OFFSET of an object-form address. -/
def urOff (w : Nat) : Nat := fld w 39 0
/-- Its reserved bits are zero. -/
def urFormed (w : Nat) : Bool := fld w 62 56 == 0

/-- An address word a command uses: word number, its value, bytes from the address to the region's last one (0: only the
ownership is checked), whether it is written, and whether the command may name another core's scratchpad. -/
structure Area where
  word : Nat
  addr : Nat
  span : Nat
  write : Bool
deriving DecidableEq, Repr

/-- Two regions share a byte. -/
def Area.overlaps (a b : Area) : Bool :=
  if isSp a.addr != isSp b.addr then false
  else if isSp a.addr then
    decide (spCore a.addr = spCore b.addr ∧ spOff a.addr < spOff b.addr + b.span ∧ spOff b.addr < spOff a.addr + a.span)
  else decide (urObj a.addr = urObj b.addr ∧ urOff a.addr < urOff b.addr + b.span ∧ urOff b.addr < urOff a.addr + a.span)

/-- A check that ends the command when it is broken. -/
structure Chk where
  bad : Bool
  st : Byte
  det : BitVec 16
deriving DecidableEq, Repr

/-- The first broken check. -/
def firstBad : List Chk → Option (Byte × BitVec 16)
  | [] => none
  | c :: cs => if c.bad then some (c.st, c.det) else firstBad cs

/-- An unsupported option: NOT_SUPPORTED with reason 0x05. -/
def optChk (bad : Bool) (word bit : Nat) : Chk := ⟨bad, stNOTSUP, locator word bit 5⟩

/-- The operands of a command: type fields (word, bit, allowed), length and count fields (word, hi, lo), address words, the
checks after step 11. -/
structure OpSpec where
  types : List (Nat × Nat × Bool)
  sizes : List (Nat × Nat × Nat)
  areas : List Area
  post : List Chk
deriving DecidableEq, Repr

/-- No operands. -/
def OpSpec.none : OpSpec := ⟨[], [], [], []⟩

/-! MOVE (R110, R111). -/

def mvRows (x : Desc) : Nat := x.f 3 63 32
def mvBytes (x : Desc) : Nat := x.f 3 31 0
def mvDstStride (x : Desc) : Nat := x.f 4 63 32
def mvSrcStride (x : Desc) : Nat := x.f 4 31 0
def mvZero (x : Desc) : Bool := bitN (x.w 5) 3
def mvMover (x : Desc) : Nat := x.f 5 1 0
def mvSrc (x : Desc) : Area := ⟨1, x.w 1, (mvRows x - 1) * mvSrcStride x + mvBytes x, false⟩
def mvDst (x : Desc) : Area := ⟨2, x.w 2, (mvRows x - 1) * mvDstStride x + mvBytes x, true⟩

def specMove (x : Desc) : OpSpec :=
  { types := []
    sizes := [(3, 63, 32), (3, 31, 0)]
    areas := if mvZero x then [mvDst x] else [mvSrc x, mvDst x]
    post := [optChk (mvZero x && decide (x.w 1 ≠ 0)) 1 0,
             optChk (mvMover x == 3) 5 0,
             optChk (decide (mvDstStride x < mvBytes x ∧ 1 < mvRows x)) 4 32,
             optChk (!mvZero x && (mvSrc x).overlaps (mvDst x)) 2 0] }

/-! MATMUL (R125 to R129). -/

def mmN (x : Desc) : Nat := x.f 3 63 44
def mmK (x : Desc) : Nat := x.f 3 43 24
def mmM (x : Desc) : Nat := x.f 3 11 0
def mmBStride (x : Desc) : Nat := x.f 4 63 48
def mmCoStride (x : Desc) : Nat := x.f 4 47 32
def mmAType (x : Desc) : Option Ty := Ty.ofCode (x.f 4 31 28)
def mmBType (x : Desc) : Option Ty := Ty.ofCode (x.f 4 27 24)
def mmMask (x : Desc) : Nat := x.f 4 23 20
def mmMode (x : Desc) : Nat := x.f 4 19 18
def mmWx (x : Desc) : Bool := bitN (x.w 4) 17
def mmRowMajor (x : Desc) : Bool := bitN (x.w 4) 16
def mmCIn (x : Desc) : Bool := bitN (x.w 4) 15
def mmOut (x : Desc) : Bool := bitN (x.w 4) 14
def mmDrain (x : Desc) : Tag := BitVec.ofNat 12 (x.f 4 11 0)
def mmAStride (x : Desc) : Nat := x.f 7 63 48
def mmRb0 (x : Desc) : Nat := x.f 7 31 16
def mmCb0 (x : Desc) : Nat := x.f 7 15 0
/-- K extent of an A tile (R120). -/
def kTile (t : Ty) : Nat := if t = .int4 then 32 else 16
/-- Bytes of an A tile (R120). -/
def tileBytes (t : Ty) : Nat := if t = .bf16 then 512 else 256
/-- Number of engines in use. -/
def mmEngines (x : Desc) : List Nat := setBits (mmMask x) 4

/-- Width of a possibly absent type; 8 where there is none (the type check comes first). -/
def tyBits : Option Ty → Nat
  | some t => t.bits
  | none => 8
/-- The type itself. -/
def tyOr (t : Option Ty) : Ty := t.getD .int8

def mmB (x : Desc) : Area := ⟨1, x.w 1, (mmM x - 1) * mmBStride x * 64 + ceilDiv (mmK x * tyBits (mmBType x)) 8, false⟩
def mmASpan (x : Desc) : Nat :=
  if mmWx x then (if isSp (x.w 2) then 0 else 1)
  else if mmRowMajor x then (mmN x - 1) * mmAStride x * 64 + ceilDiv (mmK x * tyBits (mmAType x)) 8
  else ceilDiv (mmN x) 16 * ceilDiv (mmK x) (kTile (tyOr (mmAType x))) * tileBytes (tyOr (mmAType x))
def mmA (x : Desc) : Area := ⟨2, x.w 2, mmASpan x, false⟩
def mmC (x : Desc) : Area := ⟨5, x.w 5, (mmM x - 1) * mmCoStride x * 64 + 4 * mmN x, false⟩
def mmO (x : Desc) : Area := ⟨6, x.w 6, (mmM x - 1) * mmCoStride x * 64 + 4 * mmN x, true⟩

/-- Tiles in delivery order (R124): WS with j outermost, AS with i outermost. -/
def mmTiles (x : Desc) : List (Nat × Nat) :=
  let is := List.range (ceilDiv (mmM x) 16)
  let js := List.range (ceilDiv (mmN x) 16)
  if mmMode x = 0 then js.flatMap fun j => is.map fun i => (i, j) else is.flatMap fun i => js.map fun j => (i, j)

/-- Allowed as operand A of some pair (R57). -/
def mmATypeOk : Option Ty → Bool
  | some .int4 | some .int8 | some .e4m3 | some .e5m2 | some .bf16 => true
  | _ => false
/-- An allowed pair (R57). -/
def mmPairOk (a b : Option Ty) : Bool :=
  match a, b with
  | some a, some b => pairAllowed a b
  | _, _ => false

/-- An address in Unified Range form or not a multiple of 64. -/
def badLine (w : Nat) : Bool := !isSp w || decide (w % 64 ≠ 0)

def specMatmul (x : Desc) : OpSpec :=
  { types := [(4, 28, mmATypeOk (mmAType x)), (4, 24, mmPairOk (mmAType x) (mmBType x))]
    sizes := [(3, 63, 44), (3, 43, 24), (3, 11, 0)]
    areas := [mmB x, mmA x] ++ (if mmCIn x then [mmC x] else []) ++ (if mmOut x then [mmO x] else [])
    post := [optChk (decide (1 < mmMode x) || (mmMode x == 1 && mmWx x)) 4 18,
             optChk (mmRowMajor x && mmWx x) 4 16,
             optChk (let n := (mmEngines x).length; n == 0 || n == 3) 4 20,
             optChk (mmMode x == 0 && decide (64 * (mmEngines x).length < mmM x)) 3 0,
             optChk (badLine (x.w 1)) 1 0,
             optChk (!mmWx x && badLine (x.w 2)) 2 0,
             optChk (mmCIn x && badLine (x.w 5)) 5 0,
             optChk (mmOut x && badLine (x.w 6)) 6 0,
             optChk (mmWx x && isSp (x.w 2)) 2 0,
             optChk (!mmCIn x && decide (x.w 5 ≠ 0)) 5 0,
             optChk (!mmOut x && decide (x.w 6 ≠ 0)) 6 0,
             optChk (!mmRowMajor x && decide (mmAStride x ≠ 0)) 7 48,
             optChk (!mmWx x && decide (mmRb0 x ≠ 0)) 7 16,
             optChk (!mmWx x && decide (mmCb0 x ≠ 0)) 7 0,
             optChk ((mmOut x || mmCIn x) && decide (1 < mmM x ∧ mmCoStride x * 64 < 4 * mmN x)) 4 32,
             optChk (mmOut x && ((mmO x).overlaps (mmB x) || (!mmWx x && (mmO x).overlaps (mmA x)))) 6 0,
             optChk (mmOut x && mmCIn x && (mmO x).overlaps (mmC x) && decide (x.w 5 ≠ x.w 6)) 6 0] }

/-! VECOP (R176 to R179). -/

def vOp (x : Desc) : Nat := x.f 4 63 56
def vXType (x : Desc) : Option Ty := Ty.ofCode (x.f 4 55 52)
def vYType (x : Desc) : Option Ty := Ty.ofCode (x.f 4 51 48)
def vDType (x : Desc) : Option Ty := Ty.ofCode (x.f 4 47 44)
def vXEstr (x : Desc) : Nat := x.f 4 43 43
def vYEstr (x : Desc) : Nat := x.f 4 42 42
def vTq (x : Desc) : Bool := bitN (x.w 4) 41
def vRs (x : Desc) : Nat := x.f 4 40 39
def vCs (x : Desc) : Nat := x.f 4 38 37
def vProd (x : Desc) : Tag := BitVec.ofNat 12 (x.f 4 11 0)
def vCols (x : Desc) : Nat := x.f 5 63 32
def vRows (x : Desc) : Nat := x.f 5 31 0
def vXRstr (x : Desc) : Nat := x.f 6 63 42
def vYRstr (x : Desc) : Nat := x.f 6 41 20
def vDRstr (x : Desc) : Nat := x.f 7 63 42
def vImm (x : Desc) : W32 := BitVec.ofNat 32 (x.f 7 31 0)

/-- Reductions RSUM to RAMAX. -/
def vIsRed (op : Nat) : Bool := decide (0x30 ≤ op ∧ op ≤ 0x33)
/-- Operations that read X and Y. -/
def vReadsY (op : Nat) : Bool := decide (1 ≤ op ∧ op ≤ 7) || op == 0x1E || op == 0x20
/-- Operations listed in R176. -/
def vKnown (op : Nat) : Bool :=
  decide (1 ≤ op ∧ op ≤ 7) || decide (0x10 ≤ op ∧ op ≤ 0x1E) || decide (0x20 ≤ op ∧ op ≤ 0x22) || vIsRed op
/-- Operations with no tile mode. -/
def vNoTile (op : Nat) : Bool := op == 0x20 || op == 0x21 || vIsRed op
/-- X is a stream the operation uses. -/
def vUsesX (x : Desc) : Bool := !vTq x || vRs x == 2
/-- Y is a stream the operation uses. -/
def vUsesY (x : Desc) : Bool := vReadsY (vOp x) || vOp x == 0x21 || (vTq x && vCs x == 2)
/-- Columns of D: a reduction writes one result a row. -/
def vDCols (x : Desc) : Nat := if vIsRed (vOp x) then 1 else vCols x
def tyW (t : Option Ty) : Nat := ceilDiv (tyBits t) 8

def vX (x : Desc) : Area :=
  ⟨1, x.w 1, (vRows x - 1) * vXRstr x + ((if vTq x then 0 else (vCols x - 1) * vXEstr x) + 1) * tyW (vXType x), false⟩
def vY (x : Desc) : Area :=
  if vOp x == 0x21 then ⟨2, x.w 2, (vRows x - 1) * vYRstr x + tyW (vYType x), true⟩
  else if vTq x && vCs x == 2 then ⟨2, x.w 2, vCols x * tyW (vYType x), false⟩
  else ⟨2, x.w 2, (vRows x - 1) * vYRstr x + ((vCols x - 1) * vYEstr x + 1) * tyW (vYType x), false⟩
def vD (x : Desc) : Area := ⟨3, x.w 3, (vRows x - 1) * vDRstr x + vDCols x * tyW (vDType x), true⟩

/-- A type a stream may carry (R169). -/
def vTypeOk : Option Ty → Bool
  | some .int4 => false
  | some _ => true
  | none => false

/-- The D region may share bytes with a read stream only where both walk them alike (R179). -/
def vSameWalk (x : Desc) (addr rstr w estr : Nat) : Bool :=
  addr == x.w 3 && rstr == vDRstr x && w == tyW (vDType x) && estr == 1

def specVecop (x : Desc) : OpSpec :=
  { types := [(4, 52, if vUsesX x then vTypeOk (vXType x) else x.f 4 55 52 == 0), (4, 48, if vUsesY x then vTypeOk (vYType x) else x.f 4 51 48 == 0),
              (4, 44, vTypeOk (vDType x))]
    sizes := [(5, 63, 32), (5, 31, 0)]
    areas := (if vUsesX x then [vX x] else []) ++ (if vUsesY x then [vY x] else []) ++ [vD x]
    post := [optChk (!vKnown (vOp x)) 4 56, optChk (vRs x == 3) 4 39, optChk (vCs x == 3) 4 37,
             optChk (vUsesX x && !isSp (x.w 1)) 1 0, optChk (vUsesY x && !isSp (x.w 2)) 2 0, optChk (!isSp (x.w 3)) 3 0,
             optChk (!vUsesX x && decide (x.w 1 ≠ 0)) 1 0, optChk (!vUsesY x && decide (x.w 2 ≠ 0)) 2 0,
             optChk (vUsesX x && decide (spOff (x.w 1) % tyW (vXType x) ≠ 0)) 1 0,
             optChk (vUsesY x && decide (spOff (x.w 2) % tyW (vYType x) ≠ 0)) 2 0,
             optChk (decide (spOff (x.w 3) % tyW (vDType x) ≠ 0)) 3 0,
             optChk (vTq x && vNoTile (vOp x)) 4 41,
             optChk (!vTq x && decide (vRs x ≠ 0)) 4 39, optChk (!vTq x && decide (vCs x ≠ 0)) 4 37,
             optChk (!vTq x && decide (vProd x ≠ 0)) 4 0,
             optChk (vCs x == 2 && vReadsY (vOp x)) 4 37,
             optChk (vCs x == 2 && vYEstr x != 1) 4 42, optChk (vCs x == 2 && vYRstr x != 0) 6 20,
             optChk (vRs x == 1 && (vOp x == 0x07 || vOp x == 0x22)) 4 39,
             optChk (vOp x == 0x22 && !f32PosNormal (vImm x)) 7 0,
             optChk ((vDType x == some .int8) != (vOp x == 0x21 || vOp x == 0x22)) 4 44,
             optChk (vTq x && vRs x == 2 && vXEstr x != 0) 4 43,
             optChk (vOp x == 0x21 && vYEstr x != 0) 4 42, optChk (vOp x == 0x21 && vYType x != some .fp32) 4 48,
             optChk (vOp x == 0x20 && decide (vCols x % 2 = 1)) 5 32,
             optChk (decide (1 < vRows x ∧ vDRstr x < vDCols x * tyW (vDType x))) 7 42,
             optChk (vUsesX x && (vD x).overlaps (vX x) && !vSameWalk x (x.w 1) (vXRstr x) (tyW (vXType x)) (vXEstr x)) 3 0,
             optChk (vUsesY x && vOp x != 0x21 && (vD x).overlaps (vY x) &&
                     !vSameWalk x (x.w 2) (vYRstr x) (tyW (vYType x)) (vYEstr x)) 3 0,
             optChk (vOp x == 0x21 && ((vY x).overlaps (vX x) || (vY x).overlaps (vD x))) 2 0] }

/-! SAMPLE (R182). -/

def smVocab (x : Desc) : Nat := x.f 3 63 32
def smRows (x : Desc) : Nat := x.f 3 31 0
def smType (x : Desc) : Option Ty := Ty.ofCode (x.f 4 63 60)
def smRstr (x : Desc) : Nat := x.f 4 21 0
/-- Bytes of a row's bitmap. -/
def bitmapBytes (vocab : Nat) : Nat := ceilDiv vocab 512 * 64
def smLogits (x : Desc) : Area := ⟨1, x.w 1, (smRows x - 1) * smRstr x + smVocab x * tyW (smType x), false⟩
def smSlots (x : Desc) : Area := ⟨2, x.w 2, 32 * smRows x, true⟩
def smMask (x : Desc) : Area := ⟨6, x.w 6, smRows x * bitmapBytes (smVocab x), false⟩
def smMasked (x : Desc) : Bool := decide (x.w 6 ≠ 0)

def specSample (x : Desc) : OpSpec :=
  { types := [(4, 60, smType x == some .bf16 || smType x == some .fp32)]
    sizes := [(3, 63, 32), (3, 31, 0)]
    areas := [smLogits x, smSlots x] ++ (if smMasked x then [smMask x] else [])
    post := [optChk (decide (262144 < smVocab x)) 3 32,
             optChk (!isSp (x.w 1)) 1 0, optChk (!isSp (x.w 2)) 2 0, optChk (smMasked x && !isSp (x.w 6)) 6 0,
             optChk (decide (spOff (x.w 1) % 64 ≠ 0)) 1 0, optChk (decide (spOff (x.w 2) % 32 ≠ 0)) 2 0,
             optChk (smMasked x && decide (spOff (x.w 6) % 64 ≠ 0)) 6 0, optChk (decide (smRstr x % 64 ≠ 0)) 4 0,
             optChk ((smLogits x).overlaps (smSlots x)) 2 0,
             optChk (smMasked x && ((smMask x).overlaps (smLogits x) || (smMask x).overlaps (smSlots x))) 6 0] }

/-! EXPAND and the slot functions (R156 to R158). -/

def exFunc (x : Desc) : Nat := x.f 4 2 0
def exN (x : Desc) : Nat := x.f 3 63 44
def exK (x : Desc) : Nat := x.f 3 43 24
def exCount (x : Desc) : Nat := x.f 3 15 0
def exType (x : Desc) : Option Ty := Ty.ofCode (x.f 4 31 28)
def exSlot (x : Desc) : Nat := x.f 5 37 32
def exSlotVer (x : Desc) : W32 := BitVec.ofNat 32 (x.f 5 31 0)
def exRb0 (x : Desc) : Nat := x.f 7 31 16
def exCb0 (x : Desc) : Nat := x.f 7 15 0
/-- Bytes of the tiles, rounded up to a line (R157). -/
def exTiles (x : Desc) : Nat :=
  ceilDiv (ceilDiv (exN x) 16 * ceilDiv (exK x) (kTile (tyOr (exType x))) * tileBytes (tyOr (exType x))) 64 * 64
def exSrc (x : Desc) : Area :=
  ⟨1, x.w 1, if exFunc x = 0 then (if isSp (x.w 1) then 0 else 1) else if exFunc x = 1 then 4096 else 64, false⟩
def exDst (x : Desc) : Area := ⟨2, x.w 2, if exFunc x = 0 then exTiles x + 4 * exN x else 64, true⟩
/-- EXPAND proper, the other slot functions, each with the fields it must leave zero. -/
def exZeroChecks (x : Desc) : List Chk :=
  [optChk (exFunc x = 0 && decide (exCount x ≠ 0)) 3 0,
   optChk (exFunc x ≠ 0 && decide (exN x ≠ 0)) 3 44, optChk (exFunc x ≠ 0 && decide (exK x ≠ 0)) 3 24,
   optChk (decide (x.f 3 23 16 ≠ 0)) 3 16,
   optChk (decide (x.f 4 63 32 ≠ 0)) 4 32, optChk (exFunc x ≠ 0 && decide (x.f 4 31 28 ≠ 0)) 4 28,
   optChk (decide (x.f 4 27 3 ≠ 0)) 4 3,
   optChk (decide (x.f 5 63 38 ≠ 0)) 5 38, optChk (exFunc x = 0 && decide (exSlot x ≠ 0)) 5 32,
   optChk ((exFunc x = 0 || exFunc x = 1) && decide (exSlotVer x ≠ 0)) 5 0,
   optChk (decide (x.w 6 ≠ 0)) 6 0, optChk (decide (x.f 7 63 32 ≠ 0)) 7 32,
   optChk (exFunc x ≠ 0 && decide (exRb0 x ≠ 0)) 7 16, optChk (exFunc x ≠ 0 && decide (exCb0 x ≠ 0)) 7 0]

def specExpand (x : Desc) : OpSpec :=
  { types := if exFunc x = 0 then [(4, 28, mmATypeOk (exType x))] else []
    sizes := if exFunc x = 0 then [(3, 63, 44), (3, 43, 24)] else [(3, 15, 0)]
    areas := [exSrc x, exDst x]
    post := [optChk (exFunc x = 1 && decide (exCount x ≠ 4096)) 3 0,
             optChk ((exFunc x = 2 || exFunc x = 3) && decide (x.w 1 ≠ x.w 2)) 1 0,
             optChk (decide (x.w 1 % 64 ≠ 0)) 1 0, optChk (decide (x.w 2 % 64 ≠ 0)) 2 0,
             optChk (exFunc x = 0 && isSp (x.w 1)) 1 0, optChk (!isSp (x.w 2)) 2 0,
             optChk (exFunc x = 1 && (exSrc x).overlaps (exDst x)) 2 0] ++ exZeroChecks x }

/-! MASK (R308, R309). -/

def mkVocab (x : Desc) : Nat := x.f 3 63 32
def mkRows (x : Desc) : Nat := x.f 3 31 0
def mkFunc (x : Desc) : Nat := x.f 4 1 0
/-- Where the bitmaps start in the work area. -/
def mkB0 (rows : Nat) : Nat := ceilDiv (16 * rows) 64 * 64
def mkAuto (x : Desc) : Area := ⟨1, x.w 1, 0, false⟩
def mkWork (x : Desc) : Area :=
  ⟨2, x.w 2, if mkFunc x = 0 then mkB0 (mkRows x) + mkRows x * bitmapBytes (mkVocab x) else 16 * mkRows x, true⟩

def specMask (x : Desc) : OpSpec :=
  { types := []
    sizes := [(3, 63, 32), (3, 31, 0)]
    areas := [mkAuto x, mkWork x]
    post := [optChk (decide (1 < mkFunc x)) 4 0,
             optChk (decide (x.w 5 ≠ 0)) 5 0, optChk (decide (x.w 6 ≠ 0)) 6 0, optChk (decide (x.w 7 ≠ 0)) 7 0,
             optChk (decide (x.w 2 % 64 ≠ 0) || isSp (x.w 2)) 2 0, optChk (isSp (x.w 1)) 1 0,
             optChk (decide (urOff (x.w 1) ≠ 0)) 1 0] }

/-! ATTEND (R256 to R258). -/

def atGen (x : Desc) : Nat := x.f 4 63 48
def atSeq (x : Desc) : SeqNo := BitVec.ofNat 12 (x.f 4 47 36)
def atStream (x : Desc) : Nat := x.f 4 35 20
def atKv (x : Desc) : Option Ty := Ty.ofCode (x.f 4 19 16)
def atQ (x : Desc) : Option Ty := Ty.ofCode (x.f 4 15 12)
def atO (x : Desc) : Option Ty := Ty.ofCode (x.f 4 11 8)
def atG (x : Desc) : Nat := x.f 4 7 4 + 1
def atHg (x : Desc) : Nat := x.f 4 3 1 + 1
def atLen (x : Desc) : Nat := x.f 5 63 42
def atQRows (x : Desc) : Nat := x.f 5 41 32
def atScale (x : Desc) : W32 := BitVec.ofNat 32 (x.f 5 31 0)
def atNRet (x : Desc) : Nat := x.f 6 63 48
def atSink (x : Desc) : Nat := x.f 6 47 40
def atRecent (x : Desc) : Nat := x.f 6 39 32
def atNGrp (x : Desc) : Nat := x.f 6 31 16
def atExtra (x : Desc) : Nat := x.f 6 15 0
def atAppend (x : Desc) : Bool := bitN (x.w 7) 7
def atRetrieve (x : Desc) : Bool := bitN (x.w 7) 6
def atScore (x : Desc) : Bool := bitN (x.w 7) 5
def atDCode (x : Desc) : Nat := x.f 7 4 3
/-- Head dimension of a code (R250). -/
def headDim (c : Nat) : Nat := if c = 0 then 64 else if c = 1 then 128 else 256
def atD (x : Desc) : Nat := headDim (atDCode x)
/-- Rows a head. -/
def atR (x : Desc) : Nat := atG x * atQRows x
/-- Row stride in bytes (R257). -/
def atStride (x : Desc) (t : Option Ty) : Nat := ceilDiv (atD x * tyW t) 64 * 64
/-- Places of the walk set (R257). -/
def atWp (x : Desc) : Nat :=
  if atRetrieve x then atNRet x + atSink x + atRecent x + atExtra x else ceilDiv (atLen x) 64
def lineUp (n : Nat) : Nat := ceilDiv n 64 * 64
def atAccOff (_x : Desc) : Nat := 524288
def atStatsOff (x : Desc) : Nat := lineUp (atAccOff x + atR x * atHg x * atD x * 4)
def atProbOff (x : Desc) : Nat := lineUp (atStatsOff x + atR x * atHg x * 8)
def atRecOff (x : Desc) : Nat := lineUp (atProbOff x + 2 * atR x * 256)
def atMassOff (x : Desc) : Nat := lineUp (atRecOff x + 8 * atR x * atHg x * atWp x)
def atWorkBytes (x : Desc) : Nat := if atScore x then atMassOff x + 8 * atWp x else atProbOff x + 2 * atR x * 256
def atQArea (x : Desc) : Area :=
  ⟨1, x.w 1, (atHg x * atR x - 1) * atStride x (atQ x) + atD x * tyW (atQ x), false⟩
def atOArea (x : Desc) : Area :=
  ⟨2, x.w 2, (atHg x * atR x - 1) * atStride x (atO x) + atD x * tyW (atO x), true⟩
def atWork (x : Desc) : Area := ⟨3, x.w 3, atWorkBytes x, true⟩
def isFp8 : Option Ty → Bool
  | some .e4m3 | some .e5m2 => true
  | _ => false

def specAttend (x : Desc) : OpSpec :=
  { types := [(4, 16, isFp8 (atKv x) || atKv x == some .bf16),
              (4, 12, (isFp8 (atKv x) && isFp8 (atQ x)) || (atKv x == some .bf16 && atQ x == some .bf16)),
              (4, 8, atO x == some .fp32 || atO x == some .bf16)]
    sizes := [(5, 63, 42), (5, 41, 32)] ++ (if atRetrieve x then [(6, 63, 48)] else [])
    areas := [atQArea x, atOArea x, atWork x]
    post := [optChk (badLine (x.w 1)) 1 0, optChk (badLine (x.w 2)) 2 0, optChk (badLine (x.w 3)) 3 0,
             optChk (decide (256 < atR x)) 5 32, optChk (atDCode x == 3) 7 3,
             optChk (decide (512 < atHg x * atD x * tyW (atKv x))) 4 1,
             optChk (bitN (x.w 4) 0) 4 0, optChk (decide (x.f 7 63 8 ≠ 0)) 7 8, optChk (decide (x.f 7 2 0 ≠ 0)) 7 0,
             optChk (!atRetrieve x && decide (atNRet x ≠ 0)) 6 48, optChk (!atRetrieve x && decide (atSink x ≠ 0)) 6 40,
             optChk (!atRetrieve x && decide (atRecent x ≠ 0)) 6 32, optChk (!atRetrieve x && decide (atNGrp x ≠ 0)) 6 16,
             optChk (!atRetrieve x && decide (atExtra x ≠ 0)) 6 0,
             optChk (atRetrieve x && decide (16 < atSink x)) 6 40,
             optChk (atRetrieve x && decide (atRecent x = 0 ∨ 64 < atRecent x)) 6 32,
             optChk (atRetrieve x && decide (atNGrp x = 0 ∨ 256 < atNGrp x)) 6 16,
             optChk ((atOArea x).overlaps (atQArea x)) 2 0,
             optChk ((atWork x).overlaps (atQArea x) || (atWork x).overlaps (atOArea x)) 3 0] }

/-! Tier commands (R205 to R207). -/

def trLen (x : Desc) : Nat := x.f 3 39 0
def trRelLen (x : Desc) : Nat := x.f 4 39 0
def trSize (x : Desc) : Nat := x.f 6 39 0
def trCat (x : Desc) : Nat := x.f 7 63 32
def trTier (x : Desc) : Nat := x.f 7 7 6
def trKind (x : Desc) : Bool := bitN (x.w 7) 5
def trAttach (x : Desc) : Bool := bitN (x.w 7) 4
/-- Opcodes that name a range (DECANT to WINDOW_ADVANCE). -/
def trRange (op : Nat) : Bool := decide (0x42 ≤ op ∧ op ≤ 0x46)
/-- TIER is in the set the opcode allows (R206); an opcode that does not use it must hold 0b00. -/
def trTierOk (op tier : Nat) : Bool :=
  if op = 0x40 ∨ op = 0x42 ∨ op = 0x44 ∨ op = 0x46 then tier == 1 || tier == 2
  else if op = 0x43 then tier == 2 || tier == 3
  else tier == 0

def specTier (x : Desc) : OpSpec :=
  let op := x.op
  { types := []
    sizes := (if trRange op then [(3, 39, 0)] else []) ++ (if op = 0x46 then [(4, 39, 0)] else []) ++
             (if op = 0x40 then [(6, 39, 0)] else [])
    areas := (if op = 0x40 then [] else [⟨1, x.w 1, if trRange op then trLen x else 1, false⟩]) ++
             (if op = 0x48 then [⟨2, x.w 2, 64, true⟩] else []) ++
             (if op = 0x46 then [⟨5, x.w 5, trRelLen x, false⟩] else [])
    post := [optChk (!trTierOk op (trTier x)) 7 6,
             optChk (op ≠ 0x40 && isSp (x.w 1)) 1 0, optChk (op = 0x48 && isSp (x.w 2)) 2 0, optChk (op = 0x46 && isSp (x.w 5)) 5 0,
             optChk (op = 0x48 && decide (x.w 2 % 64 ≠ 0)) 2 0,
             optChk ((op = 0x41 || op = 0x47 || op = 0x48) && decide (urOff (x.w 1) ≠ 0)) 1 0,
             optChk (op = 0x40 && decide (x.w 1 ≠ 0)) 1 0, optChk (op ≠ 0x48 && decide (x.w 2 ≠ 0)) 2 0,
             optChk (decide (x.f 3 63 40 ≠ 0)) 3 40, optChk (!trRange op && decide (trLen x ≠ 0)) 3 0,
             optChk (decide (x.f 4 63 40 ≠ 0)) 4 40, optChk (op ≠ 0x46 && decide (trRelLen x ≠ 0)) 4 0,
             optChk (op ≠ 0x46 && decide (x.w 5 ≠ 0)) 5 0,
             optChk (decide (x.f 6 63 40 ≠ 0)) 6 40, optChk (op ≠ 0x40 && decide (trSize x ≠ 0)) 6 0,
             optChk (!(op = 0x40 && trAttach x) && decide (trCat x ≠ 0)) 7 32, optChk (decide (x.f 7 31 8 ≠ 0)) 7 8,
             optChk (op ≠ 0x40 && trKind x) 7 5, optChk (op ≠ 0x40 && trAttach x) 7 4, optChk (decide (x.f 7 3 0 ≠ 0)) 7 0,
             optChk (op = 0x40 && trAttach x && !trKind x) 7 4] }

/-! LINK_PUT and LINK_WAIT (R339, R340, R344). -/

def lkLen (x : Desc) : Nat := x.f 3 39 0
def lkPorts (x : Desc) : Nat := x.f 4 63 56
def lkNctr (x : Desc) : Nat := x.f 4 47 42
def lkNotify (x : Desc) : Bool := bitN (x.w 4) 41
def lkMember (x : Desc) : MemberNo := BitVec.ofNat 6 (x.f 4 39 34)
def lkOp (x : Desc) : Nat := x.f 4 33 32
def lkType (x : Desc) : Option Ty := Ty.ofCode (x.f 4 31 28)
def lkSlot (x : Desc) : Nat := x.f 4 27 22
def lkCodec (x : Desc) : Nat := x.f 4 21 20
def lkSlotVer (x : Desc) : W32 := BitVec.ofNat 32 (x.f 5 31 0)
def lwTarget (x : Desc) : Nat := x.f 1 63 32
def lwNctr (x : Desc) : Nat := x.f 1 5 0
def lwTimeout (x : Desc) : Nat := x.f 2 63 32
/-- ETYPE is used. -/
def lkTyped (x : Desc) : Bool := lkCodec x != 0 || lkOp x == 1
def lkSrc (x : Desc) : Area := ⟨1, x.w 1, lkLen x, false⟩

def specLinkPut (x : Desc) : OpSpec :=
  { types := if lkTyped x then [(4, 28, (lkType x).isSome)] else []
    sizes := [(3, 39, 0)]
    areas := [lkSrc x]
    post := [optChk (isSp (x.w 1)) 1 0, optChk (lkCodec x == 3) 4 20, optChk (decide (1 < lkOp x)) 4 32,
             optChk (lkCodec x != 0 && lkType x != some .bf16) 4 28,
             optChk (lkOp x == 1 && !(lkType x == some .bf16 || lkType x == some .fp32)) 4 28,
             optChk (lkTyped x && decide (lkLen x % tyW (lkType x) ≠ 0)) 3 0,
             optChk (lkCodec x == 2 && decide (lkLen x % 512 ≠ 0)) 3 0,
             optChk (decide (x.f 3 63 40 ≠ 0)) 3 40, optChk (decide (x.f 4 55 48 ≠ 0)) 4 48, optChk (bitN (x.w 4) 40) 4 40,
             optChk (!lkTyped x && decide (x.f 4 31 28 ≠ 0)) 4 28, optChk (lkCodec x == 0 && decide (lkSlot x ≠ 0)) 4 22,
             optChk (decide (x.f 4 19 0 ≠ 0)) 4 0, optChk (decide (x.f 5 63 32 ≠ 0)) 5 32,
             optChk (lkCodec x == 0 && decide (lkSlotVer x ≠ 0)) 5 0,
             optChk (decide (x.w 6 ≠ 0)) 6 0, optChk (decide (x.w 7 ≠ 0)) 7 0] }

/-! NOP, BARRIER, CANCEL (R107 to R109). -/

def barTimeout (x : Desc) : Nat := x.f 1 63 32
def barCount (x : Desc) : Nat := x.f 1 14 8
def barId (x : Desc) : Nat := x.f 1 5 0
def cancelTarget (x : Desc) : Tag := BitVec.ofNat 12 (x.f 1 11 0)

/-- The opcodes R91 and R206 list. -/
def opKnown (op : Nat) : Bool :=
  [0x01, 0x02, 0x03, 0x10, 0x11, 0x12, 0x13, 0x14, 0x20, 0x30, 0x50, 0x51].contains op || decide (0x40 ≤ op ∧ op ≤ 0x48)

/-- The feature bit an opcode needs (R91). -/
def opFeature (op : Nat) : Option Nat :=
  if op = 0x14 then some 11 else if op = 0x50 ∨ op = 0x51 then some 5 else none

/-- The operands of a command, by its opcode. -/
def opSpec (x : Desc) : OpSpec :=
  let op := x.op
  if op = 0x02 then { OpSpec.none with sizes := [(1, 14, 8)], post := [⟨decide (64 < barCount x), stLENGTH, locator 1 8 2⟩] }
  else if op = 0x10 then specMatmul x
  else if op = 0x11 then specVecop x
  else if op = 0x12 then specSample x
  else if op = 0x13 then specExpand x
  else if op = 0x14 then specMask x
  else if op = 0x20 then specMove x
  else if op = 0x30 then specAttend x
  else if 0x40 ≤ op ∧ op ≤ 0x48 then specTier x
  else if op = 0x50 then specLinkPut x
  else if op = 0x51 then { OpSpec.none with sizes := [(1, 63, 32)] }
  else OpSpec.none

/-- Step 7: every type code allowed. -/
def typeChecks (s : OpSpec) : List Chk := s.types.map fun t => ⟨!t.2.2, stNOTSUP, locator t.1 t.2.1 3⟩

/-- Step 8: no length, count or size field holds all ones. -/
def onesChecks (x : Desc) (s : OpSpec) : List Chk :=
  s.sizes.map fun z => ⟨decide (x.f z.1 z.2.1 z.2.2 = 2 ^ (z.2.1 + 1 - z.2.2) - 1), stLENGTH, locator z.1 z.2.2 1⟩

/-- Step 9: one of those fields is zero. -/
def hasZero (x : Desc) (s : OpSpec) : Bool := s.sizes.any fun z => x.f z.1 z.2.1 z.2.2 == 0

/-- A KV map is written by the firmware alone (R250). -/
def Dev.isKvMap (d : Dev) (o : ObjNo) : Bool :=
  (d.srv.seq.any fun e => decide (e.2.st ≠ .free ∧ e.2.kvObj = o)) || d.srv.released.any fun r => r.gran == none && r.obj == o

/-- The state an object's rules follow: for a DYING object the one it had (R196). -/
def Obj.eff (b : Obj) : ObjState := if b.st = .dying then b.was else b.st

/-- An object-form address is owned (R89, R192, R196, R250): the object is in use by PART, a DYING one only for a command that
holds a reference on it, no number that was DYING when the command came, and written only while LIVE or OPEN; no command writes a KV map. -/
def Dev.ownsObj (d : Dev) (e : TagE) (o : ObjNo) (write : Bool) : Bool :=
  let b := d.obj o
  decide (o ≠ 0) && decide (b.st ≠ .free) && b.part == e.desc.part && (b.st != .dying || e.refs.contains o) && !e.dead.contains o &&
  (!write || ((b.eff == .live || b.eff == .opened) && !d.isKvMap o))

/-- Step 10 for one address word (R89): a tier or MASK command's scratchpad-form address passes here and fails the opcode's own
check (R207, R309), a link command's fails here (spec/12, before R339). -/
def Dev.ownsArea (d : Dev) (e : TagE) (a : Area) : Bool :=
  if isSp a.addr then
    let c := spCore a.addr
    let k := d.core c
    k.inService && k.assigned && k.part == e.desc.part &&
    (e.desc.op == 0x20 || (opChip e.desc.op && decide (e.desc.op < 0x50)) || c == e.desc.core && !opChip e.desc.op)
  else urFormed a.addr && d.ownsObj e (urObj a.addr) a.write

/-- Step 11 for one address word (R88, R95). -/
def Dev.fitsArea (d : Dev) (a : Area) : Bool :=
  if isSp a.addr then a.span == 0 || (spFormed a.addr && decide (spOff a.addr + a.span ≤ spSize))
  else a.span == 0 || decide (urOff a.addr + a.span ≤ (d.obj (urObj a.addr)).size)

/-- Step 10. -/
def Dev.ownChecks (d : Dev) (e : TagE) (s : OpSpec) : List Chk :=
  s.areas.map fun a => ⟨!d.ownsArea e a, stRIGHTS, locator a.word 0 4⟩

/-- Step 11, with the SIZE of OBJ_CREATE (R205). -/
def Dev.fitChecks (d : Dev) (e : TagE) (s : OpSpec) : List Chk :=
  (s.areas.map fun a => ⟨!d.fitsArea a, stLENGTH, locator a.word 0 2⟩) ++
  [⟨e.desc.op = 0x40 && decide (0xFFFFFF0000 < trSize e.desc), stLENGTH, locator 6 0 2⟩]

/-- A WINDOW_ADVANCE is a live model swap: it pins a span of one SEALED model and releases a span of another (spec/08 after R204). -/
def Dev.swaps (d : Dev) (x : Desc) : Bool :=
  let a := d.obj (urObj (x.w 1))
  let b := d.obj (urObj (x.w 5))
  a.eff == .sealed && b.eff == .sealed && a.cat != b.cat
/-- Checks after step 11 that read the device: the catalogue entry of an attach (R206), the slot of a slot function (R152, R158),
feature bits of options (R258, R340), the route of a link transfer (R340), the feature bit of a live swap (spec/01 R27, R28; log entry 109). -/
def Dev.lateChecks (d : Dev) (e : TagE) : List Chk × List Chk :=
  let x := e.desc
  if x.op = 0x40 then
    ([⟨trAttach x && !((d.cat (trCat x)).used && (d.cat (trCat x)).part == x.part), stRIGHTS, locator 7 32 4⟩], [])
  else if x.op = 0x13 then
    ([], [⟨decide (exFunc x ≠ 0) && !d.slotOwned x.part (exSlot x), stRIGHTS, locator 5 32 4⟩])
  else if x.op = 0x30 then
    ([], [⟨atRetrieve x && !d.grants 9, stNOTSUP, 2⟩, ⟨atScore x && !d.grants 10, stNOTSUP, 2⟩])
  else if x.op = 0x50 then
    ([], [⟨lkCodec x == 1 && !d.grants 6, stNOTSUP, 2⟩, ⟨lkCodec x == 2 && !d.grants 7, stNOTSUP, 2⟩,
          optChk (lkMember x = d.links.member) 4 34,
          optChk (decide (lkPorts x ≠ 0) && decide (lkPorts x &&&
            (Tbl.get Route.reset d.links.route (lkMember x).toNat).ports.toNat ≠ lkPorts x)) 4 56])
  else if x.op = 0x46 then ([], [⟨d.swaps x && !d.grants 15, stNOTSUP, 2⟩])
  else ([], [])

/-- Steps 6 to 8 (R95), with EXPAND's FUNC between 6 and 7 (R158). -/
def Dev.checksA (d : Dev) (e : TagE) : List Chk :=
  let s := opSpec e.desc
  [⟨decide ((d.part e.desc.part).epoch ≠ e.epoch), stSTALE, 0⟩,
   optChk (e.desc.op = 0x13 && decide (3 < exFunc e.desc)) 4 0] ++ typeChecks s ++ onesChecks e.desc s

/-- Steps 10 and 11. -/
def Dev.checksB (d : Dev) (e : TagE) : List Chk :=
  d.ownChecks e (opSpec e.desc) ++ d.fitChecks e (opSpec e.desc)

/-- The opcode's checks after them. -/
def Dev.checksC (d : Dev) (e : TagE) : List Chk :=
  (d.lateChecks e).1 ++ (opSpec e.desc).post ++ (d.lateChecks e).2

end Sys2Proof.Machine
end

