-- ==== Sys2Proof/Machine/Access.lean ====
section
/-! DEFINITION. Reads and writes of cores and engines through an address word: scratchpad lines, granules of objects in the
tiers, damaged granules, missed accesses and granules on the move (spec/08 R197, R203, R204, R209, R212; spec/04 R86, R89). -/

namespace Sys2Proof.Machine

/-- Bytes of a granule (R193). -/
def granSize : Nat := 65536

/-- Granule `g` of an object. -/
def Obj.g (b : Obj) (g : Nat) : Gran := Tbl.get Gran.reset b.gran g
def Dev.gran (d : Dev) (o : ObjNo) (g : Nat) : Gran := (d.obj o).g g
def Dev.setGran (d : Dev) (o : ObjNo) (g : Nat) (v : Gran) : Dev :=
  d.setObj o { d.obj o with gran := Tbl.set Gran.reset (d.obj o).gran g v }

/-- Frame a granule holds in a tier. -/
def Gran.at (v : Gran) : Tier → Option Frame
  | .t1 => v.t1
  | .t2 => v.t2
  | .t3 => none
/-- Granule with its frame in a tier replaced. -/
def Gran.put (v : Gran) (t : Tier) (f : Option Frame) : Gran :=
  match t with
  | .t1 => { v with t1 := f }
  | .t2 => { v with t2 := f }
  | .t3 => v

/-- Place of a copy in the released list, and a granule with it replaced (R202). -/
def Gran.rel (v : Gran) : Tier → Option Nat
  | .t1 => v.rel1
  | .t2 => v.rel2
  | .t3 => none
def Gran.setRel (v : Gran) (t : Tier) (r : Option Nat) : Gran :=
  match t with
  | .t1 => { v with rel1 := r }
  | .t2 => { v with rel2 := r }
  | .t3 => v
/-- A copy dropped from a tier leaves the released list. -/
def Gran.drop (v : Gran) (t : Tier) : Gran := (v.put t none).setRel t none

/-- Granules that bytes `off` to `off + n - 1` touch. -/
def gransOf (off n : Nat) : List Nat :=
  if n = 0 then [] else upFrom (off / granSize) ((off + n - 1) / granSize - off / granSize + 1)
/-- Granules of an object. -/
def Obj.granCount (b : Obj) : Nat := ceilDiv b.size granSize

/-- Units of a tier in service (R198, R215). -/
def Dev.tierUnits (d : Dev) : Tier → List Nat
  | .t1 => setBits d.tier.quads.toNat 64
  | .t2 => setBits d.tier.rack.toNat 12
  | .t3 => []
/-- Frames a quad or a Rack channel holds for objects: a quad that holds a copy of the map region has 1 GiB less (R194, R198). -/
def Dev.unitFrames (d : Dev) (t : Tier) (u : Nat) : Nat :=
  match t with
  | .t1 => 98304 - (if u = d.tier.map0 then 16384 else 0) - if u = d.tier.map1 then 16384 else 0
  | _ => 1048576
/-- Frames of a unit that granules hold or moves are bringing. -/
def Dev.unitTakes (d : Dev) (t : Tier) (u : Nat) : Nat :=
  (d.tier.obj.map fun e => (e.2.gran.filter fun g => (g.2.at t).any fun f => f.unit == u).length).foldl (· + ·) 0 +
  (d.tier.moves.filter fun m => m.dst == t && m.frame.unit == u).length
/-- The frame granule `g` of an object takes in a tier: consecutive units in service from the object's rotation point (R198), under the
partition's current vintage (R446). A unit with no frame left is passed over for the next one (DESIGN CHOICE, log entry 104). -/
def Dev.frameFor (d : Dev) (o : ObjNo) (t : Tier) (g : Nat) : Frame :=
  let us := d.tierUnits t
  let k := ((d.obj o).rot + g) % us.length
  let at_ := us.getD k 0
  ⟨((us.drop k ++ us.take k).find? fun u => decide (d.unitTakes t u < d.unitFrames t u)).getD at_, (d.part (d.obj o).part).vintCur⟩

/-- Key of an object's byte in the tiers. -/
def objKey (o : ObjNo) (off : Nat) : Nat := o.toNat * 2 ^ 40 + off
/-- Key of a byte of a granule's place in the Cellar (R224): a block's granule slot is four code words. -/
def placeKey (p : Place) (off : Nat) : Nat := (p.ch * 5472 + p.blk) * 50331648 + p.slot * granSize + off

/-- Bytes of one granule: those of its frame or copies, else those of the Cellar copy, else zero (R197). -/
def Dev.granRead (d : Dev) (o : ObjNo) (g off n : Nat) : List Byte :=
  let b := d.obj o
  let v := b.g g
  if v.t1.isSome || v.t2.isSome then Memory.readN d.tier.mem (objKey o (g * granSize + off)) n
  else if b.eff = .sealed then
    let p := Tbl.get Place.none (d.cat b.cat.toNat).places g
    if p = Place.none then List.replicate n 0 else Memory.readN d.cellar.mem (placeKey p off) n
  else List.replicate n 0

/-- Bytes of an object. -/
def Dev.objRead (d : Dev) (o : ObjNo) (off n : Nat) : List Byte :=
  (gransOf off n).flatMap fun g =>
    let a := max off (g * granSize)
    let z := min (off + n) ((g + 1) * granSize)
    d.granRead o g (a - g * granSize) (z - a)

/-- Tier a working granule's frame is or will be in, and the staging tier of an OPEN object (R197, R206). -/
def Obj.home (b : Obj) (v : Gran) : Tier := v.resv.getD b.place

/-- First write to a granule with no frame, or to a damaged one: a frame is allocated, its bytes zero (R197, R212). -/
def Dev.ensureFrame (d : Dev) (o : ObjNo) (g : Nat) : Dev :=
  let b := d.obj o
  let v := b.g g
  if (v.t1.isSome || v.t2.isSome) && !v.damaged then d
  else
    let t := b.home v
    let d' := d.setGran o g ({ v with t1 := none, t2 := none, damaged := false }.put t (some (d.frameFor o t g)))
    { d' with tier := { d'.tier with mem := Memory.clear d'.tier.mem (objKey o (g * granSize)) granSize } }

/-- Bytes stored to an object. -/
def Dev.objWrite (d : Dev) (o : ObjNo) (off : Nat) (bs : List Byte) : Dev :=
  let d := (gransOf off bs.length).foldl (fun d g => d.ensureFrame o g) d
  { d with tier := { d.tier with mem := Memory.writeN d.tier.mem (objKey o off) bs } }

/-- Bytes at an address word plus an offset; scratchpad reads count unwritten lines (R86). -/
def Dev.memRead (d : Dev) (w off n : Nat) : List Byte × Dev :=
  if isSp w then d.spRead (spCore w) (spOff w + off) n else (d.objRead (urObj w) (urOff w + off) n, d)

/-- Bytes stored at an address word plus an offset. -/
def Dev.memWrite (d : Dev) (w off : Nat) (bs : List Byte) : Dev :=
  if bs = [] then d else if isSp w then d.spWrite (spCore w) (spOff w + off) bs else d.objWrite (urObj w) (urOff w + off) bs

/-- Bytes the manual leaves undefined stored at an address word plus an offset (log entry 5). -/
def Dev.memFree (d : Dev) (w off n : Nat) : Dev :=
  let p := d.freeBytes n
  p.2.memWrite w off p.1

/-- A granule that a read finds in none of the tiers its reads are served from: a SEALED one with no copy in PLACE, no
read-through granted (R197, R203), and no command moving it, during which reads are served from the source (R209). -/
def Dev.granMiss (d : Dev) (o : ObjNo) (g : Nat) : Bool :=
  let b := d.obj o
  b.eff == .sealed && ((b.g g).at b.place).isNone && !d.tier.through.contains ⟨o, g⟩ &&
  !d.tier.moves.any fun m => decide (m.obj = o ∧ m.g = g ∧ m.why ≠ .fetch)

/-- Granules of one object-form region. -/
def areaGrans (w n : Nat) : List (ObjNo × Nat) :=
  if isSp w then [] else (gransOf (urOff w) n).map fun g => (urObj w, g)

/-- A granule is on the move (R209). -/
def Dev.moving (d : Dev) (o : ObjNo) (g : Nat) : Bool := d.tier.moves.any fun m => decide (m.obj = o ∧ m.g = g)

/-- What a command's accesses find before any of them is made. -/
inductive Acc where
  /-- every granule can be read and written now -/
  | ready
  /-- a granule to be read is damaged (R212) -/
  | damaged (o : ObjNo) (g : Nat)
  /-- a read missed, or a write meets a granule on the move: the command waits (R204, R209) -/
  | waits
deriving DecidableEq, Repr

/-- The misses not yet noted, noted (R204). -/
def Dev.noteMisses (d : Dev) (ms : List (ObjNo × Nat)) : Dev :=
  { d with tier := { d.tier with misses := ms.foldl (fun l m => if l.contains ⟨m.1, m.2⟩ then l else l ++ [⟨m.1, m.2⟩]) d.tier.misses } }

/-- A read uses the copy in the object's PLACE, which then leaves the released list, and ends a read-through (R197, R202, R203). -/
def Dev.useGran (d : Dev) (o : ObjNo) (g : Nat) : Dev :=
  let t := (d.obj o).place
  let d := if ((d.gran o g).rel t).isSome then d.setGran o g ((d.gran o g).setRel t none) else d
  { d with tier := { d.tier with through := d.tier.through.filter (· ≠ ⟨o, g⟩) } }

/-- The granules a command reads and writes, judged together. -/
def Dev.accessGrans (d : Dev) (rs ws : List (ObjNo × Nat)) : Acc × Dev :=
  match rs.find? fun m => (d.gran m.1 m.2).damaged with
  | some m => (.damaged m.1 m.2, d)
  | none =>
    let ms := rs.filter fun m => d.granMiss m.1 m.2
    if ms ≠ [] then (.waits, d.noteMisses ms)
    else if ws.any fun m => d.moving m.1 m.2 then
      let p := d.freeNat
      (.waits, p.2.addCnt (tierReg 0x48) p.1)
    else (.ready, rs.foldl (fun d m => d.useGran m.1 m.2) d)

/-- The regions a command reads and writes, judged together: (address word, bytes). -/
def Dev.access (d : Dev) (rs ws : List (Nat × Nat)) : Acc × Dev :=
  d.accessGrans (rs.flatMap fun a => areaGrans a.1 a.2) (ws.flatMap fun a => areaGrans a.1 a.2)

/-- The parts of a running command's destination that a failure leaves undefined, as (address word, offset, bytes): rows for MOVE and
VECOP; for MATMUL the tiles not delivered of `done` delivered (R130); for EXPAND the tiles of blocks at and after block `done`, and the
scales (R159); for ATTEND its output rows and the areas of its workspace that it uses itself (R257, R264); whole regions otherwise. -/
def destRows (x : Desc) (done : Nat) : List (Nat × Nat × Nat) :=
  if x.op = 0x20 then (List.range (mvRows x)).map fun r => (x.w 2, r * mvDstStride x, mvBytes x)
  else if x.op = 0x10 then
    if mmOut x then
      ((mmTiles x).drop done).flatMap fun p =>
        (List.range (min 16 (mmM x - 16 * p.1))).map fun r =>
          (x.w 6, (16 * p.1 + r) * mmCoStride x * 64 + 64 * p.2, 4 * min 16 (mmN x - 16 * p.2))
    else []
  else if x.op = 0x11 then
    ((List.range (vRows x)).map fun r => (x.w 3, r * vDRstr x, vDCols x * tyW (vDType x))) ++
    (if vOp x = 0x21 then (List.range (vRows x)).map fun r => (x.w 2, r * vYRstr x, 4) else [])
  else if x.op = 0x13 ∧ exFunc x = 0 then
    let kt := kTile (tyOr (exType x))
    let tb := tileBytes (tyOr (exType x))
    let nk := ceilDiv (exK x) kt
    ((List.range (ceilDiv (exN x) 16 * nk)).filter fun i =>
      decide (done ≤ i / nk / 8 * ceilDiv (exK x) 256 + i % nk * kt / 256)).map (fun i => (x.w 2, i * tb, tb)) ++
    [(x.w 2, exTiles x, 4 * exN x)]
  else if x.op = 0x30 then
    ((List.range (atHg x * atR x)).map fun i => (x.w 2, i * atStride x (atO x), atD x * tyW (atO x))) ++
    [(x.w 3, 262144, atWorkBytes x - 262144)]
  else ((opSpec x).areas.filter (·.write)).map fun a => (a.addr, 0, a.span)

/-- What a running command has already delivered. -/
def Dev.delivered (d : Dev) (t : Tag) (x : Desc) : Nat :=
  if x.op = 0x10 then Tbl.get 0 d.cores.pushed t.toNat else (Tbl.get WxRun.reset d.cores.wx t.toNat).next

/-- Page `b` of a stream holds positions that an ATTEND with APPEND writes: the first and the last of them within the page (R262). -/
def atAppended (x : Desc) (b : Nat) : Option (Nat × Nat) :=
  let p0 := atLen x - atQRows x
  if atAppend x && decide (64 * b < atLen x ∧ p0 < 64 * b + 64) then some (max p0 (64 * b) - 64 * b, min (atLen x) (64 * b + 64) - 1 - 64 * b)
  else none
/-- The lines an ATTEND writes back of a page it has landed: K rows of the appended positions, V lines that hold one of them (R262),
as (address word, offset, bytes). -/
def atWriteBack (x : Desc) (b : Nat) (entry : W64) : List (Nat × Nat × Nat) :=
  match atAppended x b with
  | none => []
  | some (i0, i1) =>
    let w := tyW (atKv x)
    let a := fld entry.toNat 55 40 * 2 ^ 40 + fld entry.toNat 39 16 * granSize
    (a, i0 * 512, (i1 + 1 - i0) * 512) ::
    (List.range (atHg x * atD x)).map fun e => (a, 32768 + e * 64 * w + i0 * w / 64 * 64, ((i1 * w + w - 1) / 64 + 1 - i0 * w / 64) * 64)
/-- Progress of an ATTEND. -/
def Dev.attRun (d : Dev) (t : Tag) : AttRun := Tbl.get AttRun.reset d.cores.att t.toNat
/-- The lines a running ATTEND has written back. -/
def Dev.writtenBack (d : Dev) (t : Tag) (x : Desc) : List (Nat × Nat × Nat) :=
  if x.op = 0x30 then (d.attRun t).recs.flatMap fun p => atWriteBack x p.1 (Tbl.get (0 : W64) (d.attRun t).pages p.1) else []
/-- The destination of a running command is left undefined (R102, R106, R112, R264). -/
def Dev.spoil (d : Dev) (t : Tag) (x : Desc) : Dev :=
  (destRows x (d.delivered t x) ++ d.writtenBack t x).foldl (fun d a => d.memFree a.1 a.2.1 a.2.2) d

/-! Table slots: reference count and report line (R150, R160). -/

/-- PINS + USES. -/
def Slot.refs (s : Slot) : Nat := s.pins.toNat + s.uses
/-- Code of a slot's state. -/
def SlotState.code : SlotState → Nat
  | .empty => 0
  | .loading => 1
  | .ready => 2

/-- The report line of a slot function (R160). -/
def slotReport (n : Nat) (s : Slot) (st : Byte) : List Byte :=
  natLe 4 s.version.toNat ++ natLe 2 s.pins.toNat ++ natLe 2 s.uses ++
  [BitVec.ofNat 8 s.st.code, BitVec.ofNat 8 n, BitVec.ofNat 8 s.kind.toNat, st] ++ List.replicate 52 0

/-- The report line written, where DST is a scratchpad-form address that is a multiple of 64 (R160). -/
def Dev.writeReport (d : Dev) (x : Desc) (st : Byte) : Dev :=
  if isSp (x.w 2) && x.w 2 % 64 == 0 then d.memWrite (x.w 2) 0 (slotReport (exSlot x) (d.slot (exSlot x)) st) else d

end Sys2Proof.Machine
end

