-- ==== Sys2Proof/Machine/KvMap.lean ====
section
/-! DEFINITION. The KV map of a sequence: header, page entries and Trellis summaries (spec/10 R247 to R251, R266). -/

namespace Sys2Proof.Machine

/-! Page entries (R251). -/

def peState (w : Nat) : Nat := fld w 63 62
def peShared (w : Nat) : Bool := bitN w 61
def peTsum (w : Nat) : Bool := bitN w 60
def peVint (w : Nat) : Nat := fld w 59 56
def peObj (w : Nat) : ObjNo := BitVec.ofNat 16 (fld w 55 40)
def peGran (w : Nat) : Nat := fld w 39 16
def peFill (w : Nat) : Nat := fld w 6 0
/-- A page entry from its fields. -/
def pageEntry (state : Nat) (shared tsum : Bool) (vint : Nat) (o : ObjNo) (g fill : Nat) : Nat :=
  state * 2 ^ 62 + b2n shared * 2 ^ 61 + b2n tsum * 2 ^ 60 + vint % 16 * 2 ^ 56 + o.toNat * 2 ^ 40 + g % 2 ^ 24 * 2 ^ 16 + fill % 128
/-- VALID. -/
def peValid (w : Nat) : Bool := peState w == 1
/-- VALID, full, with its Trellis summary written. -/
def peSummed (w : Nat) : Bool := peValid w && peFill w == 64 && peTsum w

/-! Header (R250). -/

/-- Bytes [lo + n − 1 : lo] of the header of map `o`. -/
def Dev.kvHdr (d : Dev) (o : ObjNo) (lo n : Nat) : Nat := leNat (d.objRead o lo n)
def Dev.kvStreams (d : Dev) (o : ObjNo) : Nat := d.kvHdr o 4 2
def Dev.kvPagesMax (d : Dev) (o : ObjNo) : Nat := d.kvHdr o 8 4
def Dev.kvTrellis (d : Dev) (o : ObjNo) : Nat := d.kvHdr o 16 8
/-- The 64 bytes of a header. -/
def kvHeader (kvType streams hg dCode pagesMax gen seq trellis : Nat) : List Byte :=
  natLe 2 0xC1A7 ++ natLe 1 1 ++ natLe 1 kvType ++ natLe 2 streams ++ natLe 1 hg ++ natLe 1 dCode ++ natLe 4 pagesMax ++
  natLe 2 gen ++ natLe 2 seq ++ natLe 8 trellis ++ List.replicate 40 0
/-- Where the entry of page `i` of stream `s` lies. -/
def kvEntryOff (pagesMax s i : Nat) : Nat := 4096 + (s * pagesMax + i) * 8
/-- The entry of page `i` of stream `s`. -/
def Dev.kvEntry (d : Dev) (o : ObjNo) (s i : Nat) : Nat := leNat (d.objRead o (kvEntryOff (d.kvPagesMax o) s i) 8)
/-- The entry replaced. -/
def Dev.kvPut (d : Dev) (o : ObjNo) (s i w : Nat) : Dev := d.objWrite o (kvEntryOff (d.kvPagesMax o) s i) (natLe 8 w)
/-- Where summary `j` of stream `s` lies (R266). -/
def trellisOff (trellis pagesMax s j : Nat) : Nat := trellis + s * (pagesMax + ceilDiv pagesMax 64) * 2048 + j * 2048
/-- Bytes of a map (R250). -/
def kvMapBytes (streams pagesMax trellis : Nat) : Nat :=
  if trellis = 0 then 4096 + streams * pagesMax * 8 else trellis + streams * (pagesMax + ceilDiv pagesMax 64) * 2048

end Sys2Proof.Machine
end

