-- ==== Sys2Proof/Machine/Bits.lean ====
section
/-! DEFINITION. Checks and hashes the manual names by their standard: CRC-32C (R75, R325) and SipHash-2-4 (R269, R458). -/

namespace Sys2Proof

/-- One bit of the reflected CRC-32C division. -/
def crc32cBit (c : Nat) : Nat := if c % 2 = 1 then (c / 2) ^^^ 0x82F63B78 else c / 2

/-- One byte of CRC-32C. -/
def crc32cByte (c : Nat) (b : Byte) : Nat :=
  (List.range 8).foldl (fun x _ => crc32cBit x) (c ^^^ b.toNat)

/-- CRC-32C (Castagnoli) of a byte list. -/
def crc32c (bs : List Byte) : Nat := (bs.foldl crc32cByte 0xFFFFFFFF) ^^^ 0xFFFFFFFF

/-- State of SipHash. -/
structure Sip where
  v0 : W64
  v1 : W64
  v2 : W64
  v3 : W64
deriving DecidableEq, Repr

/-- One SipRound. -/
def sipRound (s : Sip) : Sip :=
  let v0 := s.v0 + s.v1
  let v1 := (s.v1.rotateLeft 13) ^^^ v0
  let v0 := v0.rotateLeft 32
  let v2 := s.v2 + s.v3
  let v3 := (s.v3.rotateLeft 16) ^^^ v2
  let v0 := v0 + v3
  let v3 := (v3.rotateLeft 21) ^^^ v0
  let v2 := v2 + v1
  let v1 := (v1.rotateLeft 17) ^^^ v2
  let v2 := v2.rotateLeft 32
  ⟨v0, v1, v2, v3⟩

/-- Two compression rounds over one word. -/
def sipWord (s : Sip) (m : W64) : Sip :=
  let s := sipRound (sipRound { s with v3 := s.v3 ^^^ m })
  { s with v0 := s.v0 ^^^ m }

/-- The whole words of a message, by fuel. -/
def sipWords : Nat → List Byte → List W64
  | 0, _ => []
  | n + 1, bs => BitVec.ofNat 64 (leNat (bs.take 8)) :: sipWords n (bs.drop 8)

/-- SipHash-2-4 of a message under a 128-bit key. -/
def sipHash (key : BitVec 128) (bs : List Byte) : W64 :=
  let k0 : W64 := key.extractLsb' 0 64
  let k1 : W64 := key.extractLsb' 64 64
  let s0 : Sip := ⟨k0 ^^^ 0x736f6d6570736575, k1 ^^^ 0x646f72616e646f6d, k0 ^^^ 0x6c7967656e657261, k1 ^^^ 0x7465646279746573⟩
  let n := bs.length / 8
  let s1 := (sipWords n bs).foldl sipWord s0
  let last : W64 := BitVec.ofNat 64 (leNat (bs.drop (8 * n)) + (bs.length % 256) * 2 ^ 56)
  let s2 := sipWord s1 last
  let s3 := sipRound (sipRound (sipRound (sipRound { s2 with v2 := s2.v2 ^^^ 0xff })))
  s3.v0 ^^^ s3.v1 ^^^ s3.v2 ^^^ s3.v3

end Sys2Proof
end

