-- ==== Sys2Proof/Machine/Blocks.lean ====
section
/-! DEFINITION. Stored weight blocks, slot images and their decoding (spec/03 R74 to R80; spec/06 R142 to R148; spec/12 R347). -/

namespace Sys2Proof.Machine

/-! Packed codes. -/

/-- Codes packed at 4, 8, 16 or 32 bits, the even position of a pair of 4-bit codes in bits [3:0] (R76). -/
def unpackCodes (t : Ty) (n : Nat) (bs : List Byte) : List Nat :=
  match t with
  | .int4 => ((bs.flatMap fun (b : Byte) => [b.toNat % 16, b.toNat / 16]) ++ List.replicate n 0).take n
  | _ => (List.range n).map fun i => leNat ((bs.drop (i * t.bytes)).take t.bytes)

/-- Codes packed into bytes. -/
def packCodes (t : Ty) : List Nat → List Byte
  | [] => []
  | [a] => match t with
    | .int4 => [BitVec.ofNat 8 (a % 16)]
    | _ => natLe t.bytes a
  | a :: b :: cs => match t with
    | .int4 => BitVec.ofNat 8 (a % 16 + b % 16 * 16) :: packCodes t cs
    | _ => natLe t.bytes a ++ (natLe t.bytes b ++ packCodes t cs)

/-- Bits of bytes, each byte from bit [0] upward. -/
def bitsOf (bs : List Byte) : List Bool := bs.flatMap fun b => (List.range 8).map fun i => b.getLsbD i

/-- A number from bits, least significant first. -/
def ofBits : List Bool → Nat
  | [] => 0
  | b :: bs => b2n b + 2 * ofBits bs

/-! Slot images (R148). -/

def imgVLog (im : List Byte) : Nat := fld (leNat (im.take 8)) 47 44
def imgCbkW (im : List Byte) : Nat := fld (leNat (im.take 8)) 43 40
def imgEtype (im : List Byte) : Nat := fld (leNat (im.take 8)) 39 36
def imgKind (im : List Byte) : Nat := fld (leNat (im.take 8)) 35 32
def imgVersion (im : List Byte) : Nat := leNat ((im.drop 8).take 4)
/-- Vector length V. -/
def imgV (im : List Byte) : Nat := 2 ^ imgVLog im

/-- Exponent bits of a type that EXP serves (R144). -/
def expBits : Ty → Nat
  | .bf16 => 8
  | .e5m2 => 5
  | _ => 4

/-- Code lengths of a KIND 0x1 image, ESC last (R144, R148). -/
def codeLengths (im : List Byte) (e : Nat) : List Nat := ((im.drop 64).take (2 ^ e + 1)).map (·.toNat)

/-- The table rules of KIND 0x1: lengths up to 12, Kraft's sum at most 1, zero after them. -/
def expTableOk (im : List Byte) (e : Nat) : Bool :=
  let ls := codeLengths im e
  ls.all (· ≤ 12) && decide ((ls.map fun l => if l = 0 then 0 else 2 ^ (12 - l)).foldl (· + ·) 0 ≤ 2 ^ 12) &&
  (im.drop (64 + (2 ^ e + 1))).all (· == 0)

/-- The entries of a codebook of entries of `b` bytes fit and the later bytes are zero. -/
def cbkTableOk (im : List Byte) (b : Nat) : Bool :=
  let n := 2 ^ imgCbkW im * b
  decide (n ≤ 4032) && (im.drop (64 + n)).all (· == 0)

/-- An image that R148, and R347 for KIND 0x3, allow. -/
def imageOk (im : List Byte) : Bool :=
  let w := fun i => leNat ((im.drop (8 * i)).take 8)
  let hdr := fld (w 0) 15 0 == 0xC15A && fld (w 0) 31 16 == 0 && fld (w 0) 63 48 == 0 && fld (w 1) 63 32 == 0 &&
    [2, 3, 4, 5, 6].all (fun i => w i == 0) && fld (w 7) 63 32 == 0 &&
    fld (w 7) 31 0 == crc32c (im.take 56 ++ im.drop 64)
  let et := Ty.ofCode (imgEtype im)
  hdr && (
    if imgKind im = 1 then
      imgVLog im == 0 && imgCbkW im == 0 &&
      (match et with
       | some .bf16 => expTableOk im 8
       | some .e4m3 => expTableOk im 4
       | some .e5m2 => expTableOk im 5
       | _ => false)
    else if imgKind im = 2 then
      decide (imgVLog im ≤ 3) && decide (4 ≤ imgCbkW im ∧ imgCbkW im ≤ 11) &&
      (match et with
       | some .int8 | some .e4m3 | some .e5m2 => cbkTableOk im (imgV im)
       | some .bf16 => cbkTableOk im (imgV im * 2)
       | _ => false)
    else if imgKind im = 3 then
      et == some .bf16 && decide (2 ≤ imgVLog im ∧ imgVLog im ≤ 4) && decide (4 ≤ imgCbkW im ∧ imgCbkW im ≤ 8) &&
      cbkTableOk im (imgV im * 2) && (unpackCodes .bf16 2016 (im.drop 64)).any (· % 2 ^ 15 != 0)
    else false)

/-! Canonical codes (R144). -/

/-- Codewords of one length, and the next code. -/
def codesOfLen (ls : List Nat) (len code : Nat) : List (Nat × Nat × Nat) × Nat :=
  (List.range ls.length).foldl (fun (p : List (Nat × Nat × Nat) × Nat) sym =>
    if ls.getD sym 0 = len then (p.1 ++ [(len, p.2, sym)], p.2 + 1) else p) ([], code)

/-- The code: (length, codeword, symbol), for lengths from `len` up by fuel. -/
def canonGo (ls : List Nat) : Nat → Nat → Nat → List (Nat × Nat × Nat)
  | 0, _, _ => []
  | fuel + 1, len, code =>
    let p := codesOfLen ls len code
    p.1 ++ canonGo ls fuel (len + 1) (p.2 * 2)

/-- The canonical code of a slot's lengths. -/
def canonCode (ls : List Nat) : List (Nat × Nat × Nat) := canonGo ls 12 1 0

/-- The symbol of a codeword. -/
def codeSym (tb : List (Nat × Nat × Nat)) (len code : Nat) : Option Nat :=
  (tb.find? fun e => e.1 == len && e.2.1 == code).map (·.2.2)

/-- One symbol read from a bit stream, codewords most significant bit first: the symbol and the rest, none where no codeword matches. -/
def readSym (tb : List (Nat × Nat × Nat)) : List Bool → Nat → Nat → Option (Nat × List Bool)
  | [], _, _ => none
  | b :: bs, len, code =>
    let code := 2 * code + b2n b
    match codeSym tb (len + 1) code with
    | some s => some (s, bs)
    | none => if len + 1 < 12 then readSym tb bs (len + 1) code else none

/-- `n` exponents of `e` bits: the exponents, the number of escapes, and the bits left (R144). -/
def readExps (tb : List (Nat × Nat × Nat)) (e : Nat) : Nat → List Bool → Option (List Nat × Nat × List Bool)
  | 0, bs => some ([], 0, bs)
  | n + 1, bs =>
    match readSym tb bs 0 0 with
    | none => none
    | some (s, bs) =>
      if s = 2 ^ e then
        if bs.length < e then none
        else match readExps tb e n (bs.drop e) with
          | none => none
          | some (xs, k, r) => some (ofBits (bs.take e) :: xs, k + 1, r)
      else match readExps tb e n bs with
        | none => none
        | some (xs, k, r) => some (s :: xs, k, r)

/-- A row ends in its last byte with zero padding (R145). -/
def padOk (r : List Bool) : Bool := decide (r.length < 8) && r.all (· == false)

/-- Width of a sign-mantissa field (R143). -/
def planeBits : Ty → Nat
  | .bf16 => 8
  | _ => 4

/-- An element from its exponent and its sign-mantissa field (R143). -/
def joinExp (t : Ty) (e sm : Nat) : Nat :=
  match t with
  | .bf16 => sm / 128 * 32768 + e * 128 + sm % 128
  | .e4m3 => sm / 8 * 128 + e * 8 + sm % 8
  | _ => sm / 4 % 2 * 128 + e * 4 + sm % 4

/-- Fields of one row of the plane. -/
def planeRow (t : Ty) (n : Nat) (bs : List Byte) : List Nat :=
  if planeBits t = 8 then (bs.take n).map (·.toNat) else unpackCodes .int4 n bs

/-! Block headers (R75). -/

/-- A weight block's header. -/
structure BlkHdr where
  h0 : Nat
  h1 : Nat
  h2 : Nat
  h3 : Nat
  h456 : Bool
  h7 : Nat
deriving DecidableEq, Repr

def BlkHdr.ofBytes (bs : List Byte) : BlkHdr :=
  let w := fun i => leNat ((bs.drop (8 * i)).take 8)
  ⟨w 0, w 1, w 2, w 3, w 4 == 0 && w 5 == 0 && w 6 == 0, w 7⟩

def BlkHdr.etype (h : BlkHdr) : Option Ty := Ty.ofCode (fld h.h0 23 20)
def BlkHdr.enc (h : BlkHdr) : Nat := fld h.h0 30 28
def BlkHdr.raw (h : BlkHdr) : Bool := bitN h.h0 27
def BlkHdr.sidecar (h : BlkHdr) : Bool := bitN h.h0 31
def BlkHdr.slot (h : BlkHdr) : Nat := fld h.h0 37 32
def BlkHdr.cbkW (h : BlkHdr) : Nat := fld h.h0 43 40
def BlkHdr.payload (h : BlkHdr) : Nat := fld h.h1 31 0
def BlkHdr.rows (h : BlkHdr) : Nat := fld h.h1 47 32
def BlkHdr.cols (h : BlkHdr) : Nat := fld h.h1 63 48
def BlkHdr.scale2 (h : BlkHdr) : W32 := BitVec.ofNat 32 (fld h.h2 31 0)
def BlkHdr.rowBlk (h : BlkHdr) : Nat := fld h.h2 47 32
def BlkHdr.colBlk (h : BlkHdr) : Nat := fld h.h2 63 48
def BlkHdr.slotVer (h : BlkHdr) : W32 := BitVec.ofNat 32 (fld h.h3 31 0)
def BlkHdr.crc (h : BlkHdr) : Nat := fld h.h7 31 0
/-- Bytes of a row in plain packing. -/
def BlkHdr.rowBytes (h : BlkHdr) : Nat := ceilDiv (h.cols * tyBits h.etype) 8
/-- Plain payload size. -/
def BlkHdr.plain (h : BlkHdr) : Nat := h.rows * h.rowBytes
def BlkHdr.empty (h : BlkHdr) : Bool := h.rows == 0 || h.cols == 0
/-- The block reads through a slot. -/
def BlkHdr.coded (h : BlkHdr) : Bool := !h.raw && h.enc != 0
/-- Bytes of the block with its padding (R74). -/
def BlkHdr.stored (h : BlkHdr) : Nat := ceilDiv (64 + (if h.sidecar then 128 else 0) + h.payload) 64 * 64

/-- ENC serves the element type (R77). -/
def encOk (enc : Nat) (t : Option Ty) : Bool :=
  if enc = 0 then true
  else if enc = 1 then t == some .e4m3 || t == some .e5m2 || t == some .bf16
  else if enc = 2 then t != some .int4
  else false

/-- The slot a coded block names serves it (R78, R146, R152). -/
def slotServes (s : Slot) (owned : Bool) (h : BlkHdr) : Bool :=
  s.st == .ready && owned && s.kind.toNat == h.enc && Ty.ofCode s.etype.toNat == h.etype && s.version == h.slotVer &&
  (h.enc != 2 || s.cbkW.toNat == h.cbkW)

/-- The conditions of R78 that the header alone decides. -/
def headerOk (h : BlkHdr) (s : Slot) (owned : Bool) : Bool :=
  fld h.h0 15 0 == 0xC1B7 && fld h.h0 19 16 == 1 && mmATypeOk h.etype && encOk h.enc h.etype &&
  fld h.h0 63 48 == 0 && fld h.h0 47 44 == 0 && fld h.h0 39 38 == 0 && fld h.h0 26 24 == 0 && fld h.h3 63 32 == 0 && h.h456 &&
  fld h.h7 63 32 == 0 && decide (h.rows ≤ 128) && decide (h.cols ≤ 256) && (h.etype != some .int4 || h.cols % 2 == 0) &&
  (if h.empty then h.payload == 0
   else if h.coded then decide (1 ≤ h.payload ∧ h.payload ≤ h.plain) else h.payload == h.plain) &&
  (if h.enc = 2 ∧ h.raw = false then decide (4 ≤ h.cbkW ∧ h.cbkW ≤ 11) else h.cbkW == 0) &&
  (if h.coded then slotServes s owned h else h.slot == 0) && f32PosNormal h.scale2

/-! Payloads. -/

/-- Rows of a plain payload. -/
def plainRows (h : BlkHdr) (t : Ty) (pay : List Byte) : List (List Nat) :=
  (List.range h.rows).map fun r => unpackCodes t h.cols ((pay.drop (r * h.rowBytes)).take h.rowBytes)

/-- One row of an EXP payload: its codes and escapes, none where it is invalid (R143 to R145). -/
def expRow (tb : List (Nat × Nat × Nat)) (t : Ty) (cols : Nat) (plane codes : List Byte) : Option (List Nat × Nat) :=
  let fs := planeRow t cols plane
  if t = .e5m2 ∧ fs.any (8 ≤ ·) then none
  else match readExps tb (expBits t) cols (bitsOf codes) with
    | none => none
    | some (es, k, r) => if padOk r && decide (k ≤ 4) then some (List.zipWith (joinExp t) es fs, k) else none

/-- Every row of a list decoded, with the escapes; none where one is invalid. -/
def gatherRows : List (Option (List Nat × Nat)) → Option (List (List Nat) × Nat)
  | [] => some ([], 0)
  | none :: _ => none
  | some (r, k) :: rs => match gatherRows rs with
    | none => none
    | some (xs, n) => some (r :: xs, k + n)

/-- Rows of an EXP payload (R143). -/
def expRows (h : BlkHdr) (t : Ty) (im pay : List Byte) : Option (List (List Nat) × Nat) :=
  let tb := canonCode (codeLengths im (expBits t))
  let pb := ceilDiv (h.cols * planeBits t) 8
  let base := 4 * h.rows + h.rows * pb
  let size := h.payload - base
  let offs := (List.range h.rows).map fun r => leNat ((pay.drop (4 * r)).take 4)
  let ends := offs.drop 1 ++ [size]
  if h.payload < base ∨ offs.headD 0 ≠ 0 ∨ (List.zipWith (fun a b => decide (a ≤ b ∧ b ≤ size)) offs ends).any (· == false) then none
  else gatherRows ((List.range h.rows).map fun r =>
    let a := offs.getD r 0
    expRow tb t h.cols ((pay.drop (4 * h.rows + r * pb)).take pb) ((pay.drop (base + a)).take (ends.getD r 0 - a)))

/-- Rows of a CBK payload (R146). -/
def cbkRows (h : BlkHdr) (t : Ty) (im pay : List Byte) : Option (List (List Nat) × Nat) :=
  let v := imgV im
  let rb := ceilDiv (h.cols / v * h.cbkW) 8
  let eb := v * t.bytes
  if h.cols % v ≠ 0 ∨ h.payload ≠ h.rows * rb then none
  else some ((List.range h.rows).map (fun r =>
    let bits := bitsOf ((pay.drop (r * rb)).take rb)
    (List.range (h.cols / v)).flatMap fun i =>
      let ix := ofBits ((bits.drop (i * h.cbkW)).take h.cbkW)
      unpackCodes t v ((im.drop (64 + ix * eb)).take eb)), 0)

/-- Rows of any payload, with the escapes in it. -/
def blockRows (h : BlkHdr) (im pay : List Byte) : Option (List (List Nat) × Nat) :=
  let t := tyOr h.etype
  if h.empty then some ((List.range h.rows).map fun _ => [], 0)
  else if !h.coded then some (plainRows h t pay, 0)
  else if h.enc = 1 then expRows h t im pay
  else cbkRows h t im pay

/-- The CRC of a block (R75): H0 to H6, sidecar and payload. -/
def blockCrc (hdr sc pay : List Byte) : Nat := crc32c (hdr.take 56 ++ sc ++ pay)

/-- Channel scales of a block (R63, R147). -/
def blockScales (h : BlkHdr) (sc : List Byte) : List W32 :=
  (List.range h.rows).map fun c => if h.sidecar then effScale h.scale2 (sc.getD c 0).toNat else h.scale2

/-! Tiles (R126, R157). -/

/-- Element (n, k) of a matrix held by rows; zero outside. -/
def matAt (m : List (List Nat)) (n k : Nat) : Nat := (m.getD n []).getD k 0

/-- Bytes of an A tile: 16 channels of K_T positions each, from channel `n0` and position `k0` of a matrix of rows. -/
def tileOf (t : Ty) (m : List (List Nat)) (n0 k0 : Nat) : List Byte :=
  (List.range 16).flatMap fun n => packCodes t ((List.range (kTile t)).map fun k => matAt m (n0 + n) (k0 + k))

end Sys2Proof.Machine
end

