-- ==== Sys2Proof/Machine/Flags.lean ====
section
/-! DEFINITION. What the engines count and flag: saturations, numeric faults, accumulator clamps, stalls (spec/05 R132, R136,
R137; spec/07 R188 to R190; spec/06 R162, R165; spec/10 R277, R279). -/

namespace Sys2Proof.Machine

/-- Saturated elements and numeric faults of a vector-engine command, with their event bits: the core's source fires in each cycle in which
one of the two bits is set (R188, R189, R395). -/
def Dev.veTally (d : Dev) (c : CoreNo) (sat flt : Nat) : Dev :=
  let d := if sat = 0 then d else d.count (veReg c 0x18) (0xB030 * 256 + 3) sat
  let d := if flt = 0 then d else d.count (veReg c 0x20) (0xB030 * 256 + 4) flt
  let m := (if sat = 0 then 0 else 1) + if flt = 0 then 0 else 2
  if m = 0 then d else d.setEvtCycles (.veEvt c) m

/-- Groups issued (R170, R188). -/
def Dev.veGroups (d : Dev) (c : CoreNo) (n : Nat) : Dev := d.count (veReg c 0x08) (0xB030 * 256 + 1) n

/-- Clamped accumulator elements of engine `m` (R58, R136, R137). -/
def Dev.mxeSat (d : Dev) (c : CoreNo) (m n : Nat) : Dev :=
  if n = 0 then d else (d.count (mxeReg c (m * 0x40 + 0x18)) (0xB010 * 256 + 4) n).setEvtCycles (.mxeEvt c) 1

/-- Array cycles of engine `m` (R136). -/
def Dev.mxeMac (d : Dev) (c : CoreNo) (m n : Nat) : Dev :=
  if n = 0 then d else d.count (mxeReg c (m * 0x40)) (0xB010 * 256 + 1) n

/-- A weight-stall and a tile-queue stall of engine `m`, of a length only timing decides (R132, log entry 2). -/
def Dev.mxeWstall (d : Dev) (c : CoreNo) (m : Nat) : Dev := d.stall (mxeReg c (m * 0x40 + 0x08)) (0xB010 * 256 + 2)
def Dev.mxeTqstall (d : Dev) (c : CoreNo) (m : Nat) : Dev := d.stall (mxeReg c (m * 0x40 + 0x10)) (0xB010 * 256 + 3)

/-- A MATMUL that ends early leaves array cycles of tiles it had not finished, of a number only timing decides (R136, log entry 2). -/
def Dev.mxePart (d : Dev) (c : CoreNo) (ms : List Nat) : Dev := ms.foldl (fun d m => d.stall (mxeReg c (m * 0x40)) (0xB010 * 256 + 1)) d

/-- Port-cycles spent waiting for a bank, of a number only timing decides (R85, R132, R181, log entry 2). -/
def Dev.bankStall (d : Dev) (c : CoreNo) : Dev := d.freeNat.2.addCnt (coreReg c 0x10) d.freeNat.1

/-- Cycles the expander starves, of a number only timing decides (R155). -/
def Dev.wxStarve (d : Dev) (c : CoreNo) : Dev := d.stall (wxReg c 0x28) (0xB021 * 256 + 5)

end Sys2Proof.Machine
end

