-- ==== Sys2Proof/Machine/Rings.lean ====
section
/-! DEFINITION. Submission queues and completion rings in host memory (spec/13 R374 to R383, R392). -/

namespace Sys2Proof.Machine

/-! Fields of HIF_QCFG (R392). -/
def QueueSt.kind (k : QueueSt) : Nat := fld k.cfg.toNat 2 1
def QueueSt.part (k : QueueSt) : PartNo := BitVec.ofNat 3 (fld k.cfg.toNat 10 8)
def QueueSt.irqMode (k : QueueSt) : Nat := fld k.cfg.toNat 19 18
def QueueSt.vector (k : QueueSt) : Nat := fld k.cfg.toNat 25 20
def QueueSt.holdoff (k : QueueSt) : Nat := fld k.cfg.toNat 35 32
def QueueSt.sqLog (k : QueueSt) : Nat := fld k.cfg.toNat 44 40
def QueueSt.cqLog (k : QueueSt) : Nat := fld k.cfg.toNat 52 48
def QueueSt.sqSize (k : QueueSt) : Nat := 2 ^ k.sqLog
def QueueSt.cqSize (k : QueueSt) : Nat := 2 ^ k.cqLog
/-- Bytes of a submission entry (R374). -/
def QueueSt.sqEntry (k : QueueSt) : Nat := if k.kind = 1 then 128 else 64
/-- Bytes of a completion entry (R374). -/
def QueueSt.cqEntry (k : QueueSt) : Nat := if k.kind = 1 then 32 else 16
/-- Byte of a completion entry whose bit 7 is PHASE (R103, R287, R381). -/
def QueueSt.phaseAt (k : QueueSt) : Nat := if k.kind = 1 then 2 else 3
/-- The ring holds as many entries as it can without its tail meeting its head (R378, log entry 14). -/
def QueueSt.full (k : QueueSt) : Bool := (k.cqTail + 1) % k.cqSize == k.cqHead

/-- Bit 7 of byte `i` set to the phase. -/
def withPhase (phase : Bool) (i : Nat) (bs : List Byte) : List Byte :=
  bs.set i (if phase then bs.getD i 0 ||| 0x80 else bs.getD i 0 &&& 0x7F)

/-- An entry written at the completion tail; the tail advances and the phase toggles as it wraps (R376); the interrupt it asks
for becomes due (R382). -/
def State.cqWrite (s : State) (q : QueueNo) (r : Rec) : State :=
  let k := s.dev.queue q
  let tail := (k.cqTail + 1) % k.cqSize
  { s with
    host := Memory.writeN s.host (k.cqBase.toNat + k.cqTail * k.cqEntry) (withPhase k.phase k.phaseAt r.bytes)
    dev := s.dev.setQueue q { k with cqTail := tail, phase := if tail = 0 then !k.phase else k.phase,
                                     irqDue := k.irqDue || k.irqMode == 1 || (k.irqMode == 0 && r.irq) } }

/-- Tags of a queue whose commands are still due a record. -/
def Dev.tagsOf (d : Dev) (q : QueueNo) : List Tag :=
  (d.cores.tag.filter fun e => e.2.inFlight && e.2.iss == .queue q).map fun e => BitVec.ofNat 12 e.1

/-- A queue still owes an entry: a command's, a rejection's, a transfer's, or an event of a sequence admitted through it (R383). -/
def Dev.owes (d : Dev) (q : QueueNo) : Bool :=
  !(d.tagsOf q).isEmpty || !(d.queue q).due.isEmpty || d.hif.xfers.any (·.q == q) || d.hif.backlog.any (·.q == some q) ||
  d.srv.seq.any fun e => e.2.queue == some q && e.2.st != .free && e.2.st != .safeHold

/-- A draining queue that owes nothing more is disabled (R383). -/
def Dev.drained (d : Dev) (q : QueueNo) : Dev :=
  let k := d.queue q
  if k.draining && !d.owes q then d.setQueue q { k with draining := false, en := false } else d

/-- The submission entry at index `i`. -/
def State.sqEntryAt (s : State) (q : QueueNo) (i : Nat) : List Byte :=
  let k := s.dev.queue q
  Memory.readN s.host (k.sqBase.toNat + i * k.sqEntry) k.sqEntry

/-- The submission head passes an entry. -/
def Dev.sqPass (d : Dev) (q : QueueNo) : Dev :=
  let k := d.queue q
  d.setQueue q { k with sqHead := (k.sqHead + 1) % k.sqSize }

/-- The device may fetch from a queue. -/
def QueueSt.fetches (k : QueueSt) : Bool := k.en && !k.fault && !k.draining && k.sqHead != k.sqTail

/-- A record that belongs to no tag entry becomes due (R95, R381). -/
def Dev.owe (d : Dev) (q : QueueNo) (r : Rec) : Dev := d.setQueue q { d.queue q with due := (d.queue q).due ++ [r] }

end Sys2Proof.Machine
end

