-- ==== Sys2Proof/Machine/Send.lean ====
section
/-! DEFINITION. Packets leaving the device: header, encryption, route, credits and the retry buffer (spec/12 R324 to R337;
spec/16 R457). -/

namespace Sys2Proof.Machine

/-- Virtual channel of a packet type (R330). -/
def pktVc (typ : Nat) : Nat := if typ = 0x03 then 1 else if typ = 0x20 then 2 else 0
/-- Flits of a packet (R332); the body of an encrypted one ends in its 16-byte tag. -/
def pktFlits (k : Pkt) : Nat := ceilDiv (16 + k.body.length) 248

/-- Flits of each receive buffer (R330). -/
def vcFlits (vc : Nat) : Nat := if vc = 0 then 64 else if vc = 1 then 1024 else 32

/-- `n` bytes of a list, zero where it is short. -/
def sized (n : Nat) (bs : List Byte) : List Byte := (List.range n).map fun i => bs.getD i 0

/-- The header's two words as bytes (R332). -/
def pktHdrBytes (h : PktHdr) (typ : Nat) (off : Nat) (len : Nat) : List Byte :=
  natLe 8 (h.pepoch.toNat * 2 ^ 48 + typ * 2 ^ 40 + b2n h.enc * 2 ^ 39 + pktVc typ * 2 ^ 37 + h.part.toNat * 2 ^ 34 +
           h.src.toNat * 2 ^ 28 + h.dest.toNat * 2 ^ 22 + b2n h.hop1 * 2 ^ 21 + h.xid.toNat) ++ natLe 8 (off * 2 ^ 32 + len)

/-- The 96-bit nonce of a link packet (R457). -/
def linkNonce (typ : Nat) (src dest : MemberNo) (ext off : Nat) : List Byte :=
  natLe 12 (typ % 16 * 2 ^ 92 + src.toNat * 2 ^ 86 + dest.toNat * 2 ^ 80 + ext % 2 ^ 52 * 2 ^ 28 +
            (if typ = 0x03 then off % 2 ^ 28 else 0))

/-- The bytes of a packet (R332): its header, and its body with the tag of an encrypted one. -/
def pktBytes (k : Pkt) : List Byte :=
  pktHdrBytes k.hdr k.typ.toNat k.off.toNat (if k.hdr.enc then k.body.length - 16 else k.body.length) ++ k.body
/-- The words of a header. -/
def pktW (bs : List Byte) (i : Nat) : Nat := leNat ((bs.drop (8 * i)).take 8)
/-- Bytes of body and tag that a packet's header announces, and its flits. -/
def hdrBody (bs : List Byte) : Nat := fld (pktW bs 1) 12 0 + (if bitN (pktW bs 0) 39 then 16 else 0)
def hdrFlits (bs : List Byte) : Nat := ceilDiv (16 + hdrBody bs) 248
/-- The packet that bytes hold; what follows its last one is padding. -/
def pktOf (bs : List Byte) : Pkt :=
  let w := pktW bs 0
  ⟨⟨BitVec.ofNat 16 (fld w 63 48), bitN w 39, BitVec.ofNat 3 (fld w 36 34), BitVec.ofNat 6 (fld w 33 28), BitVec.ofNat 6 (fld w 27 22),
    bitN w 21, BitVec.ofNat 16 (fld w 15 0)⟩, BitVec.ofNat 8 (fld w 47 40), BitVec.ofNat 32 (fld (pktW bs 1) 63 32),
   (bs.drop 16).take (hdrBody bs)⟩

/-- A packet of partition `p` with extended XID `ext`, encrypted under the partition's link key where it is confidential (R350); `hop` for
the neighbour alone (R332). -/
def Dev.mkPktHop (d : Dev) (hop : Bool) (typ : Nat) (p : PartNo) (dest : MemberNo) (ext off : Nat) (body : List Byte) : Pkt :=
  let q := d.part p
  let h : PktHdr := ⟨q.epoch, q.conf, p, d.links.member, dest, hop, BitVec.ofNat 16 ext⟩
  ⟨h, BitVec.ofNat 8 typ, BitVec.ofNat 32 off,
   if q.conf then sized (body.length + 16) (Config.gcmSeal (q.keyLink.getD 0) (linkNonce typ d.links.member dest ext off)
     (pktHdrBytes h typ off body.length) body) else body⟩

def Dev.mkPkt (d : Dev) (typ : Nat) (p : PartNo) (dest : MemberNo) (ext off : Nat) (body : List Byte) : Pkt :=
  d.mkPktHop false typ p dest ext off body

/-! Flits and FEC blocks (R324, R325). -/

/-- The flit header. -/
def flitHdr (ft fseq ack vc crd : Nat) : W32 :=
  BitVec.ofNat 32 (ft % 4 * 2 ^ 30 + fseq % 1024 * 2 ^ 20 + ack % 1024 * 2 ^ 10 + vc % 4 * 2 ^ 8 + crd % 256)
/-- A flit: header, 248 bytes of payload, CRC-32C over both. -/
def flitBytes (hdr : W32) (payload : List Byte) : List Byte :=
  let b := natLe 4 hdr.toNat ++ sized 248 payload
  b ++ natLe 4 (crc32c b)
/-- A flit's CRC holds. -/
def flitOk (f : List Byte) : Bool := leNat ((f.drop 252).take 4) == crc32c (f.take 252)
/-- The FEC block of a flit: 256 bytes of flit, 16 of parity. -/
def fecBlock (f : List Byte) : List Byte := sized 256 f ++ sized 16 (Config.fecParity (sized 256 f))
/-- Active lanes of a port, ascending. -/
def Port.lanes (p : Port) : List Nat := setBits p.active.toNat 4
/-- A block on the lanes: byte i on the (i mod a)-th of `a` active lanes. -/
def striped (a : Nat) (blk : List Byte) : List (List Byte) :=
  (List.range a).map fun j => ((List.range blk.length).filter fun i => i % a == j).map fun i => blk.getD i 0
/-- A flit put on a port's active lanes. -/
def Port.onLanes (p : Port) (f : List Byte) : List (List Byte) := striped p.lanes.length (fecBlock f)

/-- A port holds credits for a packet of `n` flits on a channel (R331). -/
def Port.credited (p : Port) (vc n : Nat) : Bool := decide (n ≤ Tbl.get 0 p.credit vc)
/-- A port may start a packet of `n` flits on a channel: UP, credits for all of them, room in the retry buffer (R328, R331). -/
def Port.canSend (p : Port) (vc n : Nat) : Bool :=
  p.st == .up && p.credited vc n && decide (p.retry.length + n ≤ 256)

/-- The credits the next flit header carries: up to 255 of one channel, the lowest channel first (R325, R331). -/
def Port.crd (p : Port) : Nat × Nat :=
  match (List.range 3).find? fun vc => decide (Tbl.get 0 p.owed vc ≠ 0) with
  | none => (0, 0)
  | some vc => (vc, min 255 (Tbl.get 0 p.owed vc))
/-- They have left. -/
def Port.gaveCrd (p : Port) : Port :=
  if p.crd.2 = 0 then p else { p with owed := Tbl.mod 0 p.owed p.crd.1 fun k => k - p.crd.2 }
/-- An IDLE (0) or CTRL (2) flit with a payload leaves. -/
def Port.sendOther (p : Port) (ft : Nat) (payload : List Byte) : Port :=
  { p.gaveCrd with wire := [p.onLanes (flitBytes (flitHdr ft 0 p.rxSeq.toNat p.crd.1 p.crd.2) payload)] }
/-- A PKT flit leaves; it stays in the retry buffer. -/
def Port.sendFlit (p : Port) (k : Option Pkt) (payload : List Byte) : Port :=
  let h := flitHdr 1 p.txSeq.toNat p.rxSeq.toNat p.crd.1 p.crd.2
  { p.gaveCrd with
    txSeq := p.txSeq + 1, retry := p.retry ++ [⟨p.txSeq.toNat, 0, k, h, sized 248 payload⟩],
    wire := p.wire ++ [p.onLanes (flitBytes h payload)] }

/-- The packet leaves: credits are consumed, its flits enter the retry buffer, credits ride with them (R328, R331). -/
def Port.transmit (p : Port) (k : Pkt) : Port :=
  let n := pktFlits k
  let bs := pktBytes k
  (List.range n).foldl (fun p i => p.sendFlit (if i = 0 then some k else none) ((bs.drop (248 * i)).take 248))
    { p with credit := Tbl.mod 0 p.credit (pktVc k.typ.toNat) (· - n), wire := [] }

/-! The points of a lane retune (R327): the flit of the initiator's FSEQ is the first that leaves on the other lanes. -/

/-- A point in this end's own sequence, or in its partner's, has come. -/
def Port.reached (p : Port) (pt : BitVec 10) : Bool :=
  decide (((if p.retuneMine then p.txSeq else p.rxSeq + 1) - pt).toNat < 512)
/-- Lane bit. -/
def laneBit (l : LaneNo) : BitVec 4 := BitVec.ofNat 4 (2 ^ l.toNat)
/-- The lane under retune leaves the stripe. -/
def Dev.laneOut (d : Dev) (p : PortNo) (l : LaneNo) : Dev :=
  let q := d.port p
  (d.setPort p { q with active := q.active &&& ~~~ (laneBit l) }).setEvt (.elkEvt p) 1
/-- It returns, and the retune is complete. -/
def Dev.laneIn (d : Dev) (p : PortNo) (l : LaneNo) : Dev :=
  let q := d.port p
  let d := d.setPort p { q with
    active := q.active ||| laneBit l, left := q.left &&& ~~~ (laneBit l), retuning := none, retuneMine := false, rejoin := false,
    agreed := false, rejoinPt := none, asked := false }
  (d.count (elkReg p 0x38) (0x5002 * 256 + 5) 1).setEvt (.elkEvt p) 3
/-- What the points that have come do: the lane leaves at the agreed switch point and returns at the rejoin point. -/
def Dev.retunePoint (d : Dev) (p : PortNo) : Dev :=
  let q := d.port p
  match q.retuning with
  | none => d
  | some l =>
    if q.active.getLsbD l.toNat then (if q.agreed && q.reached q.switchPt then d.laneOut p l else d)
    else match q.rejoinPt with
      | none => d
      | some r => if q.reached r then d.laneIn p l else d

/-- `n` flits of a receive buffer freed: their credits are to be returned (R331). -/
def Port.freeFlits (p : Port) (vc n : Nat) : Port :=
  { p with occ := Tbl.mod 0 p.occ vc (· - n), owed := Tbl.mod 0 p.owed vc (· + n) }

/-- The oldest waiting packet of a channel. -/
def Port.oldest (p : Port) (vc : Nat) : Option (Pkt × Option PortNo) := p.out.find? fun k => pktVc k.1.typ.toNat == vc
/-- The waiting packet that leaves next: the oldest of the lowest channel that holds its credits. Where the retry buffer has no room
for it, no packet of a higher channel goes before it (R330). -/
def Port.nextOut (p : Port) : Option (Pkt × Option PortNo) :=
  match (List.range 3).findSome? fun vc => (p.oldest vc).bind fun k => if p.credited vc (pktFlits k.1) then some k else none with
  | none => none
  | some k => if p.canSend (pktVc k.1.typ.toNat) (pktFlits k.1) then some k else none

/-- Waiting packets leave while they may: at most `fuel` of them. In device-scope Safe Hold only IDLE flits leave (R483). -/
def Dev.drainPort : Nat → Dev → PortNo → Dev
  | 0, d, _ => d
  | fuel + 1, d, p =>
    let q := d.port p
    if d.pwr.devHold then d
    else match q.nextOut with
    | none => d
    | some k =>
      let d := (d.setPort p ({ q with out := q.out.erase k }.transmit k.1)).retunePoint p
      let n := pktFlits k.1
      let d := match k.2 with
        | none => d
        | some i => d.setPort i ((d.port i).freeFlits (pktVc k.1.typ.toNat) n)
      Dev.drainPort fuel (d.addCnt (elkReg p 0x08) n) p

/-- A packet handed to a port: it leaves at once or waits; ELK_CNT_CREDWAIT counts a wait for credits on a port that is UP (R331, R356). -/
def Dev.portSend (d : Dev) (p : PortNo) (k : Pkt) (inPort : Option PortNo) : Dev :=
  let q := d.port p
  let d := if q.st ≠ .up ∨ q.credited (pktVc k.typ.toNat) (pktFlits k) = true then d else
    let w := d.freeNat
    w.2.addCnt (elkReg p 0x40) w.1
  let d := d.setPort p { d.port p with out := (d.port p).out ++ [(k, inPort)] }
  Dev.drainPort (q.out.length + 1) d p

/-- Ports of a mask that are UP; all of the mask where none is. -/
def Dev.upPorts (d : Dev) (mask : Nat) : List PortNo :=
  let ps := (setBits mask 8).map fun n => (BitVec.ofNat 3 n : PortNo)
  let us := ps.filter fun p => (d.port p).st == .up
  if us.isEmpty then ps else us

/-- The route to a member. -/
def Dev.routeTo (d : Dev) (m : MemberNo) : Route := Tbl.get Route.reset d.links.route m.toNat
/-- The port a packet to a member takes next: of a mask, or of the route entry for a zero mask, round-robin (R337). -/
def Dev.viaPort (d : Dev) (mask : Nat) (m : MemberNo) : Option PortNo :=
  let r := d.routeTo m
  let ps := d.upPorts (if mask = 0 then (if r.valid then r.ports.toNat else 0) else mask)
  ps[Tbl.get 0 d.links.rr m.toNat % ps.length]?
/-- A packet sent to its DEST over the ports of a mask, or of the route entry; one with no route is dropped, and a forwarded one's buffer
space is free (R331). -/
def Dev.sendFrom (d : Dev) (mask : Nat) (k : Pkt) (inPort : Option PortNo) : Dev :=
  match d.viaPort mask k.hdr.dest with
  | none => match inPort with
    | none => d
    | some i => d.setPort i ((d.port i).freeFlits (pktVc k.typ.toNat) (pktFlits k))
  | some p => { d with links := { d.links with rr := Tbl.mod 0 d.links.rr k.hdr.dest.toNat (· + 1) } }.portSend p k inPort
def Dev.sendVia (d : Dev) (mask : Nat) (k : Pkt) : Dev := d.sendFrom mask k none

/-- A packet sent by the route table. -/
def Dev.send (d : Dev) (k : Pkt) : Dev := d.sendVia 0 k

/-- Next extended XID of this source for (partition, destination) (R457). -/
def Dev.nextXid (d : Dev) (p : PartNo) (m : MemberNo) : Nat × Dev :=
  let key := p.toNat * 64 + m.toNat
  (Tbl.get 0 d.links.xid key, { d with links := { d.links with xid := Tbl.mod 0 d.links.xid key (· + 1) } })

/-- A link transfer whose command ends early: ABORT goes to the destination and the transfer closes (R342, R354). -/
def Dev.linkGone (d : Dev) (t : Tag) : Dev :=
  match d.links.src.find? (·.t == t) with
  | none => d
  | some x =>
    let d := { d with links := { d.links with src := d.links.src.filter (·.t != t) } }
    d.send (d.mkPkt 0x05 (d.tagE t).desc.part x.member (x.wraps * 65536 + x.xid.toNat) 0 [])

end Sys2Proof.Machine
end

