-- ==== Sys2Proof/Machine/Approx.lean ====
section
/-! DEFINITION. The vector engine's functions of limited accuracy (R70). Each is found to many more digits than FP32 holds,
as a fixed-point number of `apBits` fraction bits; the value the device gives is then any FP32 number within the stated
bound of it, chosen by `Config.ulpChoice` (log entry 20). Where the manual states no result, `Config.openValue`. -/

namespace Sys2Proof

/-- Fraction bits of the fixed-point numbers below. -/
def apBits : Nat := 320
/-- One in fixed point. -/
def apOne : Int := (2 ^ 320 : Nat)

/-- Fixed-point product. -/
def apMul (x y : Int) : Int := (x * y) / apOne
/-- Fixed-point quotient. -/
def apDiv (x y : Int) : Int := (x * apOne) / y

/-- Σ z^(2i+1)/(2i+1): the inverse hyperbolic tangent, by fuel. -/
def apAtanhGo : Nat → Nat → Int → Int → Int → Int
  | 0, _, _, _, s => s
  | n + 1, i, p, z2, s => apAtanhGo n (i + 1) (apMul p z2) z2 (s + p / (2 * i + 1 : Nat))

/-- Inverse hyperbolic tangent for |z| ≤ 1/3. -/
def apAtanh (z : Int) : Int := apAtanhGo 110 0 z (apMul z z) 0

/-- ln 2 = 2 atanh(1/3). -/
def apLn2 : Int := 2 * apAtanh (apOne / 3)

/-- Σ x^i/i!, by fuel. -/
def apExpGo : Nat → Nat → Int → Int → Int → Int
  | 0, _, _, _, s => s
  | n + 1, i, p, x, s => apExpGo n (i + 1) (apMul p x / (i : Nat)) x (s + p)

/-- e^x for 0 ≤ x < 1. -/
def apExpSmall (x : Int) : Int := apExpGo 80 1 apOne x 0

/-- A finite value in fixed point (rounded down in magnitude). -/
def apOf (neg : Bool) (mag : Nat) (e : Int) : Int :=
  let x := e + apBits
  let m : Nat := if 0 ≤ x then mag * 2 ^ x.toNat else mag / 2 ^ (-x).toNat
  if neg then - (m : Int) else m

/-- e^x as a fixed-point number in [1, 2) and a power of two, for a fixed-point x. -/
def apExp (x : Int) : Int × Int :=
  let k := x / apLn2
  (apExpSmall (x - k * apLn2), k)

/-- 2^x likewise. -/
def apExp2 (x : Int) : Int × Int :=
  let k := x / apOne
  (apExpSmall (apMul (x - k * apOne) apLn2), k)

/-- ln of mag × 2^e, mag positive. -/
def apLog (mag : Nat) (e : Int) : Int :=
  let l : Int := bitLen mag
  let m := apOf false mag (1 - l)
  (e + l - 1) * apLn2 + 2 * apAtanh (apDiv (m - apOne) (m + apOne))

/-- Integer square root, bit by bit. -/
def isqrtGo : Nat → Nat → Nat → Nat
  | 0, r, _ => r
  | n + 1, r, x =>
    let c := r + 2 ^ n
    isqrtGo n (if c * c ≤ x then c else r) x

/-- Integer square root of a number below 2^(2·400). -/
def isqrt (x : Nat) : Nat := isqrtGo 400 0 x

/-- An approximated result: a non-negative fraction num ÷ den × 2^e with a sign. -/
structure Approx where
  neg : Bool
  num : Nat
  den : Nat
  e : Int
deriving DecidableEq, Repr

/-- An approximation of a fixed-point number times 2^k. -/
def apResult (v k : Int) : Approx := ⟨decide (v < 0), v.natAbs, 1, k - apBits⟩

/-- The FP32 number within `bound` units in the last place of `a` that `choice` selects; where the selection falls outside
the bound, the nearest. -/
def ulpPick (bound choice : Nat) (a : Approx) : W32 :=
  if a.num = 0 then BitVec.ofNat 32 (b2n a.neg * 2 ^ 31)
  else
    let x := ulpExp 24 (-149) a.num a.den a.e
    let pr := scalePair a.num a.den (a.e - x)
    let n := pr.1 / pr.2 + choice % (2 * bound + 2)
    if n < bound ∨ 2 ^ 24 < n - bound then ratF32 a.neg a.num a.den a.e
    else
      let c := n - bound
      let dist := if c * pr.2 ≤ pr.1 then pr.1 - c * pr.2 else c * pr.2 - pr.1
      if dist ≤ bound * pr.2 then packF32 a.neg c x else ratF32 a.neg a.num a.den a.e

/-- √(2/π) and 0.044715 in fixed point. -/
def apGelu0 : Int := (7978845608028653558798921198687637369517172623298693153318516593 * apOne) / (10 ^ 64 : Nat)
def apGelu1 : Int := 44715 * apOne / 1000000

/-- tanh of a fixed-point number: (e^2y − 1) ÷ (e^2y + 1), saturated beyond |y| = 128. -/
def apTanh (y : Int) : Int :=
  let ay : Int := y.natAbs
  if 128 * apOne < ay then (if y < 0 then - apOne else apOne)
  else
    let p := apExp (2 * ay)
    let t := p.1 * ((2 ^ p.2.toNat : Nat) : Int)
    let v := apDiv (t - apOne) (t + apOne)
    if y < 0 then - v else v

/-- 1 ÷ (1 + e^−y). -/
def apSigmoid (y : Int) : Approx :=
  let ay : Int := y.natAbs
  let z := if 256 * apOne < ay then (256 * apOne) else ay
  let p := apExp z
  let t := p.1 * ((2 ^ p.2.toNat : Nat) : Int)
  if y < 0 then ⟨false, apOne.natAbs, (apOne + t).natAbs, 0⟩ else ⟨false, t.natAbs, (apOne + t).natAbs, 0⟩

/-- OP codes of R176 that name functions of limited accuracy. -/
inductive FnOp where
  | rcp | rsqrt | sqrt | exp | exp2 | log | log2 | sigmoid | silu | gelu | tanh
deriving DecidableEq, Repr

/-- The number that tells `Config.ulpChoice` and `Config.openValue` which function is meant: its OP code. -/
def FnOp.code : FnOp → Nat
  | .rcp => 0x13 | .rsqrt => 0x14 | .sqrt => 0x15 | .exp => 0x16 | .exp2 => 0x17 | .log => 0x18 | .log2 => 0x19
  | .sigmoid => 0x1A | .silu => 0x1B | .gelu => 0x1C | .tanh => 0x1D

/-- Accuracy bound in units in the last place (R70). -/
def FnOp.bound : FnOp → Nat
  | .sigmoid | .silu | .gelu | .tanh => 4
  | _ => 2

/-- exp and exp2 of a magnitude beyond every FP32 number: overflow to infinity, underflow to zero. -/
def expLimit (neg : Bool) : W32 := if neg then 0 else 0x7F800000

/-- Value at infinity where the function has a limit there; none where the manual states no result. -/
def FnOp.atInf (op : FnOp) (neg : Bool) : Option W32 :=
  match op, neg with
  | .rcp, n => some (if n then 0x80000000 else 0)
  | .rsqrt, false => some 0
  | .sqrt, false => some 0x7F800000
  | .exp, n => some (expLimit n)
  | .exp2, n => some (expLimit n)
  | .log, false => some 0x7F800000
  | .log2, false => some 0x7F800000
  | .sigmoid, n => some (if n then 0 else oneF32)
  | .tanh, n => some (if n then 0xBF800000 else oneF32)
  | _, _ => none

/-- The approximation at a finite operand; none where the manual states no result (log entry 20). -/
def FnOp.approx (op : FnOp) (neg : Bool) (m : Nat) (e : Int) : Option (Approx ⊕ W32) :=
  let x := apOf neg m e
  let huge := decide ((512 : Nat) * apOne < x.natAbs)
  match op with
  | .rcp => if m = 0 then none else some (.inl ⟨neg, 1, m, -e⟩)
  | .rsqrt =>
    if m = 0 ∨ neg then none
    else
      let f := (e + 600) % 2
      let r := isqrt (m * 2 ^ (f.toNat + 600))
      some (.inl ⟨false, 1, r, 300 - (e - f) / 2⟩)
  | .sqrt =>
    if m = 0 then some (.inr (BitVec.ofNat 32 (b2n neg * 2 ^ 31)))
    else if neg then none
    else
      let f := (e + 600) % 2
      let r := isqrt (m * 2 ^ (f.toNat + 600))
      some (.inl ⟨false, r, 1, (e - f) / 2 - 300⟩)
  | .exp => if huge then some (.inr (expLimit neg)) else some (.inl (let p := apExp x; apResult p.1 p.2))
  | .exp2 => if huge then some (.inr (expLimit neg)) else some (.inl (let p := apExp2 x; apResult p.1 p.2))
  | .log => if m = 0 ∨ neg then none else some (.inl (apResult (apLog m e) 0))
  | .log2 => if m = 0 ∨ neg then none else some (.inl (apResult (apDiv (apLog m e) apLn2) 0))
  | .sigmoid => some (.inl (apSigmoid x))
  | .silu =>
    let a := apSigmoid x
    some (.inl ⟨neg, a.num * m, a.den, a.e + e⟩)
  | .gelu =>
    let x3 := apMul (apMul x x) x
    let t := apOne + apTanh (apMul apGelu0 (x + apMul apGelu1 x3))
    if huge then some (.inr (if neg then 0x80000000 else ratF32 false m 1 e))
    else some (.inl ⟨neg, t.natAbs * m, 2, e - apBits⟩)
  | .tanh =>
    if m = 0 then some (.inr (BitVec.ofNat 32 (b2n neg * 2 ^ 31)))
    else some (.inl (apResult (apTanh x) 0))

/-- The value core `c`'s vector engine gives for a function of R70. -/
def fnValue (c : Nat) (op : FnOp) (x : W32) : W32 :=
  match Fp.ofF32 x with
  | .nan => Config.openValue op.code x
  | .inf n => (op.atInf n).getD (Config.openValue op.code x)
  | .fin n m e =>
    match op.approx n m e with
    | none => Config.openValue op.code x
    | some (.inr w) => w
    | some (.inl a) => ulpPick op.bound (Config.ulpChoice c op.code x) a

end Sys2Proof
end

