-- ==== Sys2Proof/Machine/Streams.lean ====
section
/-! DEFINITION. The streams of the vector engine: elements, operations, rows of results, and a whole stream-mode VECOP (spec/07 R168,
R170, R176, R177; spec/03 R65 to R70). -/

namespace Sys2Proof.Machine

/-! Streams (R168). -/

/-- One element of a stream converted to FP32 (R70). -/
def strmAt (d : Dev) (w : Nat) (t : Option Ty) (off : Nat) : W32 :=
  codeToF32 (tyOr t) (leNat (d.memRead w off (tyW t)).1)
def vXAt (d : Dev) (x : Desc) (r c : Nat) : W32 :=
  strmAt d (x.w 1) (vXType x) (r * vXRstr x + c * tyW (vXType x) * vXEstr x)
def vYAt (d : Dev) (x : Desc) (r c : Nat) : W32 :=
  strmAt d (x.w 2) (vYType x) (r * vYRstr x + c * tyW (vYType x) * vYEstr x)

/-! Operations (R176, R177). -/

/-- The function of R70 an OP names. -/
def vFn (op : Nat) : Option FnOp :=
  [FnOp.rcp, .rsqrt, .sqrt, .exp, .exp2, .log, .log2, .sigmoid, .silu, .gelu, .tanh][op - 0x13]?

/-- An element-wise result. -/
def vElem (c : CoreNo) (op : Nat) (imm x y : W32) : W32 :=
  if op = 0x01 then f32Add x y
  else if op = 0x02 then f32Sub x y
  else if op = 0x03 then f32Mul x y
  else if op = 0x04 then f32Min x y
  else if op = 0x05 then f32Max x y
  else if op = 0x06 then (if f32Gt x y then oneF32 else 0)
  else if op = 0x07 then f32Fma x y imm
  else if op = 0x11 then f32Neg x
  else if op = 0x12 then f32Abs x
  else if op = 0x1E then f32Mul (fnValue c.toNat .silu x) y
  else if 0x13 ≤ op ∧ op ≤ 0x1D then
    match vFn op with
    | some f => fnValue c.toNat f x
    | none => x
  else x

/-- Rotary pairs of a row (R177). -/
def ropeRow : List W32 → List W32 → List W32
  | x0 :: x1 :: xs, y0 :: y1 :: ys =>
    let p := f32Mul x1 y1
    let q := f32Mul x1 y0
    f32Fma x0 y0 (f32Neg p) :: f32Fma x0 y1 q :: ropeRow xs ys
  | _, _ => []

/-- Lane `l`'s running value over the groups of a row. -/
def laneFold (f : W32 → W32 → W32) (z : W32) (xs : List W32) (l : Nat) : W32 :=
  (List.range (ceilDiv xs.length 64)).foldl (fun a g => match xs[64 * g + l]? with
    | some v => f a v
    | none => a) z

/-- Pairs combined, lane 2i with lane 2i + 1. -/
def pairUp (f : W32 → W32 → W32) : List W32 → List W32
  | a :: b :: r => f a b :: pairUp f r
  | r => r

/-- Six levels of pairs over the 64 lanes (R177). -/
def laneTree (f : W32 → W32 → W32) (ls : List W32) : W32 :=
  (pairUp f (pairUp f (pairUp f (pairUp f (pairUp f (pairUp f ls)))))).headD 0

/-- A reduction of a row. -/
def reduceRow (op : Nat) (xs : List W32) : W32 :=
  if op = 0x30 then laneTree f32Add ((List.range 64).map (laneFold f32Add 0 xs))
  else if op = 0x31 then laneTree f32Add ((List.range 64).map (laneFold f32Add 0 (xs.map fun v => f32Mul v v)))
  else if op = 0x32 then laneTree f32Max ((List.range 64).map (laneFold f32Max 0xFF800000 xs))
  else laneTree f32Max ((List.range 64).map (laneFold f32Max 0 (xs.map f32Abs)))

/-- A row's converted results: codes, saturations, numeric faults. -/
structure RowOut where
  codes : List Nat
  sat : Nat
  flt : Nat
  scale : W32
deriving DecidableEq, Repr

/-- Conversions gathered. -/
def gather (cs : List Conv) : RowOut := ⟨cs.map (·.code), (cs.map (·.sat)).foldl (· + ·) 0, (cs.map (·.flt)).foldl (· + ·) 0, 0⟩

/-- A row of operand values turned into D codes (R66, R68, R176). -/
def vRow (x : Desc) (xs ys : List W32) : RowOut :=
  let op := vOp x
  if op = 0x21 then
    let q := quantRow xs
    ⟨q.codes, q.sat, q.flt, q.scale⟩
  else if op = 0x22 then gather (xs.map (quantCode (staticK (vImm x))))
  else
    let vs := if vIsRed op then [reduceRow op xs] else if op = 0x20 then ropeRow xs ys
      else List.zipWith (vElem x.core op (vImm x)) xs ys
    gather (vs.map (f32To (tyOr (vDType x))))

/-- A row of results stored at column `c0` of D. -/
def Dev.vStore (d : Dev) (x : Desc) (r c0 : Nat) (o : RowOut) : Dev :=
  let d := d.memWrite (x.w 3) (r * vDRstr x + c0 * tyW (vDType x)) (o.codes.flatMap (natLe (tyW (vDType x))))
  if vOp x = 0x21 then d.memWrite (x.w 2) (r * vYRstr x) (natLe 4 o.scale.toNat) else d

/-! Stream mode (R170). -/

/-- Result of row `r` of a stream-mode VECOP. -/
def vStreamRow (d : Dev) (x : Desc) (r : Nat) : RowOut :=
  let cs := List.range (vCols x)
  let xs := cs.map (vXAt d x r)
  vRow x xs (if vReadsY (vOp x) then cs.map (vYAt d x r) else xs)

/-- Unwritten lines the read streams meet (R86). -/
def Dev.vZeros (d : Dev) (x : Desc) : Nat :=
  (if vUsesX x then d.unwritten x.core (spOff (x.w 1)) (vX x).span else 0) +
  (if vUsesY x && vOp x != 0x21 then d.unwritten x.core (spOff (x.w 2)) (vY x).span else 0)

/-- An engine's reads of `n` unwritten lines counted in CORE_CNT_ZREAD; how often it reads a line is open (R86, R121, R168, log entry 2). -/
def Dev.zreads (d : Dev) (c : CoreNo) (n : Nat) : Dev := if n = 0 then d else d.freeNat.2.addCnt (coreReg c 0x18) d.freeNat.1

/-- The whole of a stream-mode VECOP: every row read, converted and stored, and the counters. -/
def vStream (x : Desc) (d : Dev) : Dev :=
  let outs := (List.range (vRows x)).map (vStreamRow d x)
  let d := d.zreads x.core (d.vZeros x)
  let d := (List.range (vRows x)).foldl (fun d r => d.vStore x r 0 (outs.getD r ⟨[], 0, 0, 0⟩)) d
  let d := d.veGroups x.core (vRows x * ceilDiv (vCols x) 64 * (if vOp x = 0x21 then 2 else 1))
  (d.bankStall x.core).veTally x.core ((outs.map (·.sat)).foldl (· + ·) 0) ((outs.map (·.flt)).foldl (· + ·) 0)

end Sys2Proof.Machine
end

