-- ==== Sys2Proof/Machine/Stops.lean ====
section
/-! DEFINITION. What a running command that ends early has done by then: the rows of a MOVE (spec/04 R110, R112), the groups of a VECOP
(spec/07 R180), the granules of a DECANT or LAY_DOWN (spec/08 R208). How far an engine came is a matter of timing: a free number (log entries 2 and 5). -/

namespace Sys2Proof.Machine

/-- One row of a MOVE. -/
def moveRow (x : Desc) (d : Dev) (r : Nat) : Dev :=
  let n := mvBytes x
  if mvZero x then d.memWrite (x.w 2) (r * mvDstStride x) (List.replicate n 0)
  else
    let p := d.memRead (x.w 1) (r * mvSrcStride x) n
    p.2.memWrite (x.w 2) (r * mvDstStride x) p.1

/-- The rows in ascending order (R110). -/
def moveRows (x : Desc) (d : Dev) : Dev := (List.range (mvRows x)).foldl (moveRow x) d

/-- Row `r` of a MOVE can be made now: no source granule is damaged or missing, no destination granule is on the move (R204, R209, R212). -/
def Dev.rowOpen (d : Dev) (x : Desc) (r : Nat) : Bool :=
  (mvZero x || (areaGrans (x.w 1 + r * mvSrcStride x) (mvBytes x)).all fun m => !(d.gran m.1 m.2).damaged && !d.granMiss m.1 m.2) &&
  (areaGrans (x.w 2 + r * mvDstStride x) (mvBytes x)).all fun m => !d.moving m.1 m.2
/-- The leading rows that can be made now. -/
def Dev.openRows (d : Dev) (x : Desc) : Nat := ((List.range (mvRows x)).takeWhile (d.rowOpen x)).length
/-- The first `n` rows of a MOVE written in full, the rest of its destination undefined (R112). -/
def Dev.cutMove (d : Dev) (x : Desc) (n : Nat) : Dev :=
  let rs := List.range n
  let d := if mvZero x then d else
    (rs.flatMap fun r => areaGrans (x.w 1 + r * mvSrcStride x) (mvBytes x)).foldl (fun d m => d.useGran m.1 m.2) d
  let d := rs.foldl (moveRow x) d
  ((List.range (mvRows x)).drop n).foldl (fun d r => d.memFree (x.w 2) (r * mvDstStride x) (mvBytes x)) d
/-- A MOVE stopped: the rows it had written, a free number of those it could have written. -/
def Dev.stopMove (d : Dev) (x : Desc) : Nat × Dev :=
  let p := d.freeNat
  let n := p.1 % (d.openRows x + 1)
  (n, (p.2.cutMove x n).bankStall x.core)

/-- What a MOVE reads and writes, row by row: the bytes between its rows take no part (R110). -/
def mvReads (x : Desc) : List (Nat × Nat) :=
  if mvZero x then [] else (List.range (mvRows x)).map fun r => (x.w 1 + r * mvSrcStride x, mvBytes x)
def mvWrites (x : Desc) : List (Nat × Nat) := (List.range (mvRows x)).map fun r => (x.w 2 + r * mvDstStride x, mvBytes x)

/-- Groups a row of a stream takes: QROW passes over it twice (R181). -/
def vPerRow (x : Desc) : Nat := ceilDiv (vCols x) 64 * (if vOp x = 0x21 then 2 else 1)
/-- The first `j` groups of row `r`, fewer than all: element-wise results are stored; QROW stores codes in its second pass, and no scale; a
reduction stores nothing. -/
def Dev.cutRow (d : Dev) (x : Desc) (r j : Nat) : Dev :=
  let op := vOp x
  if vIsRed op then d
  else if op = 0x21 then
    let g := ceilDiv (vCols x) 64
    if j ≤ g then d
    else
      let o := vStreamRow d x r
      (d.memWrite (x.w 3) (r * vDRstr x) ((o.codes.take (64 * (j - g))).flatMap (natLe (tyW (vDType x))))).veTally x.core 0 o.flt
  else
    let cs := (List.range (vCols x)).take (64 * j)
    let xs := cs.map (vXAt d x r)
    let o := vRow x xs (if vReadsY op then cs.map (vYAt d x r) else xs)
    (d.vStore x r 0 o).veTally x.core o.sat o.flt
/-- The first `k` groups of a stream-mode VECOP, their results written, and nothing else (R180). -/
def Dev.cutStream (d : Dev) (x : Desc) (k : Nat) : Dev :=
  let n := k / vPerRow x
  let outs := (List.range n).map (vStreamRow d x)
  let d := (List.range n).foldl (fun d r => d.vStore x r 0 (outs.getD r ⟨[], 0, 0, 0⟩)) d
  let d := if n < vRows x then d.cutRow x n (k % vPerRow x) else d
  ((d.veGroups x.core k).bankStall x.core).veTally x.core ((outs.map (·.sat)).foldl (· + ·) 0) ((outs.map (·.flt)).foldl (· + ·) 0)
/-- A stream-mode VECOP stopped after a free number of its groups. -/
def Dev.stopStream (d : Dev) (x : Desc) : Dev :=
  if vTq x then d
  else
    let p := d.freeNat
    p.2.cutStream x (p.1 % (vRows x * vPerRow x + 1))

/-- Progress of a tier command; none before its start. -/
def Dev.tierRun (d : Dev) (t : Tag) : Option TierRun := lookupKey t.toNat d.tier.run
/-- A move a command waits for. -/
def Mv.waitedBy (m : Mv) (t : Tag) : Bool := m.why == .cmd t || m.pinners.contains t || m.joined.contains t
/-- A command still waits for moves. -/
def Dev.movesOf (d : Dev) (t : Tag) : Bool := d.tier.moves.any (·.waitedBy t)
/-- Granules a range command has moved: those it has dealt with, less those still on the move (R208). -/
def Dev.movedBy (d : Dev) (t : Tag) : Nat :=
  ((d.tierRun t).getD TierRun.reset).count - (d.tier.moves.filter (·.waitedBy t)).length

/-- A running command stops with its destination undefined; a MOVE has written its first rows, whose number is the answer, and a VECOP the results
of the groups it had issued and nothing else, whatever ends it (R102, R106, R112, R180; DEDUCED, log entry 101: R180 says it of ABORTED and
UNCORRECTABLE without exception). -/
def Dev.stop (d : Dev) (t : Tag) (x : Desc) : Nat × Dev :=
  if x.op = 0x20 then d.stopMove x else if x.op = 0x11 then (0, d.stopStream x) else (0, d.spoil t x)

end Sys2Proof.Machine
end

