-- ==== Sys2Proof/Machine/Sequencer.lean ====
section
/-! DEFINITION. The core sequencer and the command distributor: acceptance, waits and fences, start, failure, records, and the
commands NOP, BARRIER and CANCEL (spec/04 R90 to R109; spec/17 R483). -/

namespace Sys2Proof.Machine

/-! Acceptance (R95 steps 1 to 5). -/

/-- A partition whose commands are taken: LIVE, or DRAINING with a step in flight (R440, R449). -/
def Part.serves (p : Part) : Bool := p.st == .live || p.st == .draining

/-- Steps 1 to 5 for a descriptor of an issuer whose partition is `p`; the issuer's own tag range applies (R92). -/
def Dev.acceptCheck (d : Dev) (x : Desc) (host : Bool) (p : PartNo) : Option (Byte × BitVec 16) :=
  let k := d.core x.core
  let r := d.tagRange x.part
  let t := x.tag.toNat
  if !opKnown x.op then some (stNOTSUP, 0x0001)
  else if !((opFeature x.op).all d.grants) || (host && !d.feature 1) then some (stNOTSUP, 0x0002)
  else if x.part ≠ p || !(d.part x.part).serves then some (stRIGHTS, 0x0003)
  else if opChip x.op && decide (x.core ≠ 0) then some (stRIGHTS, 0x000E)
  else if !opChip x.op && !k.inService then some (stRIGHTS, 0x0006)
  else if !opChip x.op && !(k.assigned && k.part == x.part) then some (stRIGHTS, 0x0003)
  else if host && !(decide (t < d.hostWindow) && decide (fld r 27 16 ≤ t) && decide (t < fld r 27 16 + fld r 12 0)) then some (stRIGHTS, 0x0004)
  else if !host && decide (t < d.hostWindow) then some (stRIGHTS, 0x0004)
  else if (d.tagE x.tag).inFlight then some (stRIGHTS, 0x0005)
  else none

/-- A wait judged at acceptance (R98). -/
def Dev.waitAt (d : Dev) (en : Bool) (u : Tag) : Wait :=
  if !en then .none
  else
    let e := d.tagE u
    if e.live then .on u else if stSuccess e.status then .none else .got u false

/-- The objects a command's address words name (R196). -/
def namedObjs (x : Desc) : List ObjNo :=
  (((opSpec x).areas.filter fun a => !isSp a.addr).map fun a => urObj a.addr).eraseDups

/-- Covered by Safe Hold (R106, R483). -/
def Dev.covered (d : Dev) (x : Desc) : Bool :=
  d.pwr.devHold || d.pwr.partHold.getLsbD x.part.toNat || (x.op == 0x30 && (d.seq (atSeq x)).st == .safeHold)

/-- Ready when nothing holds it. -/
def TagE.ripen (e : TagE) : TagE :=
  if e.st = .waiting ∧ e.wait0 = .none ∧ e.wait1 = .none ∧ e.fence = none then { e with st := .ready } else e

/-- A descriptor that passed steps 1 to 5 takes its tag's entry: epoch and order are stamped, waits and fence judged, references
taken on the objects it names, and their AGE set (R95, R98, R99, R196, R202). -/
def Dev.enter (d : Dev) (x : Desc) (iss : Issuer) : Dev :=
  let t := x.tag
  let refs := (namedObjs x).filter fun o => decide ((d.obj o).st ≠ .free ∧ (d.obj o).st ≠ .dying)
  let held := d.liveOf (unitOf x)
  let e : TagE :=
    { TagE.reset with
      st := .waiting, status := (d.tagE t).status, desc := x, iss := iss, epoch := (d.part x.part).epoch,
      order := d.cores.order, wait0 := d.waitAt (bitN (x.w 0) 38) (BitVec.ofNat 12 (x.f 0 51 40)),
      wait1 := d.waitAt (bitN (x.w 0) 39) (BitVec.ofNat 12 (x.f 0 63 52)),
      fence := if x.fence && !held.isEmpty then some held else none, refs := refs,
      dead := (namedObjs x).filter fun o => decide ((d.obj o).st = .dying) }
  let d := ((namedObjs x).filter fun o => decide ((d.obj o).st ≠ .free)).foldl (fun d o => d.setObj o { d.obj o with age := d.hif.devTime }) d
  let d := refs.foldl (fun d o => d.setObj o { d.obj o with refs := (d.obj o).refs + 1 }) d
  let d := { d with cores := { d.cores with order := d.cores.order + 1 } }
  d.setTag t e.ripen

/-- An accepted command takes the device from IDLE to ACTIVE (spec/17 R470). -/
def Dev.rouse (d : Dev) : Dev := if d.pwr.st = .idle then { d with pwr := { d.pwr with st := .active } } else d
/-- Acceptance: the entry, or the failing check. A command of a held scope is accepted and completes ABORTED (R483). -/
def Dev.accept (d : Dev) (x : Desc) (iss : Issuer) (host : Bool) (p : PartNo) : Dev × Option (Byte × BitVec 16) :=
  match d.acceptCheck x host p with
  | some f => (d, some f)
  | none =>
    let d' := (d.enter x iss).rouse
    (if d.covered x then d'.complete x.tag stABORTED 0x0009 0 else d', none)

/-- The CMD entry at a queue's head is taken: accepted, or rejected with its record due at once (R95, R377). -/
def State.takeCmd (s : State) (q : QueueNo) (x : Desc) : State :=
  let r := s.dev.accept x (.queue q) true (s.dev.queue q).part
  let d := r.1.sqPass q
  { s with dev := match r.2 with
    | none => d
    | some f => (d.countDone x f.1).owe q ⟨recordBytes s.dev x f.1 0 f.2 0 (s.dev.hif.devTime.truncate 32), x.irq⟩ }

/-- Entries taken in queue order until the tail, a core that holds 128 accepted commands (R377), or `fuel` runs out. -/
def State.pumpCmd : Nat → State → QueueNo → State
  | 0, s, _ => s
  | fuel + 1, s, q =>
    let k := s.dev.queue q
    if k.fetches && k.kind == 0 then
      let x := Desc.ofBytes (s.sqEntryAt q k.sqHead)
      if !opChip x.op && opKnown x.op && decide (128 ≤ s.dev.accepted x.core) then s else State.pumpCmd fuel (s.takeCmd q x) q
    else s

/-- Every CMD queue taken from again, in ascending number. -/
def State.pumpAll (s : State) : State :=
  (List.range 64).foldl (fun s q => State.pumpCmd 4096 s (BitVec.ofNat 6 q)) s

/-! Units (R97, R131, R156, R182, R264): 0 to 3 MXE, 4 VE, 5 WX, 6 DM0, 7 DM1, 8 sampler, 9 tile-queue producer. -/

/-- The units a core command occupies; a MOVE that leaves the choice open occupies both movers until it starts. -/
def TagE.units (e : TagE) : List Nat :=
  let x := e.desc
  if x.op = 0x10 then mmEngines x ++ (if mmWx x then [5] else []) ++ (if mmOut x then [] else [9])
  else if x.op = 0x11 then [4]
  else if x.op = 0x12 then [4, 8]
  else if x.op = 0x13 then [5, 7]
  else if x.op = 0x20 then
    if mvMover x = 1 then [6] else if mvMover x = 2 then [7]
    else if e.st = .running then [if e.dm1 then 7 else 6] else [6, 7]
  else if x.op = 0x30 then [0, 1, 2, 3, 4, 6, 7, 9]
  else []

/-- A command accepted earlier on the same core, and not completed, occupies unit `u`. -/
def Dev.unitTaken (d : Dev) (e : TagE) (u : Nat) : Bool :=
  d.cores.tag.any fun x => x.2.live && !opChip x.2.desc.op && x.2.desc.core == e.desc.core && decide (x.2.order < e.order) &&
    x.2.units.contains u

/-- Commands of a chip unit now running. -/
def Dev.runningOf (d : Dev) (u : Nat) : Nat :=
  (d.cores.tag.filter fun x => decide (x.2.st = .running) && unitOf x.2.desc == u).length

/-- LINK_PUTs now running: each holds a transfer or is about to open one. -/
def Dev.putsRunning (d : Dev) : Nat := (d.cores.tag.filter fun x => decide (x.2.st = .running) && x.2.desc.op == 0x50).length
/-- First in order on every unit: the answer says whether DM1 takes it. A MOVE that leaves the choice open and finds both movers free takes
DM0 (DESIGN CHOICE, log entry 101). Chip units: at most 64 tier commands (R214), 256 open transfers (R341), one MASK. -/
def Dev.startOn (d : Dev) (e : TagE) : Option Bool :=
  let x := e.desc
  if opChip x.op then
    if x.op = 0x50 then (if d.putsRunning < 256 then some false else none)
    else if unitOf x = 64 then (if d.runningOf 64 < 64 then some false else none)
    else if x.op = 0x14 then (if d.runningOf 66 = 0 then some false else none)
    else some false
  else if e.units.contains 9 && !(d.core x.core).due.isEmpty then none
  else if x.op = 0x20 ∧ mvMover x ≠ 1 ∧ mvMover x ≠ 2 then
    (if !d.unitTaken e 6 then some false else if !d.unitTaken e 7 then some true else none)
  else if e.units.any (d.unitTaken e) then none
  else some (x.op == 0x20 && mvMover x == 2)

/-! Ends other than success. -/

/-- Another OBJ_DESTROY that has passed its checks on an object. -/
def Dev.otherDestroyer (d : Dev) (t : Tag) (o : Nat) : Option Tag :=
  (d.cores.tag.find? fun e => e.1 != t.toNat && e.2.live && e.2.checked && e.2.desc.op == 0x41 && (urObj (e.2.desc.w 1)).toNat == o &&
    e.2.refs.contains (BitVec.ofNat 16 o)).map fun e => BitVec.ofNat 12 e.1
/-- An OBJ_DESTROY that ends otherwise leaves the object it made DYING as it was, unless another has passed its checks on it (R196). -/
def Dev.revive (d : Dev) (t : Tag) : Dev :=
  let f (o : Nat) (b : Obj) : Obj :=
    if b.destroyer = some t ∧ b.st = .dying then
      match d.otherDestroyer t o with
      | some u => { b with destroyer := some u }
      | none => { b with st := b.was, destroyer := none }
    else b
  { d with tier := { d.tier with obj := Tbl.mapAll Obj.reset f d.tier.obj } }
/-- A block an abandoned seal of entry `n` had taken (R223): an ALLOCATED one becomes ERASE_PENDING. -/
def Blk.abandon (n : BitVec 12) (b : Blk) : Blk :=
  if b.entry = n ∧ b.committed = false then { b with entry := 0, st := if b.st = .allocated then .erasePending else b.st } else b
/-- The tier engine forgets a command that ends early: its moves stop where no one else joined them, its catalogue change is
dropped, an object it made DYING is as it was (R196, R208). -/
def Dev.tierGone (d : Dev) (t : Tag) : Dev :=
  let ms := d.tier.moves.map fun m => { m with pinners := m.pinners.filter (· ≠ t), joined := m.joined.filter (· ≠ t) }
  let ms := ms.filter fun m => decide (m.why ≠ .cmd t) || !m.pinners.isEmpty || !m.joined.isEmpty
  let ms := ms.map fun m => if m.why = .cmd t then { m with why := .fetch } else m
  let d := d.revive t
  { d with
    tier := { d.tier with moves := ms, run := Tbl.del t.toNat d.tier.run }
    cellar := { d.cellar with
      changes := d.cellar.changes.filter fun c => match c with
        | .seal u _ _ _ _ => decide (u ≠ t)
        | .delete _ => true
      blk := d.cellar.changes.foldl (fun bs c => match c with
        | .seal u _ n _ _ => if u = t then Tbl.mapAll Blk.reset (fun _ b => b.abandon n) bs else bs
        | .delete _ => bs) d.cellar.blk } }

/-- A SLOT_LOAD that ends without a commit leaves the state and version its slot held before (R149). -/
def Slot.unload (s : Slot) : Slot := if s.st = .loading then { s with st := if s.version = 0 then .empty else .ready } else s

/-- An arrival no longer counts; a barrier with no arrival left is free. R109 says it of Safe Hold; the watchdog and the retirement of its core are
taken the same way (DEDUCED, log entry 101). -/
def Dev.barLeave (d : Dev) (t : Tag) (n : Nat) : Dev :=
  let b := d.bar n
  let as := b.arrivals.filter (· ≠ t)
  if b.arrivals.contains t then d.setBar n (if as.isEmpty then Bar.reset else { b with arrivals := as }) else d

/-- What a running command holds in its unit is given up. -/
def Dev.letGo (d : Dev) (t : Tag) (x : Desc) : Dev :=
  if x.op = 0x02 then d.barLeave t (barId x)
  else if x.op = 0x10 then d.mxePart x.core (mmEngines x)
  else if x.op = 0x13 ∧ exFunc x = 1 then d.setSlot (exSlot x) (d.slot (exSlot x)).unload
  else if x.op = 0x50 then d.linkGone t
  else if 0x40 ≤ x.op ∧ x.op ≤ 0x4F then d.tierGone t
  else d

/-- An entry at the end of a core's tile queue (R172). -/
def Dev.pushTile (d : Dev) (c : CoreNo) (e : Tile) : Dev :=
  let k := d.core c
  d.setCore c { k with queue := k.queue ++ [e], hwm := max k.hwm (k.queue.length + 1) }

/-- The end marker of a failed stream (R130, R171). -/
def failMarker (prod drain : Tag) : Tile := ⟨[], [], prod, drain, 0, 0, false, true, false⟩

/-- A failed MATMUL closes its stream with an end marker, which waits for room in a full queue (R130). -/
def Dev.closeStream (d : Dev) (t : Tag) (x : Desc) : Dev :=
  if x.op = 0x10 ∧ mmOut x = false then
    let k := d.core x.core
    if k.queue.length < 16 then d.pushTile x.core (failMarker t (mmDrain x))
    else d.setCore x.core { k with producer := some t, due := [failMarker t (mmDrain x)] }
  else d

/-- A running command ends with a status other than success; a MATMUL's stream closes. -/
def Dev.fails (d : Dev) (t : Tag) (st : Byte) (detail : BitVec 16) (result : Nat) : Dev :=
  let x := (d.tagE t).desc
  ((d.letGo t x).complete t st detail result).closeStream t x

/-- RESULT of a command that ends UNCORRECTABLE, where its own rule gives one: `n` rows of a MOVE (R112), the granules moved of a DECANT or
LAY_DOWN (R208). -/
def Dev.badResult (d : Dev) (t : Tag) (x : Desc) (n result : Nat) : Nat :=
  if x.op = 0x20 then n else if x.op = 0x42 ∨ x.op = 0x43 then d.movedBy t else result
/-- A running command ends UNCORRECTABLE (R102, R105, R112, R130, R180). -/
def Dev.uncorrectable (d : Dev) (t : Tag) (detail : BitVec 16) (result : Nat) : Dev :=
  let x := (d.tagE t).desc
  let p := d.stop t x
  let n := d.badResult t x p.1 result
  let d := p.2
  let d := if x.op = 0x30 then d.setEvt (.attEvt x.core) 1 else d
  let d := if x.op = 0x13 ∧ exFunc x ≠ 0 then (d.letGo t x).writeReport x stUNCORR else d
  d.fails t stUNCORR detail n

/-- Entries of a producer leave a core's queue (R133). -/
def Dev.dropTiles (d : Dev) (c : CoreNo) (t : Tag) : Dev :=
  d.setCore c { d.core c with queue := (d.core c).queue.filter (·.prod ≠ t) }

/-- A live command ends ABORTED by Safe Hold or lease expiry: a running one stops, its destination undefined, and its tiles
not popped are discarded; a slot function that has passed its checks writes its report line (R104, R106, R133, R160). -/
def Dev.abort (d : Dev) (t : Tag) (detail : BitVec 16) (result : Nat) : Dev :=
  let e := d.tagE t
  if e.live then
    let p := if e.st = .running then d.stop t e.desc else (0, d)
    let d := if e.st = .running then p.2.letGo t e.desc else if e.desc.op = 0x41 then d.revive t else d
    let d := if e.desc.op = 0x10 then d.dropTiles e.desc.core t else d
    let d := if e.checked = true ∧ e.desc.op = 0x13 ∧ exFunc e.desc ≠ 0 then d.writeReport e.desc stABORTED else d
    d.complete t stABORTED detail (if e.st = .running ∧ e.desc.op = 0x20 then p.1 else result)
  else d

/-- Every live command that satisfies `p` aborted. -/
def Dev.abortWhere (d : Dev) (p : TagE → Bool) (detail : BitVec 16) : Dev :=
  (d.cores.tag.filter fun e => e.2.live && p e.2).foldl (fun d e => d.abort (BitVec.ofNat 12 e.1) detail 0) d

/-! Start (R95 steps 6 to 11, R105, R114). -/

/-- What a start does at once: the producer role is taken (R131), a slot enters LOADING or the load is refused as busy
(R149, R151). -/
def Dev.begin (d : Dev) (t : Tag) : Dev :=
  let x := (d.tagE t).desc
  if (x.op = 0x10 ∧ mmOut x = false) ∨ x.op = 0x30 then d.setCore x.core { d.core x.core with producer := some t }
  else if x.op = 0x13 ∧ exFunc x = 1 then
    let n := exSlot x
    let s := d.slot n
    if s.refs ≠ 0 ∨ s.st = .loading then
      ((d.writeReport x stBUSYSLOT).complete t stBUSYSLOT 0 s.refs).setEvt (.wxEvt x.core) 4
    else d.setSlot n { s with st := .loading }
  else d

/-- The start proper, after every check: RUNNING, with the retries its accesses need; an access that fails again after the last
retry ends the command (R105). -/
def Dev.launch (d : Dev) (t : Tag) (dm1 : Bool) (upsets : List Nat) : Dev :=
  let lim := d.retryLimit
  let fails := (upsets.map fun u => min u (lim + 1)).foldl (· + ·) 0
  let tries := (upsets.map fun u => min u lim).foldl (· + ·) 0
  let d := if fails = 0 then d else d.count (pwrReg 0x30) (0x7000 * 256 + 2) fails
  let e := d.tagE t
  let d := d.setTag t { e with st := .running, started := d.hif.devTime, dm1 := dm1, retries := BitVec.ofNat 8 (min 255 tries) }
  let d := d.begin t
  if upsets.any (fun u => decide (lim < u)) && (d.tagE t).st == .running then d.uncorrectable t 0x000D 0 else d

/-- Steps 6 to 11 passed: the entry is marked, and an OBJ_DESTROY makes its object DYING (R95, R196). -/
def Dev.pass (d : Dev) (t : Tag) : Dev :=
  let e := d.tagE t
  let d := d.setTag t { e with checked := true }
  if e.desc.op = 0x41 then
    let o := urObj (e.desc.w 1)
    let b := d.obj o
    if b.st = .dying then d else d.setObj o { b with st := .dying, was := b.st, destroyer := some t }
  else d

/-- Steps 6 to 11, which run once, as the command leaves WAITING, whether or not its unit is free (R95). -/
def Dev.judge (d : Dev) (t : Tag) : Dev :=
  let e := d.tagE t
  if e.checked then d
  else match firstBad (d.checksA e) with
    | some f => d.complete t f.1 f.2 0
    | none =>
      if hasZero e.desc (opSpec e.desc) then d.completeOk t 0
      else match firstBad (d.checksB e) with
        | some f => d.complete t f.1 f.2 0
        | none =>
          match firstBad (d.checksC e) with
          | some f =>
            (if e.desc.op = 0x13 ∧ exFunc e.desc ≠ 0 then d.writeReport e.desc f.1 else d).complete t f.1 f.2 0
          | none => d.pass t

/-- A READY command: its checks, if they have not run, and its start where it is first in order on its unit (R95, R97, R114). -/
def doCommandStart (t : Tag) (upsets : List Nat) (d : Dev) : Dev :=
  if (d.tagE t).st ≠ .ready then d
  else
    let d := d.judge t
    if (d.tagE t).st ≠ .ready then d
    else match d.startOn (d.tagE t) with
      | none => d
      | some dm1 => d.launch t dm1 upsets

def execCommandStart (t : Tag) (upsets : List Nat) (s : State) : Host.Outcome State Fault Refusal :=
  s.onDev (doCommandStart t upsets)

/-! Waits and fences (R98, R99). -/

/-- The waited tag that failed, if one has. -/
def Wait.failed : Wait → Option Tag
  | .got u false => some u
  | _ => Option.none
/-- Something to resolve. -/
def Wait.decided : Wait → Bool
  | .got _ _ => true
  | _ => false
/-- A wait that resolved with success is over. -/
def Wait.settle : Wait → Wait
  | .got _ true => .none
  | w => w

/-- Decided waits applied. Of two failed waits RESULT names WAIT0's tag (DESIGN CHOICE, log entry 101). -/
def doWaitResolve (t : Tag) (d : Dev) : Dev :=
  let e := d.tagE t
  if e.st = .waiting ∧ (e.wait0.decided || e.wait1.decided) then
    match e.wait0.failed, e.wait1.failed with
    | some u, _ => d.complete t stABORTED 0x0007 u.toNat
    | none, some u => d.complete t stABORTED 0x0007 u.toNat
    | none, none => d.setTag t ({ e with wait0 := e.wait0.settle, wait1 := e.wait1.settle }.ripen)
  else d

def execWaitResolve (t : Tag) (s : State) : Host.Outcome State Fault Refusal := s.onDev (doWaitResolve t)

def doFenceClear (t : Tag) (d : Dev) : Dev :=
  let e := d.tagE t
  if e.st = .waiting ∧ e.fence = some [] then d.setTag t ({ e with fence := none }.ripen) else d

def execFenceClear (t : Tag) (s : State) : Host.Outcome State Fault Refusal := s.onDev (doFenceClear t)

/-! Commands of the sequencer itself. -/

/-- Tag `t` runs a command of this opcode. -/
def Dev.runs (d : Dev) (t : Tag) (op : Nat) : Bool := (d.tagE t).st == .running && (d.tagE t).desc.op == op

def doNop (t : Tag) (d : Dev) : Dev := if d.runs t 0x01 then d.completeOk t 0 else d

def execNop (t : Tag) (s : State) : Host.Outcome State Fault Refusal := s.onDev (doNop t)

/-- Every arrival of a barrier completes with one status, and the barrier is free. -/
def Dev.barEnd (d : Dev) (n : Nat) (st : Byte) : Dev :=
  ((d.bar n).arrivals.foldl (fun d t => if st = stDONE then d.completeOk t 0 else d.complete t st 0 0) d).setBar n Bar.reset

/-- BARRIER arrives. A stranger's arrival is judged for its partition before its COUNT (DESIGN CHOICE, log entry 101). -/
def doBarrier (t : Tag) (d : Dev) : Dev :=
  let x := (d.tagE t).desc
  let n := barId x
  let b := d.bar n
  if !d.runs t 0x02 || b.arrivals.contains t then d
  else if b.isOpen && b.part != x.part then d.complete t stRIGHTS 0x0003 0
  else if b.isOpen && b.count != barCount x then d.complete t 0x80 0 0
  else
    let b' : Bar := if b.isOpen then { b with arrivals := b.arrivals ++ [t] }
      else ⟨true, x.part, barCount x, if barTimeout x = 0 then none else some (d.now + barTimeout x * 1000), [t]⟩
    let d := d.setBar n b'
    if b'.arrivals.length = b'.count then d.barEnd n stDONE else d

def execBarrier (t : Tag) (s : State) : Host.Outcome State Fault Refusal := s.onDev (doBarrier t)

def doBarrierTimeout (bar : BitVec 6) (d : Dev) : Dev :=
  let b := d.bar bar.toNat
  match b.limit with
  | none => d
  | some l => if b.isOpen && decide (l ≤ d.now) then d.barEnd bar.toNat 0x81 else d

def execBarrierTimeout (bar : BitVec 6) (s : State) : Host.Outcome State Fault Refusal := s.onDev (doBarrierTimeout bar)

def doCancel (t : Tag) (d : Dev) : Dev :=
  let x := (d.tagE t).desc
  let u := cancelTarget x
  let e := d.tagE u
  if !d.runs t 0x03 then d
  else if u ≠ t ∧ e.inFlight = true ∧ e.desc.part ≠ x.part then d.complete t stRIGHTS 0x0003 0
  else if u ≠ t ∧ (e.st = .waiting ∨ e.st = .ready) then (d.abort u 0x0008 t.toNat).completeOk t 1
  else d.completeOk t 0

def execCancel (t : Tag) (s : State) : Host.Outcome State Fault Refusal := s.onDev (doCancel t)

/-! Watchdog (R102). -/

/-- The watchdog. A command of a chip unit has no core, and no WDOG bit is set for it (DEDUCED, log entry 101). -/
def doWatchdogExpiry (t : Tag) (d : Dev) : Dev :=
  let e := d.tagE t
  if e.st = .running ∧ e.started.toNat + d.watchdogNs < d.now then
    let d := d.uncorrectable t 0x000C 0
    if opChip e.desc.op then d else d.setEvt (.coreEvt e.desc.core) 4
  else d

def execWatchdogExpiry (t : Tag) (s : State) : Host.Outcome State Fault Refusal := s.onDev (doWatchdogExpiry t)

end Sys2Proof.Machine
end

