-- ==== Sys2Proof/Machine/Expander.lean ====
section
/-! DEFINITION. The weight expander: blocks presented to a MATMUL or written by an EXPAND, and the slot functions (spec/06 R140 to
R160; spec/05 R127; spec/03 R79). -/

namespace Sys2Proof.Machine

/-! The fields a MATMUL with A_SRC 1 and an EXPAND share (R127, R157). -/

def wxN (x : Desc) : Nat := if x.op = 0x10 then mmN x else exN x
def wxK (x : Desc) : Nat := if x.op = 0x10 then mmK x else exK x
def wxType (x : Desc) : Option Ty := if x.op = 0x10 then mmAType x else exType x
def wxAddr (x : Desc) : Nat := if x.op = 0x10 then x.w 2 else x.w 1
def wxRb0 (x : Desc) : Nat := if x.op = 0x10 then mmRb0 x else exRb0 x
def wxCb0 (x : Desc) : Nat := if x.op = 0x10 then mmCb0 x else exCb0 x
/-- Column blocks of a row block, and blocks in all. -/
def wxCols (x : Desc) : Nat := ceilDiv (wxK x) 256
def wxTotal (x : Desc) : Nat := ceilDiv (wxN x) 128 * wxCols x

/-- The running command reads weight blocks. -/
def Dev.readsBlocks (d : Dev) (t : Tag) : Bool :=
  (d.runs t 0x10 && mmWx (d.tagE t).desc) || (d.runs t 0x13 && exFunc (d.tagE t).desc == 0)

def Dev.wx (d : Dev) (t : Tag) : WxRun := Tbl.get WxRun.reset d.cores.wx t.toNat
def Dev.setWx (d : Dev) (t : Tag) (r : WxRun) : Dev :=
  { d with cores := { d.cores with wx := Tbl.set WxRun.reset d.cores.wx t.toNat r } }

/-- Block number `i` of the sequence carries what the command expects of it (R127). -/
def seqOk (x : Desc) (i : Nat) (h : BlkHdr) : Bool :=
  let r := i / wxCols x
  let c := i % wxCols x
  h.rowBlk == wxRb0 x + r && h.colBlk == wxCb0 x + c && h.etype == wxType x &&
  h.rows == min 128 (wxN x - 128 * r) && h.cols == min 256 (wxK x - 256 * c)

/-- A block broke R127: the command stops at it (R130, R159). -/
def Dev.blockMismatch (d : Dev) (t : Tag) (i : Nat) : Dev :=
  let x := (d.tagE t).desc
  let d := (d.spoil t x).fails t 0x80 0 i
  if x.op = 0x10 then d.setEvt (.mxeEvt x.core) 2 else d.setEvt (.wxEvt x.core) 2

/-- An invalid block: counted, and fetched again unless its retries have run out (R79, R105, R162, R163). -/
def Dev.blockInvalid (d : Dev) (t : Tag) : Dev :=
  let x := (d.tagE t).desc
  let r := d.wx t
  let d := ((d.count (wxReg x.core 0x30) (0xB021 * 256 + 6) 1).setEvt (.wxEvt x.core) 1).count (pwrReg 0x30) (0x7000 * 256 + 2) 1
  if d.retryLimit < r.tries + 1 then d.uncorrectable t 0x000D 0 else d.setWx t { r with tries := r.tries + 1, again := true }

/-- The tiles of one block written at an EXPAND's destination (R157). -/
def Dev.writeTiles (d : Dev) (x : Desc) (i : Nat) (h : BlkHdr) (codes : List (List Nat)) : Dev :=
  let t := tyOr (wxType x)
  let kt := kTile t
  let nk := ceilDiv (wxK x) kt
  let r := i / wxCols x
  let c := i % wxCols x
  (List.range (ceilDiv h.rows 16)).foldl (fun d j =>
    (List.range (ceilDiv h.cols kt)).foldl (fun d k =>
      d.memWrite (x.w 2) (((8 * r + j) * nk + c * (256 / kt) + k) * tileBytes t) (tileOf t codes (16 * j) (k * kt))) d) d

/-- Bytes read into the input queue (R162). -/
def Dev.wxIn (d : Dev) (c : CoreNo) (n : Nat) : Dev := d.count (wxReg c 0x08) (0xB021 * 256 + 3) n

/-- The first read through a slot takes one use on it for the command (R150). -/
def Dev.takeUse (d : Dev) (t : Tag) (n : Nat) : Dev :=
  let us := Tbl.get [] d.cores.slotUse t.toNat
  if us.contains n then d
  else
    let d := d.setSlot n { d.slot n with uses := (d.slot n).uses + 1 }
    { d with cores := { d.cores with slotUse := Tbl.set [] d.cores.slotUse t.toNat (us ++ [n]) } }

/-- A block's header has been read: a valid reference to a slot takes its use (R150). -/
def Dev.readHdr (d : Dev) (t : Tag) (h : BlkHdr) : Dev :=
  if h.coded && slotServes (d.slot h.slot) (d.slotOwned (d.tagE t).desc.part h.slot) h then d.takeUse t h.slot else d

/-- Where the block after one at `pos` starts: the first 64-byte boundary after its end, of the object (R127). -/
def wxAfter (x : Desc) (pos : Nat) (h : BlkHdr) : Nat := ceilDiv (urOff (wxAddr x) + pos + h.stored) 64 * 64 - urOff (wxAddr x)

/-- A valid block is presented, or written: the progress and the counters (R153, R162). -/
def Dev.blockGood (d : Dev) (t : Tag) (h : BlkHdr) (sc : List Byte) (codes : List (List Nat)) (escs : Nat) : Dev :=
  let x := (d.tagE t).desc
  let r := d.wx t
  let d := d.count (wxReg x.core 0x00) (0xB021 * 256 + 1) 1
  let d := d.count (wxReg x.core 0x10) (0xB021 * 256 + 4) h.plain
  let d := if h.raw then d.count (wxReg x.core 0x18) (0xB021 * 256 + 2) 1 else d
  let d := if escs = 0 then d else d.addCnt (wxReg x.core 0x20) escs
  let d := if x.op = 0x13 then d.writeTiles x r.next h codes else d
  d.setWx t { r with next := r.next + 1, pos := wxAfter x r.pos h, tries := 0, again := false,
                     blocks := r.blocks ++ [⟨h.rowBlk, h.colBlk, codes, blockScales h sc, h.scale2, if h.sidecar then some sc else none⟩] }

/-- SCALE2, SIDECAR and the sidecar agree with the first block of the same row block (R141). -/
def sidecarOk (r : WxRun) (h : BlkHdr) (sc : List Byte) : Bool :=
  match r.blocks.find? fun b => b.rowBlk == h.rowBlk with
  | none => true
  | some b => b.scale2 == h.scale2 && b.sidecar == (if h.sidecar then some sc else none)

/-- The whole block has arrived: CRC, sidecar and decoding decide (R127 step 3, R141, R145). -/
def Dev.blockBody (d : Dev) (t : Tag) (o : ObjNo) (off : Nat) (h : BlkHdr) (hdr : List Byte) : Dev :=
  let sc := if h.sidecar then d.objRead o (off + 64) 128 else []
  let pay := d.objRead o (off + 64 + sc.length) h.payload
  let d := d.wxIn (d.tagE t).desc.core h.stored
  if h.crc ≠ blockCrc hdr sc pay ∨ sidecarOk (d.wx t) h sc = false then d.blockInvalid t
  else match blockRows h (d.slot h.slot).image pay with
    | none => d.blockInvalid t
    | some p => d.blockGood t h sc p.1 p.2

/-- A block invalid by its header, or corrupted on its way: how much of it was read is open (log entry 2). -/
def Dev.blockBad (d : Dev) (t : Tag) (h : BlkHdr) : Dev :=
  let p := d.freeNat
  (p.2.wxIn (d.tagE t).desc.core (64 + p.1 % (h.stored - 63))).blockInvalid t

/-- The next block: its header, the sequence and extent, then the whole of it (R127); `corrupt` says that it was corrupted on its way. -/
def doWxBlockPresent (t : Tag) (corrupt : Bool) (d : Dev) : Dev :=
  let x := (d.tagE t).desc
  let r := d.wx t
  let o := urObj (wxAddr x)
  let off := urOff (wxAddr x) + r.pos
  if !d.readsBlocks t || r.again || decide (wxTotal x ≤ r.next) then d
  else if (d.obj o).size < off + 64 then d.blockMismatch t r.next
  else match d.accessGrans ((gransOf off 64).map fun g => (o, g)) [] with
    | (.damaged _ _, d) => d.uncorrectable t 0 0
    | (.waits, d) => d.wxStarve x.core
    | (.ready, d) =>
      let hdr := d.objRead o off 64
      let h := BlkHdr.ofBytes hdr
      if corrupt then d.blockBad t h
      else if !headerOk h (d.slot h.slot) (d.slotOwned x.part h.slot) then (d.readHdr t h).blockBad t h
      else if !seqOk x r.next h || decide ((d.obj o).size < off + h.stored) then ((d.readHdr t h).wxIn x.core 64).blockMismatch t r.next
      else match (d.readHdr t h).accessGrans ((gransOf off h.stored).map fun g => (o, g)) [] with
        | (.damaged _ _, d) => d.uncorrectable t 0 0
        | (.waits, d) => d.wxStarve x.core
        | (.ready, d) => (d.wxStarve x.core).blockBody t o off h hdr

def execWxBlockPresent (t : Tag) (corrupt : Bool) (s : State) : Host.Outcome State Fault Refusal := s.onDev (doWxBlockPresent t corrupt)

/-- The invalid block is fetched again: one retry of the command (R79, R105). -/
def doInvalidBlockRefetch (t : Tag) (d : Dev) : Dev :=
  let r := d.wx t
  let e := d.tagE t
  if d.readsBlocks t && r.again then
    (d.setTag t { e with retries := if e.retries = 255 then 255 else e.retries + 1 }).setWx t { r with again := false }
  else d

def execInvalidBlockRefetch (t : Tag) (s : State) : Host.Outcome State Fault Refusal := s.onDev (doInvalidBlockRefetch t)

/-! EXPAND: once every block is written, the scales follow (R157). -/

/-- Scale of channel `n`. -/
def WxRun.scale (r : WxRun) (x : Desc) (n : Nat) : W32 :=
  match r.blocks.find? fun b => b.rowBlk == wxRb0 x + n / 128 with
  | none => 0
  | some b => b.scales.getD (n % 128) 0

def doExpand (t : Tag) (d : Dev) : Dev :=
  let x := (d.tagE t).desc
  let r := d.wx t
  if d.runs t 0x13 && exFunc x == 0 && r.next == wxTotal x then
    ((d.memWrite (x.w 2) (exTiles x) ((List.range (exN x)).flatMap fun n => natLe 4 (r.scale x n).toNat)).bankStall x.core).completeOk t (wxTotal x)
  else d

def execExpand (t : Tag) (s : State) : Host.Outcome State Fault Refusal := s.onDev (doExpand t)

/-! Slot functions (R149 to R151, R159, R160). -/

/-- A slot function ends: its report line, then its completion. -/
def Dev.slotEnd (d : Dev) (t : Tag) (st : Byte) (result : Nat) : Dev :=
  ((d.writeReport (d.tagE t).desc st).complete t st 0 result)

/-- Success, RETRIED_DONE where a retry was needed. -/
def Dev.slotOk (d : Dev) (t : Tag) (result : Nat) : Dev := d.slotEnd t (if (d.tagE t).retries = 0 then stDONE else stRETRIED) result

def doSlotLoad (t : Tag) (d : Dev) : Dev :=
  let x := (d.tagE t).desc
  let n := exSlot x
  if !(d.runs t 0x13 && exFunc x == 1) then d
  else match d.access [(x.w 1, 4096)] [] with
    | (.damaged _ _, d) => d.uncorrectable t 0 0
    | (.waits, d) => d
    | (.ready, d) =>
      let p := d.memRead (x.w 1) 0 4096
      let d := p.2
      let im := p.1
      let back := d.setSlot n (d.slot n).unload
      if !imageOk im then back.slotEnd t 0x82 0
      else if imgVersion im = 0 ∨ BitVec.ofNat 32 (imgVersion im) = (d.slot n).version then back.slotEnd t 0x81 (d.slot n).version.toNat
      else
        (d.setSlot n { d.slot n with st := .ready, kind := BitVec.ofNat 4 (imgKind im), etype := BitVec.ofNat 4 (imgEtype im),
                                     cbkW := BitVec.ofNat 4 (imgCbkW im), version := BitVec.ofNat 32 (imgVersion im), part := x.part,
                                     image := im }).slotOk t (imgVersion im)

def execSlotLoad (t : Tag) (s : State) : Host.Outcome State Fault Refusal := s.onDev (doSlotLoad t)

/-- SLOT_PIN and SLOT_UNPIN: the slot READY at the expected version, and the count in range. -/
def Dev.pinSlot (d : Dev) (t : Tag) (add : Bool) : Dev :=
  let x := (d.tagE t).desc
  let n := exSlot x
  let s := d.slot n
  let pins := s.pins.toNat
  let k := exCount x
  if s.st ≠ .ready ∨ s.version ≠ exSlotVer x then d.slotEnd t 0x81 s.version.toNat
  else if (if add then decide (65535 < pins + k) else decide (pins < k)) then d.slotEnd t 0x83 pins
  else
    let v := if add then pins + k else pins - k
    (d.setSlot n { s with pins := BitVec.ofNat 16 v }).slotOk t v

def doSlotPin (t : Tag) (d : Dev) : Dev :=
  if d.runs t 0x13 && exFunc (d.tagE t).desc == 2 then d.pinSlot t true else d

def execSlotPin (t : Tag) (s : State) : Host.Outcome State Fault Refusal := s.onDev (doSlotPin t)

def doSlotUnpin (t : Tag) (d : Dev) : Dev :=
  if d.runs t 0x13 && exFunc (d.tagE t).desc == 3 then d.pinSlot t false else d

def execSlotUnpin (t : Tag) (s : State) : Host.Outcome State Fault Refusal := s.onDev (doSlotUnpin t)

end Sys2Proof.Machine
end

