-- ==== Sys2Proof/Machine/Matrix.lean ====
section
/-! DEFINITION. MATMUL: operands, output tiles, delivery to the tile queue or to scratchpad (spec/05 R120 to R133; spec/07 R171, R172). -/

namespace Sys2Proof.Machine

/-! Operands (R126). -/

/-- Codes of row `r` of B. -/
def mmBRow (d : Dev) (x : Desc) (r : Nat) : List Nat :=
  let t := tyOr (mmBType x)
  unpackCodes t (mmK x) (d.memRead (x.w 1) (r * mmBStride x * 64) (ceilDiv (mmK x * t.bits) 8)).1

/-- Codes of channel `n` of A: from the blocks presented, from rows, or from tiles. -/
def mmARow (d : Dev) (t : Tag) (x : Desc) (n : Nat) : List Nat :=
  let ty := tyOr (mmAType x)
  if mmWx x then
    ((d.wx t).blocks.filter fun b => b.rowBlk == mmRb0 x + n / 128).flatMap fun b => b.codes.getD (n % 128) []
  else if mmRowMajor x then
    unpackCodes ty (mmK x) (d.memRead (x.w 2) (n * mmAStride x * 64) (ceilDiv (mmK x * ty.bits) 8)).1
  else
    let kt := kTile ty
    let nk := ceilDiv (mmK x) kt
    let cb := tileBytes ty / 16
    ((List.range nk).flatMap fun k =>
      unpackCodes ty kt (d.memRead (x.w 2) ((n / 16 * nk + k) * tileBytes ty + n % 16 * cb) cb).1).take (mmK x)

/-- C element (r, n). -/
def mmCAt (d : Dev) (x : Desc) (r n : Nat) : W32 :=
  BitVec.ofNat 32 (leNat (d.memRead (x.w 5) (r * mmCoStride x * 64 + 4 * n) 4).1)

/-- Output element of row `r` and channel `n`, and whether its accumulator was clamped (R58, R59, R60, R128). -/
def mmElem (d : Dev) (x : Desc) (a b : List Nat) (r n : Nat) : W32 × Bool :=
  let ta := tyOr (mmAType x)
  let tb := tyOr (mmBType x)
  if pairInteger ta then
    let p := dotInt ta tb a b
    (if mmCIn x then f32Add p.1 (mmCAt d x r n) else p.1, p.2)
  else (dotFloat ta tb (if mmCIn x then mmCAt d x r n else 0) a b, false)

/-- The 256 elements of tile (i, j), zero outside the matrix, and its clamped elements (R124). -/
def mmTileData (d : Dev) (t : Tag) (x : Desc) (i j : Nat) : List W32 × Nat :=
  let as := (List.range 16).map fun c => mmARow d t x (16 * j + c)
  let es := (List.range 16).flatMap fun r =>
    let row := 16 * i + r
    let b := mmBRow d x row
    (List.range 16).map fun c =>
      let n := 16 * j + c
      if row < mmM x ∧ n < mmN x then mmElem d x (as.getD c []) b row n else ((0 : W32), false)
  (es.map (·.1), (es.filter (·.2)).length)

/-- The engine that computes column `j` (R123). -/
def mmEngineOf (x : Desc) (j : Nat) : Nat :=
  let es := mmEngines x
  es.getD (j % es.length) 0

/-- The tile as the tile queue carries it (R124, R147). -/
def mmTile (d : Dev) (t : Tag) (x : Desc) (p : Nat × Nat) (last : Bool) : Tile :=
  { data := (mmTileData d t x p.1 p.2).1
    scales := if mmWx x then (List.range 16).map fun c => (d.wx t).scale x (16 * p.2 + c) else []
    prod := t, drain := mmDrain x, i := BitVec.ofNat 8 p.1, j := BitVec.ofNat 16 p.2, last := last, fail := false,
    scalesValid := mmWx x }

/-- Array cycles spent on tile (i, j): c cycles a B row and A tile in WS, a channel and B tile in AS (R120, R135). The cycles by which a hold is
stretched to L count none, and a partial last column counts 16 channels (DESIGN CHOICE, log entry 102). -/
def mmTileCycles (x : Desc) (i : Nat) : Nat :=
  let ty := tyOr (mmAType x)
  let c := if ty = .bf16 then 4 else 1
  ceilDiv (mmK x) (kTile ty) * c * (if mmMode x = 0 then min 16 (mmM x - 16 * i) else 16)

/-- What the engines count for a finished tile. -/
def Dev.countTile (d : Dev) (t : Tag) (x : Desc) (p : Nat × Nat) : Dev :=
  let m := mmEngineOf x p.2
  let d := d.mxeMac x.core m (mmTileCycles x p.1)
  let d := d.mxeSat x.core m (mmTileData d t x p.1 p.2).2
  (d.mxeWstall x.core m).bankStall x.core

/-- Tiles whose operands are all there: every one for A in scratchpad; for A from the expander the tiles of the row blocks whose
blocks have all been presented (R127, R132). -/
def mmReady (d : Dev) (t : Tag) (x : Desc) : Nat :=
  if mmWx x then
    let done := (d.wx t).next / wxCols x
    (mmTiles x).findIdx (fun p => decide (done * 8 ≤ p.2))
  else (mmTiles x).length

def Dev.pushedOf (d : Dev) (t : Tag) : Nat := Tbl.get 0 d.cores.pushed t.toNat
def Dev.setPushed (d : Dev) (t : Tag) (n : Nat) : Dev :=
  { d with cores := { d.cores with pushed := Tbl.set 0 d.cores.pushed t.toNat n } }

/-- One finished tile written to scratchpad (R126). -/
def Dev.mmStore (d : Dev) (t : Tag) (x : Desc) (p : Nat × Nat) : Dev :=
  let es := (mmTileData d t x p.1 p.2).1
  let w := min 16 (mmN x - 16 * p.2)
  let d := (List.range (min 16 (mmM x - 16 * p.1))).foldl (fun d r =>
    d.memWrite (x.w 6) ((16 * p.1 + r) * mmCoStride x * 64 + 64 * p.2)
      (((es.drop (16 * r)).take w).flatMap fun e => natLe 4 e.toNat)) d
  d.setPushed t (d.pushedOf t + 1)

/-- The finished tiles go out: written to scratchpad, or held in the accumulators until TILE_PUSH delivers them. -/
def Dev.mmEmit (d : Dev) (t : Tag) (x : Desc) (ps : List (Nat × Nat)) : Dev :=
  let total := (mmTiles x).length
  if mmOut x then
    let d := ps.foldl (fun d p => (d.countTile t x p).mmStore t x p) d
    if d.pushedOf t = total then d.completeOk t total else d
  else
    let k := d.core x.core
    let n := d.pushedOf t + k.due.length
    let ts := (List.range ps.length).map fun q => mmTile d t x (ps.getD q (0, 0)) (decide (n + q + 1 = total))
    let d := ps.foldl (fun d p => d.countTile t x p) d
    d.setCore x.core { k with due := k.due ++ ts }

/-- A parity error in an engine's A tiles or accumulators (R130): the command ends, its undelivered output undefined. -/
def Dev.mmParity (d : Dev) (t : Tag) (x : Desc) (m : BitVec 2) : Dev :=
  let d := ((d.spoil t x).fails t 0x82 0 m.toNat).setEvt (.mxeEvt x.core) 4
  { d with pwr := { d.pwr with parity := Tbl.mod [] d.pwr.parity x.core.toNat (fun l => d.now :: l) } }

/-- Unwritten lines of the scratchpad operands (R86). -/
def mmZeros (d : Dev) (x : Desc) : Nat :=
  d.unwritten x.core (spOff (x.w 1)) (mmB x).span + (if mmWx x then 0 else d.unwritten x.core (spOff (x.w 2)) (mmA x).span) +
  (if mmCIn x then d.unwritten x.core (spOff (x.w 5)) (mmC x).span else 0)

/-- MATMUL computes the tiles whose operands have arrived and that it has not finished yet; a parity error ends it. Scratchpad reads
of unwritten lines count (R86). -/
def doMatmul (t : Tag) (parity : Option (BitVec 2)) (d : Dev) : Dev :=
  let x := (d.tagE t).desc
  if !d.runs t 0x10 then d
  else match parity with
    | some m => d.mmParity t x m
    | none =>
      let have_ := d.pushedOf t + (if mmOut x then 0 else (d.core x.core).due.length)
      let ps := ((mmTiles x).take (mmReady d t x)).drop have_
      if ps = [] then d
      else
        let d := if have_ = 0 then d.zreads x.core (mmZeros d x) else d
        d.mmEmit t x ps

def execMatmul (t : Tag) (parity : Option (BitVec 2)) (s : State) : Host.Outcome State Fault Refusal := s.onDev (doMatmul t parity)

/-! Delivery (R172). -/

/-- The oldest finished tile enters the queue; with the last one the MATMUL completes. A full queue makes the producer wait and count,
and a producer whose drainer is gone delivers nothing further (R133). -/
def doTilePush (c : CoreNo) (d : Dev) : Dev :=
  let k := d.core c
  match k.producer, k.due with
  | some t, e :: es =>
    let x := (d.tagE t).desc
    if 16 ≤ k.queue.length then (mmEngines x).foldl (fun d m => d.mxeTqstall c m) d
    else if d.cores.lost.contains t then d
    else
      let d := (d.setCore c { k with due := es }).pushTile c e
      if e.fail then d.setCore c { d.core c with producer := none }
      else
        let n := d.pushedOf t + 1
        let d := d.setPushed t n
        if n = (mmTiles x).length then d.completeOk t n else d
  | _, _ => d

def execTilePush (c : CoreNo) (s : State) : Host.Outcome State Fault Refusal := s.onDev (doTilePush c)

/-- The drainer is gone: the remaining tiles are discarded and the MATMUL completes MM_DRAIN_LOST with the tiles pushed (R130, R133). -/
def doDrainLost (t : Tag) (d : Dev) : Dev :=
  let x := (d.tagE t).desc
  if d.runs t 0x10 && d.cores.lost.contains t then
    (((d.dropTiles x.core t).letGo t x).complete t 0x81 0 (d.pushedOf t)).setEvt (.mxeEvt x.core) 8
  else d

def execDrainLost (t : Tag) (s : State) : Host.Outcome State Fault Refusal := s.onDev (doDrainLost t)

end Sys2Proof.Machine
end

