-- ==== Sys2Proof/Machine/Vector.lean ====
section
/-! DEFINITION. The vector engine: VECOP on streams and on drained tiles (spec/07 R167 to R180; spec/03 R65 to R70). -/

namespace Sys2Proof.Machine

/-! Stream mode (R170). -/

/-- VECOP on streams; a tile-mode VECOP acts at TILE_POP. -/
def doVecop (t : Tag) (d : Dev) : Dev :=
  let x := (d.tagE t).desc
  if d.runs t 0x11 && !vTq x then (vStream x d).completeOk t (vRows x) else d

def execVecop (t : Tag) (s : State) : Host.Outcome State Fault Refusal := s.onDev (doVecop t)

/-! Tile mode (R171 to R175). -/

/-- Element (r, c) of a tile as the stage of R175 forms it; `r` and `c` count in the whole matrix. -/
def vTileX (d : Dev) (x : Desc) (e : Tile) (r c : Nat) : W32 :=
  let acc := e.data.getD (r % 16 * 16 + c % 16) 0
  let ar := if vRs x = 1 then vImm x else if vRs x = 2 then vXAt d x r 0 else oneF32
  let sc := if vCs x = 1 then e.scales.getD (c % 16) 0 else if vCs x = 2 then vYAt d x 0 c else oneF32
  dequant acc ar sc

/-- Result of one row of a tile. -/
def vTileRow (d : Dev) (x : Desc) (e : Tile) (r : Nat) : RowOut :=
  let cs := upFrom (16 * e.j.toNat) (min 16 (vCols x - 16 * e.j.toNat))
  let xs := cs.map (vTileX d x e r)
  vRow x xs (if vReadsY (vOp x) then cs.map (vYAt d x r) else xs)

/-- A tile processed: its four groups issued and their results written. -/
def vTile (x : Desc) (e : Tile) (d : Dev) : Dev :=
  let rs := upFrom (16 * e.i.toNat) (min 16 (vRows x - 16 * e.i.toNat))
  let outs := rs.map (vTileRow d x e)
  let d := (List.range rs.length).foldl (fun d q => d.vStore x (16 * e.i.toNat + q) (16 * e.j.toNat) (outs.getD q ⟨[], 0, 0, 0⟩)) d
  let d := (d.veGroups x.core 4).bankStall x.core
  d.veTally x.core ((outs.map (·.sat)).foldl (· + ·) 0) ((outs.map (·.flt)).foldl (· + ·) 0)

/-- A command-specific end of a VECOP (R180, R189). -/
def Dev.vEnd (d : Dev) (t : Tag) (st : Byte) (result : Nat) : Dev :=
  let c := (d.tagE t).desc.core
  (d.complete t st 0 result).setEvt (.veEvt c) 4

/-- The tile-mode VECOP a core runs. -/
def Dev.drainer (d : Dev) (c : CoreNo) : Option Tag :=
  (d.cores.tag.find? fun e => decide (e.2.st = .running) && e.2.desc.op == 0x11 && e.2.desc.core == c && vTq e.2.desc).map
    fun e => BitVec.ofNat 12 e.1

def Dev.drainedOf (d : Dev) (t : Tag) : Nat := Tbl.get 0 d.cores.drained t.toNat
def Dev.setDrained (d : Dev) (t : Tag) (n : Nat) : Dev :=
  { d with cores := { d.cores with drained := Tbl.set 0 d.cores.drained t.toNat n } }

/-- Tiles a VECOP expects (R174). -/
def vTiles (x : Desc) : Nat := ceilDiv (vRows x) 16 * ceilDiv (vCols x) 16

/-- A popped tile of the right producer: its place in the grid and LAST are checked, then its scales, then it is processed (R174, R175); of a
tile that breaks both rules the shape is reported (DESIGN CHOICE, log entry 102). -/
def Dev.popTile (d : Dev) (t : Tag) (x : Desc) (e : Tile) : Dev :=
  let k := d.drainedOf t
  let n := vTiles x
  if ceilDiv (vRows x) 16 ≤ e.i.toNat ∨ ceilDiv (vCols x) 16 ≤ e.j.toNat ∨ e.last ≠ decide (k + 1 = n) then d.vEnd t 0x82 k
  else if vCs x = 1 ∧ e.scalesValid = false then d.vEnd t 0x83 k
  else
    let d := if k = 0 then d.zreads x.core (d.vZeros x) else d
    let d := (vTile x e d).setDrained t (k + 1)
    if k + 1 = n then d.completeOk t n else d

/-- What a tile-mode VECOP does with the head of the queue (R174). -/
def doTilePop (c : CoreNo) (d : Dev) : Dev :=
  match d.drainer c with
  | none => d
  | some t =>
    let x := (d.tagE t).desc
    let k := d.core c
    match k.queue with
    | [] =>
      if (d.tagE (vProd x)).inFlight then d.stall (veReg c 0x10) (0xB030 * 256 + 2)
      else d.vEnd t 0x81 (d.tagE (vProd x)).status.toNat
    | e :: es =>
      if e.fail ∧ e.prod = vProd x then (d.setCore c { k with queue := es }).complete t stABORTED 0x0007 (vProd x).toNat
      else if e.prod = vProd x ∧ e.drain = t then (d.setCore c { k with queue := es }).popTile t x e
      else d.vEnd t 0x80 e.prod.toNat

def execTilePop (c : CoreNo) (s : State) : Host.Outcome State Fault Refusal := s.onDev (doTilePop c)

end Sys2Proof.Machine
end

