-- ==== Sys2Proof/Machine/Attend.lean ====
section
/-! DEFINITION. ATTEND: snapshot, walk set, Trellis, pages, append and scores (spec/10 R253 to R267). -/

namespace Sys2Proof.Machine

/-! Snapshot (R253, R254, R258, R259). -/

/-- Pages of the stream's LEN positions. -/
def atE (x : Desc) : Nat := ceilDiv (atLen x) 64
/-- The entries of the stream's pages. -/
def atEntries (d : Dev) (x : Desc) (o : ObjNo) : List Nat := (List.range (atE x)).map fun i => d.kvEntry o (atStream x) i
/-- The header differs from what the descriptor expects (AT_MAP). -/
def atMapBad (d : Dev) (x : Desc) (o : ObjNo) : Bool :=
  d.kvHdr o 0 2 != 0xC1A7 || d.kvHdr o 2 1 != 1 || d.kvHdr o 3 1 % 16 != x.f 4 19 16 || d.kvHdr o 6 1 != atHg x ||
  d.kvHdr o 7 1 != atDCode x || decide (d.kvStreams o ≤ atStream x) || d.kvHdr o 14 2 != (atSeq x).toNat || d.kvHdr o 12 2 != atGen x
/-- The entry of page `i` is missing (AT_NO_PAGE): EMPTY, filled below a position that exists before this command, or, where APPEND
writes the page, not VALID or DAMAGED, or not filled up to the first appended position. -/
def atNoPage (x : Desc) (i w : Nat) : Bool :=
  let p0 := if atAppend x then atLen x - atQRows x else atLen x
  peState w == 0 || (peState w != 2 && decide (peFill w < min 64 (p0 - 64 * i))) ||
  ((atAppended x i).isSome && (peState w == 2 || (p0 / 64 == i && peFill w != p0 % 64)))
/-- The first page of a list of (page, entry) that satisfies `p`. -/
def firstPage (p : Nat → Nat → Bool) (es : List (Nat × Nat)) : Option Nat := (es.find? fun e => p e.1 e.2).map (·.1)

/-! The Trellis (R266, R267). -/

/-- Codes of query row `r` of head `h` (R257). -/
def atQRow (d : Dev) (x : Desc) (h r : Nat) : List Nat :=
  unpackCodes (tyOr (atQ x)) (atD x) (d.memRead (x.w 1) ((h * atR x + r) * atStride x (atQ x)) (atD x * tyW (atQ x))).1
/-- A value of a summary: the maximum (`k` 0) or minimum (`k` 1) of head `h`, dimension `e`. -/
def sumAt (d : Dev) (o : ObjNo) (off : Nat) (x : Desc) (h e k : Nat) : W32 :=
  codeToF32 .bf16 (leNat (d.objRead o (off + 4 * (h * atD x + e) + 2 * k) 2))
/-- The bound of summary `j` for row `r` of head `h`: the sum is exact and rounded once (log entry 24). -/
def rowBound (d : Dev) (x : Desc) (o : ObjNo) (off h r : Nat) : W32 :=
  let q := (atQRow d x h r).map (codeToF32 (tyOr (atQ x)))
  let ts := (List.range (atD x)).map fun e =>
    f32Max (f32Mul (q.getD e 0) (sumAt d o off x h e 0)) (f32Mul (q.getD e 0) (sumAt d o off x h e 1))
  f32Mul (atScale x) (Fp.sum (ts.map Fp.ofF32)).toF32
/-- The bound of summary `j`: the largest over rows and heads. -/
def sumBound (d : Dev) (x : Desc) (o : ObjNo) (pm tr j : Nat) : W32 :=
  ((List.range (atHg x)).flatMap fun h => (List.range (atR x)).map fun r => rowBound d x o (trellisOff tr pm (atStream x) j) h r).foldl
    f32Max 0xFF800000
/-- Insertion in descending bound; a tie stays behind the lower index. -/
def insertRank (p : Nat × W32) : List (Nat × W32) → List (Nat × W32)
  | [] => [p]
  | q :: qs => if f32Gt p.2 q.2 then p :: q :: qs else q :: insertRank p qs
/-- The `n` highest of ascending indices by bound. -/
def rankTop (n : Nat) (f : Nat → W32) (is : List Nat) : List Nat :=
  (((is.map fun i => (i, f i)).foldl (fun l p => insertRank p l) []).take n).map (·.1)
/-- Pages with a summary: VALID, full, TSUM set. -/
def atFull (es : List (Nat × Nat)) : List Nat := (es.filter fun e => peSummed e.2).map (·.1)
/-- Coarse groups ranked and kept. -/
def atGroups (d : Dev) (x : Desc) (o : ObjNo) (es : List (Nat × Nat)) : List Nat :=
  rankTop (atNGrp x) (fun g => sumBound d x o (d.kvPagesMax o) (d.kvTrellis o) (d.kvPagesMax o + g)) ((atFull es).map (· / 64)).eraseDups
/-- Pages the Trellis ranks and keeps. -/
def atRetrieved (d : Dev) (x : Desc) (o : ObjNo) (es : List (Nat × Nat)) : List Nat :=
  let gs := atGroups d x o es
  rankTop (atNRet x) (sumBound d x o (d.kvPagesMax o) (d.kvTrellis o)) ((atFull es).filter fun i => gs.contains (i / 64))
/-- Granules of the map that retrieval reads: the group summaries, and the page summaries of the kept groups (R265, R267). -/
def atTrellisGrans (d : Dev) (x : Desc) (o : ObjNo) (es : List (Nat × Nat)) : List Nat :=
  let pm := d.kvPagesMax o
  let off := trellisOff (d.kvTrellis o) pm (atStream x)
  if atRetrieve x && d.kvTrellis o != 0 then
    gransOf (off pm) (ceilDiv pm 64 * 2048) ++ (atGroups d x o es).flatMap fun g => gransOf (off (64 * g)) (min 64 (pm - 64 * g) * 2048)
  else []
/-- Page `i` is walked whatever its bound: among the first or last pages, full without a summary, or written. -/
def atAlways (x : Desc) (i w : Nat) : Bool :=
  decide (i < atSink x ∨ atE x ≤ i + atRecent x) || (peFill w == 64 && !peTsum w) || (atAppended x i).isSome
/-- The walk set, ascending (R260, R267). -/
def atWalk (d : Dev) (x : Desc) (o : ObjNo) (es : List (Nat × Nat)) : List Nat :=
  if atRetrieve x then
    let ks := atRetrieved d x o es
    (es.filter fun e => peValid e.2 && (ks.contains e.1 || atAlways x e.1 e.2)).map (·.1)
  else (es.filter fun e => peValid e.2).map (·.1)
/-- A DAMAGED page the walk needs (R259). -/
def atDamaged (x : Desc) (es : List (Nat × Nat)) : Option Nat :=
  firstPage (fun i w => peState w == 3 && (!atRetrieve x || atAlways x i w)) es
/-- A locator as a rejection. -/
def lenBad (word bit : Nat) : Byte × BitVec 16 × Nat := (stLENGTH, locator word bit 2, 0)
/-- What ends an ATTEND at its start without effect: status, DETAIL and RESULT (R258, R259). -/
def atReject (d : Dev) (x : Desc) (o : ObjNo) (es : List (Nat × Nat)) (walk : List Nat) : Option (Byte × BitVec 16 × Nat) :=
  if atMapBad d x o then some (0x80, 0, 0)
  else if d.kvPagesMax o * 64 < atLen x then some (lenBad 5 42)
  else if atLen x < atQRows x then some (lenBad 5 32)
  else match firstPage (atNoPage x) es with
    | some i => some (0x81, 0, i)
    | none =>
      match firstPage (fun i w => (atAppended x i).isSome && peShared w) es with
      | some i => some (0x82, 0, i)
      | none =>
        if atRetrieve x && d.kvTrellis o == 0 then some (0x83, 0, 0)
        else if atRetrieve x && decide (atWp x < walk.length) then some (lenBad 6 48)
        else none

/-! One page (R261, R262). -/

/-- Codes of key position `i` of head `h` in a page (R248). -/
def atKRow (d : Dev) (x : Desc) (o : ObjNo) (g h i : Nat) : List Nat :=
  let w := tyW (atKv x)
  unpackCodes (tyOr (atKv x)) (atD x) (d.granRead o g (i * 512 + h * atD x * w) (atD x * w))
/-- Codes of dimension `e` of head `h` over the page's positions. -/
def atVRow (d : Dev) (x : Desc) (o : ObjNo) (g h e : Nat) : List Nat :=
  let w := tyW (atKv x)
  unpackCodes (tyOr (atKv x)) 64 (d.granRead o g (32768 + (h * atD x + e) * 64 * w) (64 * w))
/-- The type probabilities are narrowed to. -/
def atPType (x : Desc) : Ty := if atKv x = some .bf16 then .bf16 else .e4m3
/-- Minus infinity. -/
def negInf : W32 := 0xFF800000
/-- Position `i` of page `b` is visible to row `r` (R249, R261). -/
def atVisible (x : Desc) (b fill r i : Nat) : Bool :=
  decide (i < fill ∧ 64 * b + i ≤ atLen x - atQRows x + r / atG x)
/-- Scores of row `r` of head `h` on a page. -/
def atScores (d : Dev) (x : Desc) (o : ObjNo) (g b fill h r : Nat) : List W32 :=
  let q := atQRow d x h r
  (List.range 64).map fun i =>
    if atVisible x b fill r i then f32Mul (dotFloat (tyOr (atKv x)) (tyOr (atQ x)) 0 (atKRow d x o g h i) q) (atScale x) else negInf
/-- exp of the core's vector engine. -/
def veExp (x : Desc) (v : W32) : W32 := fnValue x.core.toNat .exp v
/-- The accumulators of a row after a page: positions at or above FILL contribute nothing (R249); those the mask hides count with their p of 0. -/
def atAccum (d : Dev) (x : Desc) (o : ObjNo) (g fill h : Nat) (ps : List Nat) (acc : List W32) : List W32 :=
  (List.range (atD x)).map fun e =>
    let vs := atVRow d x o g h e
    dotFloat (atPType x) (tyOr (atKv x)) (acc.getD e 0) ps
      ((List.range 64).map fun i => if i < fill then vs.getD i 0 else 0)
/-- One row of one head on one page: its state, its record for SCORE, and whether its maximum rose. -/
def atRowStep (d : Dev) (x : Desc) (o : ObjNo) (g b fill h r : Nat) (st : AttRow) : AttRow × (W32 × W32) × Bool :=
  let s := atScores d x o g b fill h r
  if st.bad || s.any (fun v => f32IsNan v || v == 0x7F800000) then ({ st with bad := true }, (0, negInf), false)
  else
    let mn := s.foldl f32Max st.m
    if mn = negInf then (st, (0, negInf), false)
    else
      let rise := st.m != negInf && f32Gt mn st.m
      let f := veExp x (f32Sub st.m mn)
      let st := if rise then { st with acc := st.acc.map (f32Mul f), l := f32Mul st.l f } else st
      let ps := s.map fun v => (f32To (atPType x) (veExp x (f32Sub v mn))).code
      let lam := reduceRow 0x30 (ps.map (codeToF32 (atPType x)))
      ({ st with l := f32Add st.l lam, acc := atAccum d x o g fill h ps st.acc, m := mn }, (lam, mn), rise)
/-- Every row of every head. -/
def atPageRows (d : Dev) (x : Desc) (o : ObjNo) (g b fill : Nat) (rows : List AttRow) : List (AttRow × (W32 × W32) × Bool) :=
  (List.range (atHg x * atR x)).map fun i =>
    atRowStep d x o g b fill (i / atR x) (i % atR x) (rows.getD i ⟨negInf, 0, [], false⟩)
/-- The appended keys and values of page `b` stored in it (R262): the rest of each line written back is as it was. -/
def atStore (x : Desc) (o : ObjNo) (g b : Nat) (d : Dev) : Dev :=
  match atAppended x b with
  | none => d
  | some (i0, i1) =>
    let w := tyW (atKv x)
    let n := atHg x * atD x
    (upFrom i0 (i1 + 1 - i0)).foldl (fun d i =>
      let j := 64 * b + i - (atLen x - atQRows x)
      let d := d.objWrite o (g * granSize + i * 512) (d.memRead (x.w 3) (j * 512) (n * w)).1
      (List.range n).foldl (fun d e =>
        d.objWrite o (g * granSize + 32768 + e * 64 * w + i * w) (d.memRead (x.w 3) (131072 + j * 512 + e * w) w).1) d) d
/-- Maximum and minimum of K over a full page, for head `h` and dimension `e`: exact in BF16. -/
def kRange (d : Dev) (x : Desc) (o : ObjNo) (g h e : Nat) : W32 × W32 :=
  let ks := (List.range 64).map fun i => codeToF32 (tyOr (atKv x)) ((atKRow d x o g h i).getD e 0)
  (ks.foldl f32Max (ks.headD 0), ks.foldl f32Min (ks.headD 0))
/-- The summary of a page that APPEND filled, and its group's (R262, R266). -/
def atSummary (x : Desc) (run : AttRun) (o : ObjNo) (g b : Nat) (d : Dev) : Dev :=
  if run.trellis = 0 ∨ (atAppended x b).isNone ∨ atLen x < 64 * b + 64 then d
  else
    let po := trellisOff run.trellis run.pagesMax (atStream x) b
    let go := trellisOff run.trellis run.pagesMax (atStream x) (run.pagesMax + b / 64)
    (List.range (atHg x * atD x)).foldl (fun d i =>
      let k := kRange d x o g (i / atD x) (i % atD x)
      let put (d : Dev) (off : Nat) (hi lo : W32) : Dev :=
        d.objWrite run.mapObj (off + 4 * i) (natLe 2 (toBf16 hi).code ++ natLe 2 (toBf16 lo).code)
      let hi := f32Max k.1 (sumAt d run.mapObj go x (i / atD x) (i % atD x) 0)
      let lo := f32Min k.2 (sumAt d run.mapObj go x (i / atD x) (i % atD x) 1)
      put (put d po k.1 k.2) go hi lo) d

/-! The end (R261, R263). -/

/-- A row's output values and whether it is empty. -/
def atOut (x : Desc) (st : AttRow) : List W32 × Bool :=
  if st.bad then (List.replicate (atD x) nanF32, false)
  else if f32IsZero st.l then (List.replicate (atD x) 0, true)
  else
    let rc := fnValue x.core.toNat .rcp st.l
    ((List.range (atD x)).map fun e => f32Mul (st.acc.getD e 0) rc, false)
/-- The output holds a NaN: the whole row's output is NaN (R259). -/
def rowNan (vs : List W32) : Bool := vs.any f32IsNan
/-- The output rows stored. -/
def atEmit (x : Desc) (outs : List (List W32 × Bool)) (d : Dev) : Dev :=
  (List.range outs.length).foldl (fun d i =>
    let o := (outs.getD i ([], false)).1
    let o := if rowNan o then List.replicate (atD x) nanF32 else o
    d.memWrite (x.w 2) (i * atStride x (atO x)) (o.flatMap fun v => natLe (tyW (atO x)) (f32To (tyOr (atO x)) v).code)) d
/-- Mass of a landed page: the mean over rows that are not empty (R263, log entries 22 and 25). -/
def atMass (x : Desc) (rows : List AttRow) (outs : List (List W32 × Bool)) (rs : List (W32 × W32)) : W32 :=
  let live := (List.range rows.length).filter fun i => !(outs.getD i ([], true)).2
  let ts := live.map fun i =>
    let st := rows.getD i ⟨negInf, 0, [], false⟩
    let p := rs.getD i (0, negInf)
    f32Mul (f32Mul p.1 (veExp x (f32Sub p.2 st.m))) (fnValue x.core.toNat .rcp st.l)
  f32Mul (ts.foldl f32Add 0) (fnValue x.core.toNat .rcp (Fp.ofInt live.length).toF32)
/-- The records of MASS: free where a row met a NaN or +∞ score or every row is empty, for which no mass is stated (log entry 25). -/
def atMassRecs (x : Desc) (run : AttRun) (outs : List (List W32 × Bool)) (d : Dev) : Dev :=
  let open_ := run.rows.any (·.bad) || outs.all (·.2)
  let d := (List.range run.walk.length).foldl (fun d k =>
    let pg := run.walk.getD k 0
    if open_ then (d.memWrite (x.w 3) (atMassOff x + 8 * k) (natLe 4 pg)).memFree (x.w 3) (atMassOff x + 8 * k + 4) 4
    else d.memWrite (x.w 3) (atMassOff x + 8 * k) (natLe 4 pg ++ natLe 4 (atMass x run.rows outs ((lookupKey pg run.recs).getD [])).toNat)) d
  d.memWrite (x.w 3) (atMassOff x + 8 * run.walk.length) (List.replicate (8 * (atWp x - run.walk.length)) 0)
/-- The areas of the workspace that ATTEND uses for itself, whose contents afterwards are not laid down (log entry 23). -/
def atScratch (x : Desc) (d : Dev) : Dev :=
  d.memFree (x.w 3) 262144 ((if atScore x then atMassOff x else atWorkBytes x) - 262144)
/-- Normalisation, outputs, masses and completion. -/
def atFinish (t : Tag) (x : Desc) (d : Dev) : Dev :=
  let run := d.attRun t
  let outs := run.rows.map (atOut x)
  let empties := (outs.filter (·.2)).length
  let nans := (outs.filter fun o => rowNan o.1).length
  let d := atEmit x outs (atScratch x (d.stall (veReg x.core 0x08) (0xB030 * 256 + 1)))
  let d := if atScore x then atMassRecs x run outs d else d
  let d := if empties = 0 then d else d.count (attReg x.core 0x30) (0xB040 * 256 + 6) empties
  if nans ≠ 0 then (d.complete t 0x85 0 nans).setEvt (.attEvt x.core) 4
  else if empties ≠ 0 then (d.complete t 0x84 0 empties).setEvt (.attEvt x.core) 2
  else d.completeOk t run.walk.length

/-! The two commands. -/

def Dev.setAtt (d : Dev) (t : Tag) (r : AttRun) : Dev := { d with cores := { d.cores with att := Tbl.put t.toNat r d.cores.att } }
/-- The snapshot taken: the walk set and the rows' initial state, and the VALID pages that retrieval leaves out counted (R277). A sequence that
retrieval has run for inserts in the Vine no more (R271). -/
def atBegin (t : Tag) (x : Desc) (o : ObjNo) (es : List (Nat × Nat)) (walk : List Nat) (d : Dev) : Dev :=
  let skipped := (es.filter fun e => peValid e.2 && !walk.contains e.1).length
  let d := if skipped = 0 then d else d.count (attReg x.core 0x18) (0xB040 * 256 + 3) skipped
  let d := if atRetrieve x then d.setSeq (atSeq x) { d.seq (atSeq x) with vineOff := true } else d
  let d := d.setAtt t
    { on := true, edit := (d.seq (atSeq x)).edit, mapObj := o, pagesMax := d.kvPagesMax o, trellis := d.kvTrellis o,
      pages := (es.filter fun e => e.2 ≠ 0).map fun e => (e.1, BitVec.ofNat 64 e.2), walk := walk, todo := walk,
      rows := List.replicate (atHg x * atR x) ⟨negInf, 0, List.replicate (atD x) 0, false⟩, recs := [] }
  if walk = [] then atFinish t x d else d
/-- The granules of the map that the snapshot and retrieval read. -/
def atMapGrans (d : Dev) (x : Desc) (o : ObjNo) : List (ObjNo × Nat) :=
  ((gransOf 0 64 ++ gransOf (kvEntryOff (d.kvPagesMax o) (atStream x) 0) (8 * atE x) ++
    atTrellisGrans d x o ((List.range (atE x)).zip (atEntries d x o))).eraseDups).map fun g => (o, g)
/-- ATTEND takes its snapshot once, checks it, and chooses its walk set. -/
def doAttend (t : Tag) (d : Dev) : Dev :=
  let x := (d.tagE t).desc
  let q := d.seq (atSeq x)
  let o := q.kvObj
  if !d.runs t 0x30 || (d.attRun t).on then d
  else if q.st = .free ∨ q.gen.toNat ≠ atGen x then d.complete t stSTALE 0 0
  else if q.part ≠ x.part then d.complete t stRIGHTS (locator 4 36 4) 0
  else match d.accessGrans (atMapGrans d x o) [] with
    | (.damaged _ _, d) => d.uncorrectable t 0 0
    | (.waits, d) => d
    | (.ready, d) =>
      let es := (List.range (atE x)).zip (atEntries d x o)
      let walk := atWalk d x o es
      match atReject d x o es walk with
      | some f =>
        let d := d.complete t f.1 f.2.1 f.2.2
        if f.1 = stLENGTH then d else d.setEvt (.attEvt x.core) 8
      | none =>
        match atDamaged x es with
        | some i => d.uncorrectable t 0 i
        | none =>
          let zs := d.unwritten x.core (spOff (x.w 1)) (atQArea x).span +
            (if atAppend x then d.unwritten x.core (spOff (x.w 3)) (512 * atQRows x) +
              d.unwritten x.core (spOff (x.w 3) + 131072) (512 * atQRows x) else 0)
          atBegin t x o es walk (d.zreads x.core zs)
def execAttend (t : Tag) (s : State) : Host.Outcome State Fault Refusal := s.onDev (doAttend t)

/-- What the engines count for a page: the array cycles of both products on each matrix engine; the vector groups are open (R136, R188, R265,
log entry 2). -/
def atEngines (x : Desc) (d : Dev) : Dev :=
  let n := 2 * atHg x * (atD x / 16) * (atR x * (if atKv x = some .bf16 then 4 else 1))
  (((List.range 4).foldl (fun d m => d.mxeMac x.core m n) d).stall (veReg x.core 0x08) (0xB030 * 256 + 1)).bankStall x.core
/-- The summary of page `b` is due: APPEND fills the page and the map has a Trellis (R262). -/
def atSumDue (x : Desc) (run : AttRun) (b : Nat) : Bool := run.trellis != 0 && (atAppended x b).isSome && decide (64 * b + 64 ≤ atLen x)
/-- Granules of the map that hold page `b`'s summary and its group's. -/
def atSumGrans (x : Desc) (run : AttRun) (b : Nat) : List (ObjNo × Nat) :=
  if atSumDue x run b then
    [b, run.pagesMax + b / 64].map fun j => (run.mapObj, trellisOff run.trellis run.pagesMax (atStream x) j / granSize)
  else []
/-- What the processing of page `b` reads and writes in the tiers. -/
def atPageGrans (x : Desc) (run : AttRun) (b : Nat) (pg : ObjNo × Nat) : List (ObjNo × Nat) × List (ObjNo × Nat) :=
  (pg :: (atSumGrans x run b).drop 1, (if (atAppended x b).isSome then [pg] else []) ++ atSumGrans x run b)
/-- A page processed: appended rows stored, every row of every head, the summary of a page that is now full, the counters. -/
def atPage (t : Tag) (x : Desc) (b : Nat) (o : ObjNo) (g fill : Nat) (d : Dev) : Dev :=
  let run := d.attRun t
  let d := atStore x o g b d
  let fill := match atAppended x b with
    | some (_, i1) => max fill (i1 + 1)
    | none => fill
  let rs := atPageRows d x o g b fill run.rows
  let d := atSummary x run o g b d
  let d := atEngines x (d.count (attReg x.core 0x10) (0xB040 * 256 + 2) 1)
  let d := d.stall (attReg x.core 0x28) (0xB040 * 256 + 5)
  let d := if rs.any (·.2.2) then d.count (attReg x.core 0x20) (0xB040 * 256 + 4) 1 else d
  d.setAtt t { run with todo := run.todo.erase b, rows := rs.map (·.1), recs := run.recs ++ [(b, rs.map (·.2.1))] }
/-- One of the four pages staged or in flight lands and is processed; the last one ends the command (R260). -/
def doPageLand (t : Tag) (page : BitVec 14) (d : Dev) : Dev :=
  let x := (d.tagE t).desc
  let run := d.attRun t
  let b := page.toNat
  let w := (Tbl.get (0 : W64) run.pages b).toNat
  let pg := (peObj w, peGran w)
  if !d.runs t 0x30 || !run.on || !(run.todo.take 4).contains b then d
  else match d.accessGrans (atPageGrans x run b pg).1 (atPageGrans x run b pg).2 with
    | (.damaged _ _, d) => d.uncorrectable t 0 b
    | (.waits, d) => d
    | (.ready, d) =>
      let d := atPage t x b pg.1 pg.2 (peFill w) d
      if (d.attRun t).todo = [] then atFinish t x d else d
def execPageLand (t : Tag) (page : BitVec 14) (s : State) : Host.Outcome State Fault Refusal := s.onDev (doPageLand t page)

end Sys2Proof.Machine
end

