-- ==== Sys2Proof/Machine/Emit.lean ====
section
/-! DEFINITION. Serving events on their way to an event ring, the mailbox OUT ring or the backlog (spec/11 R287; spec/13 R378, R386;
spec/16 R456), and the fault records of spec/17 R485. -/

namespace Sys2Proof.Machine

/-- A serving event (R287). -/
structure SrvEv where
  kind : Nat
  status : Byte
  late : Bool
  final : Bool
  part : PartNo
  seq : Option SeqNo
  detail : BitVec 16
  req : W32
  value : W32
  logprob : W32
  index : Nat
  time : Nat
deriving DecidableEq, Repr

def evADMIT : Nat := 1
def evTOKEN : Nat := 2
def evEND : Nat := 3
def evREPLY : Nat := 4
def evRELEASE : Nat := 5

/-- An event with its other fields zero. -/
def srvEv (kind : Nat) (status : Byte) (part : PartNo) (req : W32) (time : Nat) : SrvEv :=
  ⟨kind, status, false, false, part, none, 0, req, 0, 0, 0, time⟩

/-- Bytes [11:0] of an event with the phase bit clear. -/
def SrvEv.head (e : SrvEv) : List Byte :=
  [BitVec.ofNat 8 e.kind, e.status, (if e.late then 1 else 0) ||| (if e.final then 2 else 0), BitVec.ofNat 8 e.part.toNat] ++
  natLe 2 (match e.seq with
    | some q => q.toNat
    | none => 0xFFFF) ++ natLe 2 e.detail.toNat ++ natLe 4 e.req.toNat
/-- The nonce of a TOKEN event (R456). -/
def SrvEv.nonce (e : SrvEv) (gen : BitVec 16) : List Byte :=
  [0x02, BitVec.ofNat 8 e.part.toNat] ++ natLe 2 ((e.seq.getD 0).toNat) ++ natLe 2 gen.toNat ++ natLe 4 e.index ++ [0, 0]
/-- The 32 bytes of an event; a TOKEN of a confidential partition carries VALUE and LOGPROB encrypted and a 64-bit tag for TIME (R456). -/
def Dev.evBytes (d : Dev) (e : SrvEv) : List Byte :=
  let p := d.part e.part
  let vl := natLe 4 e.value.toNat ++ natLe 4 e.logprob.toNat
  if p.conf ∧ e.kind = evTOKEN then
    let c := sized 24 (Config.gcmSeal (p.keyHost.getD 0) (e.nonce (d.seq (e.seq.getD 0)).gen) e.head vl)
    e.head ++ c.take 8 ++ natLe 4 e.index ++ (c.drop 8).take 8
  else e.head ++ vl ++ natLe 4 e.index ++ natLe 8 e.time

/-! The mailbox OUT ring (R386). -/

/-- An OUT entry with the phase bit clear. -/
def outBytes (req value : W32) (index kind : Nat) (status : Byte) (late final : Bool) : List Byte :=
  natLe 4 req.toNat ++ natLe 4 value.toNat ++ natLe 4 index ++
  [BitVec.ofNat 8 kind, status, (if late then 1 else 0) ||| (if final then 2 else 0), 0]
/-- The OUT entry of an event: a rejected admission is a REJECT. -/
def SrvEv.out (e : SrvEv) : List Byte :=
  outBytes e.req (if e.kind = evTOKEN ∨ e.kind = evEND then e.value else 0) (if e.kind = evTOKEN then e.index else 0)
    (if e.kind = evADMIT ∧ e.status ≠ stDONE then 4 else e.kind) e.status e.late e.final
/-- The OUT ring is full (log entry 14). -/
def Hif.outFull (h : Hif) : Bool := (h.outTail + 1) % 65536 == h.outHead
/-- An entry written to the OUT ring. -/
def Dev.outWrite (d : Dev) (bs : List Byte) : Dev :=
  let h := d.hif
  let tail := (h.outTail + 1) % 65536
  { d with hif := { h with
      mboxOut := Memory.writeN h.mboxOut (h.outTail * 16) (withPhase h.outPhase 14 bs)
      outTail := tail, outPhase := if tail = 0 then !h.outPhase else h.outPhase } }

/-! Emission (R378). -/

/-- The event register of the function that owns a queue. -/
def QueueSt.evt (k : QueueSt) : EvtReg := .hifEvt ⟨k.func.toNat % 9, Nat.mod_lt _ (by decide)⟩
/-- An event of a ring waits in the backlog. -/
def Dev.inBacklog (d : Dev) (q : Option QueueNo) : Bool := d.hif.backlog.any (·.q == q)
/-- The event rings that can take an entry now. -/
def Dev.ringOpen (d : Dev) : Option QueueNo → Bool
  | none => !d.hif.outFull
  | some q => (d.queue q).en && (d.queue q).kind == 1 && !(d.queue q).full
/-- An entry set down in its ring. -/
def State.ringWrite (s : State) (q : Option QueueNo) (r : Rec) : State :=
  match q with
  | none => { s with dev := s.dev.outWrite r.bytes }
  | some q => s.cqWrite q r
/-- An event goes to its ring, or, where the ring cannot take it or an earlier one waits, to the backlog. A faulted queue's events
are discarded (R383). -/
def State.emitRec (s : State) (q : Option QueueNo) (func : Option Nat) (r : Rec) : State :=
  let d := s.dev
  if q.any fun q => (d.queue q).fault then s
  else if d.ringOpen q && !d.inBacklog q then s.ringWrite q r
  else
    let full : Bool := match q with
      | none => d.hif.outFull
      | some q => (d.queue q).en && (d.queue q).full
    let d := if full then d.setEvt (match q with
      | none => .hifEvt 0
      | some q => (d.queue q).evt) 0x10 else d
    { s with dev := { d with hif := { d.hif with backlog := d.hif.backlog ++ [⟨q, func, r⟩] } } }
/-- A serving event emitted. -/
def State.emit (s : State) (q : Option QueueNo) (func : Option Nat) (e : SrvEv) : State :=
  s.emitRec q func ⟨match q with
    | none => e.out
    | some _ => s.dev.evBytes e, e.final⟩

/-- The backlog's events in order: each that its ring can take leaves, unless an earlier one of that ring stays. -/
def State.drainList : State → List BackEv → List (Option QueueNo) → List BackEv × State
  | s, [], _ => ([], s)
  | s, e :: es, shut =>
    if !shut.contains e.q && s.dev.ringOpen e.q then State.drainList (s.ringWrite e.q e.entry) es shut
    else
      let r := State.drainList s es (e.q :: shut)
      (e :: r.1, r.2)
/-- EVENT_BACKLOG_DRAIN (R378): events leave in order as space frees; a draining queue that owes nothing more is disabled (R383). -/
def State.backlogDrain (s : State) : State :=
  let r := s.drainList s.dev.hif.backlog []
  let d := { r.2.dev with hif := { r.2.dev.hif with backlog := r.1 } }
  { r.2 with dev := (List.range 64).foldl (fun d q => d.drained (BitVec.ofNat 6 q)) d }
def execEventBacklogDrain (s : State) : Host.Outcome State Fault Refusal := .next s.backlogDrain

/-! Fault records (R485). -/

/-- A fault record. -/
structure FaultRec where
  scope : Nat
  cls : Nat
  unit : Nat
  cause : Nat
  part : Option PartNo
  seq : Option SeqNo
  status : Byte
  detail : Nat
deriving DecidableEq, Repr

/-- Its 32 bytes. -/
def FaultRec.bytes (f : FaultRec) (time : Nat) : List Byte :=
  natLe 8 time ++ [BitVec.ofNat 8 f.scope, BitVec.ofNat 8 f.cls] ++ natLe 2 f.unit ++
  [BitVec.ofNat 8 f.cause, match f.part with
    | some p => BitVec.ofNat 8 p.toNat
    | none => 0xFF] ++
  natLe 2 (match f.seq with
    | some q => q.toNat
    | none => 0xFFFF) ++ [f.status, 0, 0, 0] ++ natLe 8 f.detail ++ [0, 0, 0, 0]
/-- The last 64 records of scope 3 or 4 and of causes 0x0C and 0x0E outlast a reset. -/
def FaultRec.kept (f : FaultRec) : Bool := f.scope == 3 || f.scope == 4 || f.cause == 0x0C || f.cause == 0x0E
/-- A record written to the log of 1,024. -/
def Dev.logFault (d : Dev) (f : FaultRec) : Dev :=
  { d with pwr := { d.pwr with log := (f.bytes d.now :: d.pwr.log).take 1024 } }
/-- A record written, and kept where R485 keeps it. -/
def State.logFault (s : State) (f : FaultRec) : State :=
  let b := f.bytes s.dev.now
  { s with
    dev := s.dev.logFault f
    nv := if f.kept then
      { s.nv with faults := (s.nv.faults ++ [b]).drop ((s.nv.faults.length + 1) - 64) } else s.nv }

end Sys2Proof.Machine
end

