-- ==== Sys2Proof/Machine/Copies.lean ====
section
/-! DEFINITION. Copies of firmware components in the boot flash, their validity, boot records, and activations that come to nothing
(spec/15 R418 to R421, R426, R428, R429). -/

namespace Sys2Proof.Machine

/-- Bytes of a component's area (R418). -/
def areaBytes (c : Nat) : Nat := [1, 2, 8, 4, 2, 4, 2, 2].getD c 0 * 1048576
/-- What an area holds that has not been written since the factory (log entry 36). -/
def areaDflt (slotB : Bool) : FwCopy := if slotB then FwCopy.blank else FwCopy.factory
/-- Key of an area. -/
def areaKey (slotB : Bool) (c : Nat) : Nat := b2n slotB * 8 + c
/-- Copy (c, s). -/
def Nv.copy (n : Nv) (slotB : Bool) (c : Nat) : FwCopy := Tbl.get (areaDflt slotB) n.area (areaKey slotB c)
def Nv.setCopy (n : Nv) (slotB : Bool) (c : Nat) (v : FwCopy) : Nv :=
  { n with area := Tbl.set (areaDflt slotB) n.area (areaKey slotB c) v }
/-- SVN floor of a component; 8 is the recovery image (R426). -/
def Nv.floorOf (n : Nv) (c : Nat) : Nat := Tbl.get 0 n.floor c
/-- Fuses blown until the floor equals an SVN. -/
def Nv.raiseFloor (n : Nv) (c svn : Nat) : Nv := { n with floor := Tbl.set 0 n.floor c (max svn (n.floorOf c)) }

/-- Why a copy is not valid for a component, in the order of R420, as a code of R433. -/
def Nv.invalid (n : Nv) (c : Nat) (v : FwCopy) : Option Nat :=
  if !v.formOk then some 0x02
  else if 4 ≤ v.keyIdx ∨ n.revoked.getLsbD v.keyIdx = true then some 0x04
  else if v.svn < n.floorOf c then some 0x03
  else if !v.digestOk || !v.sigOk then some 0x02
  else none
def Nv.valid (n : Nv) (slotB : Bool) (c : Nat) : Bool := (n.invalid c (n.copy slotB c)).isNone

/-- A component's copy read from the bytes of its area (R419). -/
def FwCopy.ofBytes (c : Nat) (bs : List Byte) : FwCopy :=
  let at' := fun lo n => leNat ((bs.drop lo).take n)
  let zero := fun lo n => ((bs.drop lo).take n).all (· == 0)
  let len := at' 12 4
  let body := (bs.drop 512).take len
  { version := BitVec.ofNat 32 (at' 4 4), svn := at' 8 4, feat := BitVec.ofNat 32 (at' 16 4), iface := BitVec.ofNat 32 (at' 20 4),
    requires := (List.range 8).map fun j => BitVec.ofNat 32 (at' (24 + 4 * j) 4), keyIdx := at' 56 1, gpv := BitVec.ofNat 8 (at' 57 1),
    formOk := at' 0 2 == 0xC1FC && at' 2 1 == 1 && at' 3 1 == c && zero 58 6 && zero 208 304 && decide (at' 8 4 < 64) &&
      decide (512 + len ≤ areaBytes c ∧ 512 + len ≤ bs.length),
    digestOk := Config.sha384 body == (bs.drop 64).take 48,
    sigOk := Config.ecdsaVerify (at' 56 1) (bs.take 112) ((bs.drop 112).take 96) }

/-- Every REQUIRES entry is met (R420). -/
def setCompatible (f : Nat → FwCopy) : Bool :=
  (List.range 8).all fun i => (List.range 8).all fun j =>
    let r := ((f i).requires.getD j 0).toNat
    let p := (f j).iface.toNat
    r == 0 || (p / 65536 == r / 65536 && decide (r % 65536 ≤ p % 65536))
/-- Feature bits a set of copies supports: those every copy supports (R419). -/
def setFeatures (f : Nat → FwCopy) : BitVec 128 :=
  Config.factoryFeatures &&& ((List.range 8).foldl (fun (w : W32) c => w &&& (f c).feat) 0xFFFFFFFF).zeroExtend 128

/-- The boot record that stands, or the one a slot A boot amounts to where there is none (R421, R422). -/
def Nv.recordNow (n : Nv) : BootRec := n.boot.getD ⟨0, 0, 0, 0⟩
/-- A record appended to the ring of 1,024; a full ring is erased first (R421). -/
def Nv.append (n : Nv) (r : BootRec) : Nv :=
  { n with boot := some { r with seqNo := n.recordNow.seqNo + 1 }, bootCount := if 1024 ≤ n.bootCount then 1 else n.bootCount + 1 }

/-- The slot that does not hold a component's running copy. -/
def Comp.other (c : Comp) : Bool := !c.runB
/-- A component back on the copy of its other slot. -/
def Comp.back (n : Nv) (i : Nat) (c : Comp) : Comp := { c with runB := c.other, run := n.copy c.other i, switched := false, insts := 0 }
/-- A component of an activation that comes to nothing: the old copy runs, the new one stays STAGED. -/
def Comp.unpend (n : Nv) (i : Nat) (c : Comp) : Comp :=
  if c.st = .pending then { (if c.switched then c.back n i else c) with st := .staged, reason := 0, insts := 0 } else c
/-- Components of a mask changed. -/
def Dev.modComps (d : Dev) (mask : Nat) (f : Nat → Comp → Comp) : Dev :=
  (setBits mask 8).foldl (fun d c => d.setComp c (f c (d.comp c))) d
/-- A LIVE activation dropped for the components of a mask. -/
def State.actDrop (s : State) (mask : Nat) : State :=
  let d := s.dev.modComps mask (Comp.unpend s.nv)
  let left := (List.range 8).any fun c => (d.comp c).st == .pending
  { s with dev := { d with fw := { d.fw with actFrom := if left then d.fw.actFrom else none } } }

end Sys2Proof.Machine
end

