-- ==== Sys2Proof/Machine/Sampler.lean ====
section
/-! DEFINITION. SAMPLE: one token a logit row under its slot's parameters and mask (spec/07 R182 to R185). -/

namespace Sys2Proof.Machine

/-- A row's parameters (R183). -/
structure SmpPar where
  temp : W32
  topP : W32
  topK : Nat
  zeros : Bool
deriving DecidableEq, Repr

def SmpPar.ofBytes (bs : List Byte) : SmpPar :=
  ⟨BitVec.ofNat 32 (leNat (bs.take 4)), BitVec.ofNat 32 (leNat ((bs.drop 4).take 4)), leNat ((bs.drop 8).take 2),
   ((bs.drop 10).take 6).all (· == 0)⟩

/-- Parameters outside R183 (SMP_BAD_PARAM, R185). -/
def SmpPar.tempBad (p : SmpPar) : Bool := f32IsNan p.temp || f32IsInf p.temp || (bitN p.temp.toNat 31 && !f32IsZero p.temp)
def SmpPar.topPBad (p : SmpPar) : Bool := f32IsNan p.topP || !f32Gt p.topP 0 || f32Gt p.topP oneF32
def SmpPar.bad (p : SmpPar) : Bool := p.tempBad || p.topPBad || decide (256 < p.topK) || !p.zeros

/-- A quotient of the sampler: the product with the reciprocal, each within R70 (log entry 22). -/
def smpDiv (c : CoreNo) (a b : W32) : W32 := f32Mul a (fnValue c.toNat .rcp b)

/-- The running state of a row's pass (R184). -/
structure SmpRun where
  m : W32
  s : W32
  cand : List (W32 × Nat)
  bad : Bool
deriving DecidableEq, Repr

/-- A candidate put in order: by x descending, an earlier token first among equals; the 256 largest stay. -/
def candPut (x : W32) (t : Nat) (c : List (W32 × Nat)) : List (W32 × Nat) :=
  ((c.takeWhile fun e => !f32Gt x e.1) ++ (x, t) :: c.dropWhile fun e => !f32Gt x e.1).take 256

/-- One logit of the pass. -/
def smpStep (c : CoreNo) (temp : W32) (allowed : Bool) (r : SmpRun) (x : W32) (t : Nat) : SmpRun :=
  if r.bad then r
  else if f32IsNan x || decide (x = 0x7F800000) then { r with bad := true }
  else if !allowed || decide (x = 0xFF800000) then r
  else
    let up := f32Gt x r.m
    let s0 := if up then f32Mul r.s (fnValue c.toNat .exp (smpDiv c (f32Sub r.m x) temp)) else r.s
    let m := if up then x else r.m
    { r with m := m, s := f32Add s0 (fnValue c.toNat .exp (smpDiv c (f32Sub x m) temp)), cand := candPut x t r.cand }

/-- Running sums. -/
def cumSums : W32 → List W32 → List W32
  | _, [] => []
  | a, p :: ps => f32Add a p :: cumSums (f32Add a p) ps

/-- The outcome of a row: status, token, probability of the token, candidates kept, and whether a draw was made. -/
structure SmpRow where
  st : Byte
  token : Nat
  logp : W32
  kept : Nat
  drew : Bool
deriving DecidableEq, Repr

/-- The choice among the candidates. TOP_P is compared as R184 writes it at 1.0 as well (DESIGN CHOICE, log entry 102). -/
def smpChoose (c : CoreNo) (p : SmpPar) (temp : W32) (r : SmpRun) (draw : BitVec 24) : SmpRow :=
  let ps := r.cand.map fun e => smpDiv c (fnValue c.toNat .exp (smpDiv c (f32Sub e.1 r.m) temp)) r.s
  let k := min (if p.topK = 0 then 256 else p.topK) r.cand.length
  let cum := (cumSums 0 ps).take k
  if f32IsZero p.temp then
    ⟨stDONE, (r.cand.headD (0, 0)).2, fnValue c.toNat .log (ps.headD 0), 1, false⟩
  else
    let n := match cum.findIdx? fun v => !f32Gt p.topP v with
      | some i => i + 1
      | none => k
    let u := f32Mul (ratF32 false draw.toNat (2 ^ 24) 0) (cum.getD (n - 1) 0)
    let i := match (cum.take n).findIdx? fun v => f32Gt v u with
      | some i => i
      | none => n - 1
    ⟨stDONE, (r.cand.getD i (0, 0)).2, fnValue c.toNat .log (ps.getD i 0), n, true⟩

/-- A row treated (R184, R185). Bad parameters are reported before what the logits hold (DESIGN CHOICE, log entry 102). -/
def smpRow (d : Dev) (x : Desc) (row : Nat) (draw : BitVec 24) : SmpRow :=
  let c := x.core
  let p := SmpPar.ofBytes (d.memRead (x.w 2) (32 * row) 16).1
  if p.bad then ⟨0x82, 0xFFFFFFFF, 0, 0, false⟩
  else
    let temp := if f32IsZero p.temp then oneF32 else p.temp
    let mask := if smMasked x then (d.memRead (x.w 6) (row * bitmapBytes (smVocab x)) (bitmapBytes (smVocab x))).1 else []
    let r := (List.range (smVocab x)).foldl (fun r t =>
      let v := strmAt d (x.w 1) (smType x) (row * smRstr x + t * tyW (smType x))
      smpStep c temp (!smMasked x || (mask.getD (t / 8) 0).getLsbD (t % 8)) r v t) ⟨0xFF800000, 0, [], false⟩
    if r.bad then ⟨stUNCORR, 0xFFFFFFFF, 0, 0, false⟩
    else if r.cand.isEmpty then ⟨0x81, 0xFFFFFFFF, 0, 0, false⟩
    else smpChoose c p temp r draw

/-- One row sampled and its slot written; LOGPROB and KEPT of a failed row are not stated and are free (log entry 5). -/
def Dev.smpDo (d : Dev) (x : Desc) (row : Nat) : Dev × Nat :=
  let o := smpRow d x row (Config.samplerDraw d.draws)
  let d := if o.drew then { d with draws := d.draws + 1 } else d
  let q := if o.st = stDONE then (natLe 4 o.logp.toNat ++ natLe 2 o.kept, d) else d.freeBytes 6
  (q.2.memWrite (x.w 2) (32 * row + 16) (natLe 4 o.token ++ q.1 ++ [o.st] ++ List.replicate 5 0), if o.st = stDONE then 0 else 1)

/-- The rows in order, and how many failed. -/
def Dev.smpRows (d : Dev) (x : Desc) : Dev × Nat :=
  (List.range (smRows x)).foldl (fun p r =>
    let q := p.1.smpDo x r
    (q.1, p.2 + q.2)) (d, 0)

/-- Unwritten lines of the logits, the slots and the bitmaps (R86). -/
def smZeros (d : Dev) (x : Desc) : Nat :=
  d.unwritten x.core (spOff (x.w 1)) (smLogits x).span + d.unwritten x.core (spOff (x.w 2)) (smSlots x).span +
  (if smMasked x then d.unwritten x.core (spOff (x.w 6)) (smMask x).span else 0)

/-- SAMPLE samples every row; with a failed row it completes SMP_ROW_FAULT (R185, R188, R189). -/
def doSample (t : Tag) (d : Dev) : Dev :=
  let x := (d.tagE t).desc
  if !d.runs t 0x12 then d
  else
    let p := d.smpRows x
    let d := ((p.1.zreads x.core (smZeros d x)).bankStall x.core).count (veReg x.core 0x28) (0xB030 * 256 + 5) (smRows x)
    if p.2 = 0 then d.completeOk t (smRows x)
    else ((d.count (veReg x.core 0x30) (0xB030 * 256 + 6) p.2).complete t 0x80 0 p.2).setEvt (.veEvt x.core) 8

def execSample (t : Tag) (s : State) : Host.Outcome State Fault Refusal := s.onDev (doSample t)

end Sys2Proof.Machine
end

