-- ==== Sys2Proof/Machine/Mask.lean ====
section
/-! DEFINITION. The MASK unit: allowed-token bitmaps and automaton states (spec/11 R307 to R310). -/

namespace Sys2Proof.Machine

/-- A little-endian number of an automaton. -/
def Dev.auNat (d : Dev) (o : ObjNo) (off n : Nat) : Nat := leNat (d.objRead o off n)
def Dev.auStates (d : Dev) (o : ObjNo) : Nat := d.auNat o 8 4
def Dev.auMasks (d : Dev) (o : ObjNo) : Nat := d.auNat o 12 4
def Dev.auStart (d : Dev) (o : ObjNo) : Nat := d.auNat o 16 4
/-- The header is valid for a vocabulary and its tables lie within the object (R307, R310). -/
def Dev.auOk (d : Dev) (o : ObjNo) (vocab : Nat) : Bool :=
  d.auNat o 0 2 == 0xC1AE && d.auNat o 2 1 == 1 && d.auNat o 60 4 == crc32c (d.objRead o 0 60) && d.auNat o 4 4 == vocab &&
  decide (64 + 16 * d.auStates o ≤ (d.obj o).size) &&
  decide (d.auNat o 24 8 + 16 * d.auNat o 20 4 ≤ (d.obj o).size) &&
  decide (d.auNat o 32 8 + d.auMasks o * bitmapBytes vocab ≤ (d.obj o).size)
/-- A valid automaton's header fields are in R307's ranges, too: STATES, MASKS, tables at multiples of 64, zero bytes where it says zero. -/
def Dev.auHdrOk (d : Dev) (o : ObjNo) : Bool :=
  decide (1 ≤ d.auStates o ∧ d.auStates o ≤ 2 ^ 24) && decide (1 ≤ d.auMasks o ∧ d.auMasks o ≤ 65536) &&
  d.auNat o 24 8 % 64 == 0 && d.auNat o 32 8 % 64 == 0 && d.auNat o 3 1 == 0 && d.auNat o 40 20 == 0
/-- Field of state `s`: MASK_ID, FIRST, COUNT at bytes 0, 4, 8. -/
def Dev.auState (d : Dev) (o : ObjNo) (s at_ : Nat) : Nat := d.auNat o (64 + 16 * s + at_) 4
/-- The FINAL bit of state `s`. -/
def Dev.auFinal (d : Dev) (o : ObjNo) (s : Nat) : Bool := bitN (d.auNat o (64 + 16 * s + 12) 1) 0
/-- Field of transition `t`: LO, HI, NEXT at bytes 0, 4, 8. -/
def Dev.auTrans (d : Dev) (o : ObjNo) (t at_ : Nat) : Nat := d.auNat o (d.auNat o 24 8 + 16 * t + at_) 4
/-- Bisection over transitions `lo` to `hi - 1` (R309): those visited, and NEXT of the one that holds the token. -/
def Dev.auSearch (d : Dev) (o : ObjNo) (tok : Nat) : Nat → Nat → Nat → Option Nat
  | 0, _, _ => none
  | fuel + 1, lo, hi =>
    if hi ≤ lo then none
    else
      let m := (lo + hi) / 2
      if tok < d.auTrans o m 0 then Dev.auSearch d o tok fuel lo m
      else if d.auTrans o m 4 < tok then Dev.auSearch d o tok fuel (m + 1) hi
      else some (d.auTrans o m 8)
/-- NEXT of a state for a token. -/
def Dev.auNext (d : Dev) (o : ObjNo) (s tok : Nat) : Option Nat :=
  d.auSearch o tok 33 (d.auState o s 4) (d.auState o s 4 + d.auState o s 8)

/-- STATE for a sequence without GRAMMAR (R309, R312). -/
def noState : Nat := 0xFFFFFFFF
/-- What a row comes to: its status, NEXT where ADVANCE found one, FINAL, and the bitmap FILL writes. -/
structure MaskRow where
  st : Byte
  next : Nat
  final : Bool
  bits : List Byte
deriving DecidableEq, Repr
/-- A bitmap with a 1 at every bit below VOCAB (the bits beyond it are ignored and written zero, log entry 26). -/
def fullBitmap (vocab : Nat) : List Byte := natLe (bitmapBytes vocab) (2 ^ vocab - 1)
/-- One FILL row. -/
def maskFillRow (d : Dev) (o : ObjNo) (vocab s : Nat) : MaskRow :=
  if s = noState then ⟨0, 0, false, fullBitmap vocab⟩
  else if d.auStates o ≤ s then ⟨0x82, 0, false, List.replicate (bitmapBytes vocab) 0⟩
  else if d.auMasks o ≤ d.auState o s 0 then ⟨0x82, 0, d.auFinal o s, List.replicate (bitmapBytes vocab) 0⟩
  else ⟨0, 0, d.auFinal o s, d.objRead o (d.auNat o 32 8 + d.auState o s 0 * bitmapBytes vocab) (bitmapBytes vocab)⟩
/-- One ADVANCE row; a state out of range is MK_BAD_STATE (log entry 26). -/
def maskAdvRow (d : Dev) (o : ObjNo) (s tok : Nat) : MaskRow :=
  if d.auStates o ≤ s then ⟨0x82, noState, false, []⟩
  else match d.auNext o s tok with
    | none => ⟨0x83, noState, false, []⟩
    | some n => ⟨0, n, decide (n < d.auStates o) && d.auFinal o n, []⟩
/-- Inputs of row `r`: STATE and TOKEN. -/
def maskIn (d : Dev) (x : Desc) (r at_ : Nat) : Nat := leNat (d.memRead (x.w 2) (16 * r + at_) 4).1
/-- A row of either function. -/
def maskRow (d : Dev) (x : Desc) (r : Nat) : MaskRow :=
  let o := urObj (x.w 1)
  if mkFunc x = 0 then maskFillRow d o (mkVocab x) (maskIn d x r 0) else maskAdvRow d o (maskIn d x r 0) (maskIn d x r 4)
/-- A row's outputs stored (R308). -/
def maskStore (x : Desc) (r : Nat) (m : MaskRow) (d : Dev) : Dev :=
  let d := if mkFunc x = 1 then d.memWrite (x.w 2) (16 * r + 8) (natLe 4 m.next) else d
  let d := d.memWrite (x.w 2) (16 * r + 12) [m.st, if m.final then 1 else 0, 0, 0]
  d.memWrite (x.w 2) (mkB0 (mkRows x) + r * bitmapBytes (mkVocab x)) m.bits
/-- The bytes of the automaton a row reads beyond its state record, besides the header. -/
def maskReads (d : Dev) (x : Desc) (r : Nat) : List (Nat × Nat) :=
  let o := urObj (x.w 1)
  let s := maskIn d x r 0
  if d.auStates o ≤ s then []
  else
    (x.w 1 + 64 + 16 * s, 16) ::
    (if mkFunc x = 0 then
      (if d.auState o s 0 < d.auMasks o then [(x.w 1 + d.auNat o 32 8 + d.auState o s 0 * bitmapBytes (mkVocab x), bitmapBytes (mkVocab x))] else [])
    else [(x.w 1 + d.auNat o 24 8 + 16 * d.auState o s 4, 16 * d.auState o s 8)])
/-- Every row in order, and the rows that failed. -/
def maskRows (x : Desc) (d : Dev) : Dev × Nat :=
  let ms := (List.range (mkRows x)).map (maskRow d x)
  ((List.range (mkRows x)).foldl (fun d r => maskStore x r (ms.getD r ⟨0, 0, false, []⟩) d) d,
   (ms.filter fun m => m.st ≠ 0).length)
/-- A MASK command of function `f` once its unit runs it. -/
def Dev.maskRun (d : Dev) (t : Tag) (f : Nat) : Dev :=
  let x := (d.tagE t).desc
  let o := urObj (x.w 1)
  if !d.runs t 0x14 || mkFunc x != f then d
  else match d.access [(x.w 1, 64), (x.w 2, 16 * mkRows x)] [] with
    | (.damaged _ _, d) => d.uncorrectable t 0 0
    | (.waits, d) => d
    | (.ready, d) =>
      if !d.auOk o (mkVocab x) then (d.complete t 0x80 0 0).setEvt .srvEvt 0x80
      else match d.access ((List.range (mkRows x)).flatMap (maskReads d x)) [((mkWork x).addr, (mkWork x).span)] with
        | (.damaged _ _, d) => d.uncorrectable t 0 0
        | (.waits, d) => d
        | (.ready, d) =>
          let p := maskRows x d
          let d := p.1.count (srvReg 0x50) (0x4004 * 256 + 9) (mkRows x)
          if p.2 = 0 then d.completeOk t (mkRows x) else (d.complete t 0x81 0 p.2).setEvt .srvEvt 0x80

def doMaskFill (t : Tag) (d : Dev) : Dev := d.maskRun t 0
def execMaskFill (t : Tag) (s : State) : Host.Outcome State Fault Refusal := s.onDev (doMaskFill t)
def doMaskAdvance (t : Tag) (d : Dev) : Dev := d.maskRun t 1
def execMaskAdvance (t : Tag) (s : State) : Host.Outcome State Fault Refusal := s.onDev (doMaskAdvance t)

end Sys2Proof.Machine
end

