-- ==== Sys2Proof/Machine/Tiers.lean ====
section
/-! DEFINITION. The tier engine: quotas, eviction, the tier commands, moves and on-demand fetch (spec/08 R194 to R212). -/

namespace Sys2Proof.Machine

/-! Capacities, usage and floors, in granules (R194, R200, R201, R211, R224). -/

/-- Bytes of a Cellar block. -/
def blkBytes : Nat := 50331648
/-- Channels in service. -/
def Dev.chans (d : Dev) : List Nat := setBits d.cellar.chmap.toNat 64
/-- A data block. -/
def dataBlk (b : Nat) : Bool := decide (11 ≤ b ∧ b < 5472)
/-- Listed data blocks of channels in service that satisfy `p`. -/
def Dev.countBlks (d : Dev) (p : Blk → Bool) : Nat :=
  (d.cellar.blk.filter fun e => dataBlk (e.1 % 5472) && d.cellar.chmap.getLsbD (e.1 / 5472) && p e.2).length
/-- Data blocks neither RETIRED nor TEST (R221). -/
def Dev.t3Blocks (d : Dev) : Nat := d.chans.length * 5461 - d.countBlks fun b => b.st == .retired || b.st == .test
/-- Object capacity of a tier in bytes. -/
def Dev.capacity (d : Dev) : Tier → Nat
  | .t1 => (d.tierUnits .t1).length * 6442450944 - 2147483648
  | .t2 => (d.tierUnits .t2).length * 68719476736
  | .t3 => d.t3Blocks * blkBytes
/-- Floor of partition `p` in a tier, in bytes (R200, R218). -/
def Dev.floor (d : Dev) (t : Tier) (p : Nat) : Nat :=
  match t with
  | .t1 => Tbl.get 0 d.tier.floor1 p
  | .t2 => Tbl.get 0 d.tier.floor2 p
  | .t3 => Tbl.get 0 d.tier.floor3 p
def Dev.setFloor (d : Dev) (t : Tier) (p v : Nat) : Dev :=
  match t with
  | .t1 => { d with tier := { d.tier with floor1 := Tbl.set 0 d.tier.floor1 p v } }
  | .t2 => { d with tier := { d.tier with floor2 := Tbl.set 0 d.tier.floor2 p v } }
  | .t3 => { d with tier := { d.tier with floor3 := Tbl.set 0 d.tier.floor3 p v } }
/-- Sum of a list. -/
def sumNat (l : List Nat) : Nat := l.foldl (· + ·) 0
def Dev.floorSum (d : Dev) (t : Tier) : Nat := sumNat ((List.range 8).map (d.floor t))
/-- Granules an object holds in a tier, and how many of them are non-evictable. -/
def Obj.held (b : Obj) (t : Tier) : Nat × Nat :=
  match b.eff with
  | .live =>
    let k := (b.gran.filter fun e => b.home e.2 != b.place).length
    let n := if t = b.place then b.granCount - k else if t = .t3 then 0 else k
    (n, n)
  | .opened => if t = b.place then (b.granCount, b.granCount) else (0, 0)
  | .sealed =>
    let c := b.gran.filter fun e => (e.2.at t).isSome
    (c.length, (c.filter fun e => e.2.pins != 0 && e.2.pinTier == t).length)
  | _ => (0, 0)
/-- Objects of a partition. -/
def Dev.objsOf (d : Dev) (p : PartNo) : List Obj := (d.tier.obj.map (·.2)).filter fun b => b.part == p && b.st != .free
/-- Usage and non-evictable granules of a partition in T1 or T2. -/
def Dev.usage (d : Dev) (p : PartNo) (t : Tier) : Nat × Nat :=
  let hs := (d.objsOf p).map fun b => b.held t
  (sumNat (hs.map (·.1)), sumNat (hs.map (·.2)))
/-- T3 usage in bytes, all of it non-evictable. -/
def Dev.t3Usage (d : Dev) (p : PartNo) : Nat :=
  sumNat ((d.cellar.cat.filter fun e => e.2.used && e.2.part == p).map fun e => e.2.blocks * blkBytes) +
  sumNat ((d.objsOf p).map (·.t3))
/-- Granules taken in a tier, those moves are bringing included. -/
def Dev.taken (d : Dev) (t : Tier) : Nat :=
  sumNat ((d.tier.obj.map (·.2)).map fun b => (b.held t).1) + (d.tier.moves.filter fun m => m.dst == t).length
/-- Blocks of each channel an entry of `n` granules takes over `l` channels, in placement order (R224). -/
def blocksOf (l n : Nat) : List Nat := (List.range l).map fun i => ceilDiv ((n + l - 1 - i) / l) 768
/-- Stored size of `n` granules with the channels now in service. -/
def Dev.storedSize (d : Dev) (n : Nat) : Nat := sumNat (blocksOf d.chans.length n) * blkBytes
/-- Granules that running commands of a partition have passed their checks for and will hold in a tier as non-evictable bytes, and do not hold yet
(R201, R206): those still to be acted on, and those on the move. -/
def Dev.pledged (d : Dev) (p : PartNo) (t : Tier) : Nat :=
  let todo := d.tier.run.flatMap fun r =>
    let x := (d.tagE (BitVec.ofNat 12 r.1)).desc
    let b := d.obj (urObj (x.w 1))
    (r.2.todo.filter fun g => x.part == p &&
      if b.eff = .live then x.op == (if t = .t1 then 0x42 else 0x43) && b.home (b.g g) != t
      else (x.op == 0x44 || x.op == 0x46) && (if trTier x = 1 then Tier.t1 else .t2) == t && !((b.g g).pins != 0 && (b.g g).pinTier == t)).map
        fun g => ((urObj (x.w 1)), g)
  let moves := (d.tier.moves.filter fun m => m.dst == t && (d.obj m.obj).part == p &&
    (m.working || (!m.pinners.isEmpty && (d.gran m.obj m.g).pins == 0))).map fun m => (m.obj, m.g)
  (todo ++ moves).eraseDups.length
/-- The floor and quota check of a command that adds `ne` non-evictable granules and `fr` granules in all, after `freed` leave the
non-evictable ones (R200, R201, R208). -/
def Dev.need (d : Dev) (p : PartNo) (t : Tier) (ne fr freed : Nat) : Option (Byte × Nat) :=
  let fl := d.floor t p.toNat / granSize
  let n := (d.usage p t).2 + d.pledged p t + ne - freed
  let pool := (d.capacity t - d.floorSum t) / granSize
  if ne ≠ 0 ∧ fl < n then some (0x81, n - fl)
  else if fl + pool + ne < fr + n then some (0x80, fr + n - (fl + pool + ne))
  else none

/-! Eviction (R202). -/

/-- A copy that may be evicted. -/
structure Cand where
  key : Nat
  obj : ObjNo
  g : Nat
deriving DecidableEq, Repr
/-- In ascending key, earlier ones first among equals. -/
def Cand.insert (c : Cand) : List Cand → List Cand
  | [] => [c]
  | e :: es => if c.key < e.key then c :: e :: es else e :: Cand.insert c es
def sortCands (l : List Cand) : List Cand := l.foldl (fun s c => c.insert s) []
/-- Unpinned copies in a tier of granules that do not move: released ones, oldest release first, then the others, oldest AGE first. -/
def Dev.cands (d : Dev) (t : Tier) : List Cand :=
  let all := (d.tier.obj.filter fun e => e.2.eff == .sealed).flatMap fun e =>
    (e.2.gran.filter fun g => (g.2.at t).isSome && !(g.2.pins != 0 && g.2.pinTier == t) && !d.moving (BitVec.ofNat 16 e.1) g.1).map fun g =>
      (e.2.age.toNat, (BitVec.ofNat 16 e.1 : ObjNo), g.1, g.2.rel t)
  sortCands (all.filterMap fun c => c.2.2.2.map fun r => ⟨r, c.2.1, c.2.2.1⟩) ++
  sortCands ((all.filter fun c => c.2.2.2.isNone).map fun c => ⟨c.1, c.2.1, c.2.2.1⟩)
/-- A copy dropped from a tier. -/
def Dev.dropCopy (d : Dev) (o : ObjNo) (g : Nat) (t : Tier) : Dev := d.setGran o g ((d.gran o g).drop t)
/-- One copy evicted, if its partition is the requester or above its floor, while frames are short. -/
def Dev.evictOne (p : PartNo) (t : Tier) (n : Nat) (d : Dev) (c : Cand) : Dev :=
  let q := (d.obj c.obj).part
  if d.taken t + n ≤ d.capacity t / granSize then d
  else if q = p ∨ d.floor t q.toNat / granSize < (d.usage q t).1 then
    (d.dropCopy c.obj c.g t).count (tierReg 0x28) (0x200A * 256 + 2) 1
  else d
/-- Frames re-encryption holds back in a tier while it works (R447). -/
def Dev.heldBackFrames (d : Dev) : Nat := if d.sec.part.any fun p => p.2.live2 && p.2.serves then 64 else 0
/-- `k` frames made free for a partition: whether they are, and the device after the evictions. -/
def Dev.room (d : Dev) (p : PartNo) (t : Tier) (k : Nat) : Bool × Dev :=
  let n := k + d.heldBackFrames
  let d := if d.taken t + n ≤ d.capacity t / granSize then d else (d.cands t).foldl (Dev.evictOne p t n) d
  (decide (d.taken t + n ≤ d.capacity t / granSize), d)

/-! Granules and moves (R206, R209). -/

/-- The fastest tier other than `dst` that holds a copy of a sealed granule (R204). -/
def Gran.source (v : Gran) (dst : Tier) : Option Tier :=
  if dst ≠ .t1 ∧ v.t1.isSome then some .t1 else if dst ≠ .t2 ∧ v.t2.isSome then some .t2 else none
/-- Key vintage of a granule's data (R199, R446). -/
def Dev.granVint (d : Dev) (o : ObjNo) (g : Nat) : BitVec 16 :=
  let b := d.obj o
  match (b.g g).t1, (b.g g).t2 with
  | some f, _ => f.vint
  | none, some f => f.vint
  | none, none => if b.eff = .sealed then Tbl.get 0 (d.cat b.cat.toNat).vint g else (d.part b.part).vintCur
/-- A granule set on its way. -/
def Dev.startMove (d : Dev) (o : ObjNo) (g : Nat) (src : Option Tier) (dst : Tier) (why : MoveFor) (pinners : List Tag)
    (dropT1 working : Bool) : Dev :=
  { d with tier := { d.tier with moves := d.tier.moves ++
      [⟨o, g, src, dst, { d.frameFor o dst g with vint := d.granVint o g }, why, pinners, [], dropT1, working⟩] } }
/-- One pin taken in a tier. -/
def Dev.pinOne (d : Dev) (o : ObjNo) (g : Nat) (t : Tier) : Dev :=
  d.setGran o g ({ d.gran o g with pins := (d.gran o g).pins + 1, pinTier := t }.setRel t none)
/-- One pin given up; the last one given up by WINDOW_ADVANCE puts the copy on the released list (R202, R209). -/
def Dev.unpinOne (d : Dev) (o : ObjNo) (g : Nat) (release : Bool) : Dev :=
  let v := d.gran o g
  if release && v.pins == 1 then
    let d' := d.setGran o g ({ v with pins := 0 }.setRel v.pinTier (some d.tier.relNo))
    { d' with tier := { d'.tier with relNo := d.tier.relNo + 1 } }
  else d.setGran o g { v with pins := v.pins - 1 }
/-- What a committed move counts: bytes laid down, for a working granule gone to T2 and a sealed one that leaves T1 for it, else bytes decanted,
and a granule brought by on-demand fetch (R204, R216). -/
def Dev.countMove (d : Dev) (m : Mv) : Dev :=
  let d := if m.why = .fetch ∧ m.working = false then d.count (tierReg 0x20) (0x200A * 256 + 1) 1 else d
  if m.dropT1 ∨ (m.working ∧ m.dst = .t2) then d.count (tierReg 0x40) (0x200A * 256 + 5) granSize
  else d.count (tierReg 0x38) (0x200A * 256 + 4) granSize
/-- The move of a granule, if one is in flight. -/
def Dev.moveOf (d : Dev) (o : ObjNo) (g : Nat) : Option Mv := d.tier.moves.find? fun m => decide (m.obj = o ∧ m.g = g)
def Dev.setTierRun (d : Dev) (t : Tag) (r : TierRun) : Dev := { d with tier := { d.tier with run := Tbl.put t.toNat r d.tier.run } }

/-- The tier a TIER code names. -/
def tierOf (c : Nat) : Tier := if c = 1 then .t1 else if c = 2 then .t2 else .t3
/-- What a command does with one granule that does not move, on the state it finds: nothing, something done at once, or a move to
start (R206). -/
inductive GAct where
  | nothing
  | now (f : Dev)
  | start (src : Option Tier) (dst : Tier) (pin dropT1 working : Bool)

/-- A working granule moved to `dst`: an UNWRITTEN one moves its reservation only. -/
def workAct (d : Dev) (o : ObjNo) (g : Nat) (dst : Tier) : GAct :=
  let b := d.obj o
  let v := b.g g
  let src := b.home v
  if src = dst then .nothing
  else if (v.at src).isNone then .now (d.setGran o g { v with resv := if dst = b.place then none else some dst })
  else .start (some src) dst false false true
/-- A sealed granule given a copy in `dst`. -/
def copyAct (d : Dev) (o : ObjNo) (g : Nat) (dst : Tier) : GAct :=
  if ((d.gran o g).at dst).isSome then .nothing else .start ((d.gran o g).source dst) dst false false false
/-- What command `x` does with granule `g` of its target. -/
def granAct (d : Dev) (x : Desc) (g : Nat) : GAct :=
  let o := urObj (x.w 1)
  let b := d.obj o
  let v := b.g g
  let t := tierOf (trTier x)
  if x.op = 0x42 then
    if b.eff = .live then (if t = .t1 then workAct d o g .t1 else .nothing) else copyAct d o g t
  else if x.op = 0x43 then
    if b.eff = .live then workAct d o g .t2
    else if t = .t2 then
      (if v.t1.isNone then .nothing
       else if v.t2.isSome then .now (d.dropCopy o g .t1)
       else .start (some .t1) .t2 false true false)
    else if v.t1.isSome ∨ v.t2.isSome then .now (d.setGran o g ((v.drop .t1).drop .t2))
    else .nothing
  else if (v.at t).isSome then .now (d.pinOne o g t)
  else .start (v.source t) t true false false
/-- The granules of a command's range. -/
def trGrans (x : Desc) : List Nat := gransOf (urOff (x.w 1)) (trLen x)
def trRelGrans (x : Desc) : List Nat := gransOf (urOff (x.w 5)) (trRelLen x)
/-- A command accepted earlier still has the granule to act on (R209). -/
def Dev.earlierOn (d : Dev) (e : TagE) (o : ObjNo) (g : Nat) : Bool :=
  d.tier.run.any fun r =>
    let u := d.tagE (BitVec.ofNat 12 r.1)
    decide (u.order < e.order) && urObj (u.desc.w 1) == o && r.2.todo.contains g
/-- A command that moves sealed granules to `dst` joins a fetch that brings one there (R209). -/
def Dev.joins (d : Dev) (m : Mv) (x : Desc) : Bool :=
  m.why == .fetch && m.dst == tierOf (trTier x) && (x.op == 0x42 || x.op == 0x44 || x.op == 0x46) && (d.obj m.obj).eff == .sealed
/-- One granule of a running command: acted on, or left for later, as DECANT and LAY_DOWN leave one that needs no move until those before it
have moved (R208). Answers whether it was dealt with and the count it adds; none where no frame can be had. -/
def Dev.granStep (d : Dev) (t : Tag) (g : Nat) : Option (Bool × Nat × Dev) :=
  let e := d.tagE t
  let x := e.desc
  let o := urObj (x.w 1)
  if d.earlierOn e o g then some (false, 0, d)
  else match d.moveOf o g with
    | some m =>
      if d.joins m x then
        some (true, 1, { d with tier := { d.tier with moves := d.tier.moves.map fun n =>
          if n = m then (if x.op = 0x42 then { m with joined := m.joined ++ [t] } else { m with pinners := m.pinners ++ [t] }) else n } })
      else some (false, 0, d)
    | none =>
      match granAct d x g with
      | .nothing => some (true, 0, d)
      | .now d' => if (x.op = 0x42 ∨ x.op = 0x43) ∧ d.movesOf t = true then some (false, 0, d) else some (true, 1, d')
      | .start src dst pin dropT1 working =>
        if 256 ≤ d.tier.moves.length then some (false, 0, d)
        else
          let r := d.room (d.obj o).part dst 1
          if r.1 then some (true, 1, r.2.startMove o g src dst (.cmd t) (if pin then [t] else []) dropT1 working) else none
/-- The granules of `todo` in ascending offset, up to the first that is left for later (R206): those left over, the count, the device; none
where no frame can be had. -/
def Dev.granSteps (t : Tag) : List Nat → Nat → Dev → Option (List Nat × Nat × Dev)
  | [], n, d => some ([], n, d)
  | g :: gs, n, d =>
    match d.granStep t g with
    | none => none
    | some (true, k, d) => Dev.granSteps t gs (n + k) d
    | some (false, _, d) => some (g :: gs, n, d)
/-- Granules command `u`, running, has still to act on or to move: all of both ranges before it has begun (R209). -/
def Dev.pendingOn (d : Dev) (u : Tag) (o : ObjNo) (g : Nat) : Bool :=
  let x := (d.tagE u).desc
  match d.tierRun u with
  | some r => (urObj (x.w 1) == o && r.todo.contains g) || d.tier.moves.any fun m => m.waitedBy u && m.obj == o && m.g == g
  | none => (urObj (x.w 1) == o && (trGrans x).contains g) || (x.op == 0x46 && urObj (x.w 5) == o && (trRelGrans x).contains g)
/-- A range command accepted earlier has not dealt with a granule that this one names: this one waits, and then acts on the new state (R209). -/
def Dev.rangeBlocked (d : Dev) (t : Tag) : Bool :=
  let e := d.tagE t
  let x := e.desc
  let gs := (trGrans x).map (fun g => (urObj (x.w 1), g)) ++ if x.op = 0x46 then (trRelGrans x).map fun g => (urObj (x.w 5), g) else []
  d.cores.tag.any fun u => u.2.st == .running && decide (0x42 ≤ u.2.desc.op ∧ u.2.desc.op ≤ 0x46 ∧ u.2.order < e.order) &&
    gs.any fun m => d.pendingOn (BitVec.ofNat 12 u.1) m.1 m.2
/-- A running range command goes on with the granules left to it, and completes when none is left and no move of it is in flight. A frame
that cannot be had after the start is a failed access (R208). -/
def Dev.tierStep (d : Dev) (t : Tag) : Dev :=
  match d.tierRun t with
  | none => d
  | some r =>
    match Dev.granSteps t r.todo r.count d with
    | none => d.uncorrectable t 0x000D 0
    | some (left, n, d) =>
      let d := d.setTierRun t ⟨left, n⟩
      if left = [] ∧ d.movesOf t = false then
        { d with tier := { d.tier with run := Tbl.del t.toNat d.tier.run } }.completeOk t n
      else d
/-- Every running range command goes on, in acceptance order. -/
def Dev.tierPump (d : Dev) : Dev :=
  let ts := sortCands (d.tier.run.map fun r => ⟨(d.tagE (BitVec.ofNat 12 r.1)).order, 0, r.1⟩)
  ts.foldl (fun d c => d.tierStep (BitVec.ofNat 12 c.g)) d

/-! Start checks (R206, R208). -/

/-- Granules of both ranges of a WINDOW_ADVANCE (R209). -/
def trShared (x : Desc) (g : Nat) : Bool := x.op == 0x46 && urObj (x.w 1) == urObj (x.w 5) && (trGrans x).contains g && (trRelGrans x).contains g
/-- A granule is pinned in a tier. -/
def Gran.pinnedIn (v : Gran) (t : Tier) : Bool := v.pins != 0 && v.pinTier == t
/-- The first of two answers. -/
def orElse' (a b : Option (Byte × Nat)) : Option (Byte × Nat) := match a with
  | some r => some r
  | none => b
/-- The first granule of a list that satisfies `p`, as a status with that granule as RESULT. -/
def badGran (st : Byte) (gs : List Nat) (p : Nat → Bool) : Option (Byte × Nat) := (gs.find? p).map fun g => (st, g)
/-- PIN of granules `gs` in tier `t`, with `freed` pins given up first. -/
def pinCheck (d : Dev) (p : PartNo) (o : ObjNo) (gs : List Nat) (t : Tier) (freed : Nat) : Option (Byte × Nat) :=
  let b := d.obj o
  if b.eff ≠ .sealed then some (0x82, 0)
  else
    orElse' (badGran 0x86 gs fun g => (b.g g).damaged)
    (orElse' (if gs.any fun g => (b.g g).pins != 0 && (b.g g).pinTier != t then some (0x82, 0) else none)
    (orElse' (badGran 0x84 gs fun g => decide (15 ≤ (b.g g).pins))
      (d.need p t (gs.filter fun g => !(b.g g).pinnedIn t).length (gs.filter fun g => ((b.g g).at t).isNone).length freed)))
/-- UNPIN of granules. -/
def unpinCheck (d : Dev) (o : ObjNo) (gs : List Nat) : Option (Byte × Nat) :=
  if (d.obj o).eff ≠ .sealed then some (0x82, 0) else badGran 0x84 gs fun g => (d.gran o g).pins == 0
/-- The check of a range command's whole range at start. -/
def rangeCheck (d : Dev) (x : Desc) : Option (Byte × Nat) :=
  let o := urObj (x.w 1)
  let b := d.obj o
  let gs := trGrans x
  let t := tierOf (trTier x)
  if b.eff = .opened then some (0x82, 0)
  else if x.op = 0x42 then
    let up := (gs.filter fun g => t == .t1 && b.home (b.g g) == .t2).length
    orElse' (badGran 0x86 gs fun g => (b.g g).damaged)
      (if b.eff = .live then d.need x.part .t1 up up 0
       else d.need x.part t 0 (gs.filter fun g => ((b.g g).at t).isNone).length 0)
  else if x.op = 0x43 then
    let down := (gs.filter fun g => b.home (b.g g) == .t1).length
    if b.eff = .live ∧ t = .t3 then some (0x82, 0)
    else
      orElse' (badGran 0x85 gs fun g => (b.g g).pinnedIn .t1 || (t == .t3 && (b.g g).pinnedIn .t2))
        (if b.eff = .live then d.need x.part .t2 down down 0
         else if t = .t2 then d.need x.part .t2 0 (gs.filter fun g => (b.g g).t1.isSome && (b.g g).t2.isNone).length 0
         else none)
  else if x.op = 0x44 then pinCheck d x.part o gs t 0
  else if x.op = 0x45 then unpinCheck d o gs
  else
    let ro := urObj (x.w 5)
    let rel := (trRelGrans x).filter fun g => !trShared x g
    orElse' (unpinCheck d ro rel)
      (pinCheck d x.part o (gs.filter fun g => !trShared x g) t
        (rel.filter fun g => (d.gran ro g).pins == 1 && (d.gran ro g).pinTier == t).length)
/-- A tier command ends with a code of R208. -/
def Dev.tierFail (d : Dev) (t : Tag) (f : Byte × Nat) : Dev :=
  let d := d.complete t f.1 0 f.2
  if f.1 = 0x80 ∨ f.1 = 0x81 then d.setEvt .tierEvt 2 else d
/-- The granules of a checked range are set to be acted on; those of both ranges of a WINDOW_ADVANCE keep their pin and count (R209). -/
def Dev.rangeBegin (d : Dev) (t : Tag) : Dev :=
  let x := (d.tagE t).desc
  let gs := (trGrans x).filter fun g => !trShared x g
  (d.setTierRun t ⟨gs, (trGrans x).length - gs.length⟩).tierStep t
/-- A range command: its whole range is checked once, at start, then its granules are acted on in ascending offset. -/
def Dev.rangeRun (d : Dev) (t : Tag) (op : Nat) : Dev :=
  let x := (d.tagE t).desc
  if !d.runs t op then d
  else match d.tierRun t with
    | some _ => d.tierStep t
    | none =>
      if d.rangeBlocked t then d
      else match rangeCheck d x with
      | some f => d.tierFail t f
      | none => d.rangeBegin t

/-! The commands. -/

def doDecant (t : Tag) (d : Dev) : Dev := d.rangeRun t 0x42
def execDecant (t : Tag) (s : State) : Host.Outcome State Fault Refusal := s.onDev (doDecant t)
def doLayDown (t : Tag) (d : Dev) : Dev := d.rangeRun t 0x43
def execLayDown (t : Tag) (s : State) : Host.Outcome State Fault Refusal := s.onDev (doLayDown t)
def doPin (t : Tag) (d : Dev) : Dev := d.rangeRun t 0x44
def execPin (t : Tag) (s : State) : Host.Outcome State Fault Refusal := s.onDev (doPin t)
/-- UNPIN of granules one by one. -/
def Dev.unpinAll (d : Dev) (o : ObjNo) (gs : List Nat) (release : Bool) : Dev := gs.foldl (fun d g => d.unpinOne o g release) d
def doUnpin (t : Tag) (d : Dev) : Dev :=
  let x := (d.tagE t).desc
  if !d.runs t 0x45 || d.rangeBlocked t then d
  else match rangeCheck d x with
    | some f => d.tierFail t f
    | none => (d.unpinAll (urObj (x.w 1)) (trGrans x) false).completeOk t (trGrans x).length
def execUnpin (t : Tag) (s : State) : Host.Outcome State Fault Refusal := s.onDev (doUnpin t)
/-- WINDOW_ADVANCE: the release range is unpinned, then the target range pinned. -/
def doWindowAdvance (t : Tag) (d : Dev) : Dev :=
  let x := (d.tagE t).desc
  if !d.runs t 0x46 then d
  else match d.tierRun t with
    | some _ => d.tierStep t
    | none =>
      if d.rangeBlocked t then d
      else match rangeCheck d x with
      | some f => d.tierFail t f
      | none => (d.unpinAll (urObj (x.w 5)) ((trRelGrans x).filter fun g => !trShared x g) true).rangeBegin t
def execWindowAdvance (t : Tag) (s : State) : Host.Outcome State Fault Refusal := s.onDev (doWindowAdvance t)

end Sys2Proof.Machine
end

