-- ==== Sys2Proof/Machine/Objects.lean ====
section
/-! DEFINITION. Objects and the Cellar's placement of sealed ones: OBJ_CREATE, OBJ_DESTROY, OBJ_SEAL, OBJ_QUERY, OBJECT_FREE, the
commits of granule moves and of catalogue changes, and on-demand fetch (spec/08 R194 to R209; spec/09 R224, R225). -/

namespace Sys2Proof.Machine

/-! Creation (R194, R195, R206). -/

/-- The lowest FREE object number at or above `k` of a table whose keys rise. -/
def freeObj : Tbl Obj → Nat → Nat
  | [], k => k
  | (j, _) :: t, k => if j = k then freeObj t (k + 1) else k
/-- Granules of all objects in use. -/
def Dev.mapGrans (d : Dev) : Nat := sumNat ((d.tier.obj.map (·.2)).map (·.granCount))
/-- A new object: its number and the device. -/
def Dev.newObj (d : Dev) (b : Obj) : ObjNo × Dev :=
  let o : ObjNo := BitVec.ofNat 16 (freeObj d.tier.obj 1)
  let d := { d with tier := { d.tier with rot := d.tier.rot + 1 } }
  (o, d.setObj o { b with rot := d.tier.rot, age := d.hif.devTime })
/-- A catalogue entry is attached to an object that is not FREE. -/
def Dev.attached (d : Dev) (n : Nat) : Bool := n != 0 && d.tier.obj.any fun e => e.2.st != .free && e.2.cat.toNat == n
/-- Granules of an entry that are lost, as damaged granules of the object over it (R212, R229). -/
def lostGrans (e : CatE) : Tbl Gran :=
  ((List.range e.granules).filter fun g => Tbl.get Place.none e.places g == Place.none).map fun g => (g, { Gran.reset with damaged := true })
/-- A SEALED object over a catalogue entry. -/
def sealedObj (p : PartNo) (place : Tier) (n : Nat) (e : CatE) : Obj :=
  { Obj.reset with st := .sealed, part := p, readOnly := true, place := place, size := e.size, cat := BitVec.ofNat 12 n, gran := lostGrans e }
/-- What stands against an OBJ_CREATE (R208). -/
def createCheck (d : Dev) (x : Desc) : Option (Byte × Nat) :=
  let n := ceilDiv (trSize x) granSize
  if 65535 ≤ d.tier.obj.length then some (0x83, 0)
  else if 267386880 < d.mapGrans + n then some (0x80, d.mapGrans + n - 267386880)
  else if trAttach x then
    (if d.attached (trCat x) ∨ (d.cat (trCat x)).size ≠ trSize x then some (0x82, 0) else none)
  else
    orElse' (d.need x.part (tierOf (trTier x)) n n 0)
      (let excess := d.t3Usage x.part + d.storedSize n - d.floor .t3 x.part.toNat
       if trKind x ∧ excess ≠ 0 then some (0x81, ceilDiv excess granSize) else none)
/-- OBJ_CREATE. -/
def doObjCreate (t : Tag) (d : Dev) : Dev :=
  let x := (d.tagE t).desc
  let n := ceilDiv (trSize x) granSize
  let place := tierOf (trTier x)
  if !d.runs t 0x40 then d
  else match createCheck d x with
    | some f => d.tierFail t f
    | none =>
      if trAttach x then
        let p := d.newObj (sealedObj x.part place (trCat x) (d.cat (trCat x)))
        p.2.completeOk t p.1.toNat
      else
        let r := d.room x.part place n
        if !r.1 then d.tierFail t (0x80, r.2.taken place + n + d.heldBackFrames - d.capacity place / granSize)
        else
          let p := r.2.newObj { Obj.reset with st := if trKind x then .opened else .live, part := x.part, readOnly := trKind x,
                                               place := place, size := trSize x, t3 := if trKind x then d.storedSize n else 0 }
          p.2.completeOk t p.1.toNat
def execObjCreate (t : Tag) (s : State) : Host.Outcome State Fault Refusal := s.onDev (doObjCreate t)

/-! Destruction (R195, R196, R209). -/

/-- Running OBJ_DESTROYs that hold a reference on an object. -/
def Dev.destroyers (d : Dev) (o : ObjNo) : List Tag :=
  (d.cores.tag.filter fun e => decide (e.2.st = .running) && e.2.desc.op == 0x41 && urObj (e.2.desc.w 1) == o && e.2.refs.contains o).map
    fun e => BitVec.ofNat 12 e.1
/-- The object number becomes FREE: frames and copies are returned, moves and fetches of it stop. -/
def Dev.eraseObj (d : Dev) (o : ObjNo) : Dev :=
  { d.setObj o Obj.reset with tier := { (d.setObj o Obj.reset).tier with
      mem := Memory.clear d.tier.mem (objKey o 0) (2 ^ 40)
      moves := d.tier.moves.filter fun m => m.obj != o
      misses := d.tier.misses.filter fun m => m.obj != o
      through := d.tier.through.filter fun m => m.obj != o
      fetchQ := d.tier.fetchQ.filter fun m => m.obj != o } }
/-- A DYING object that only its OBJ_DESTROYs still refer to reaches FREE, and they complete. -/
def Dev.freeDying (d : Dev) (o : ObjNo) : Dev :=
  let ts := d.destroyers o
  if (d.obj o).st = .dying ∧ (d.obj o).refs = ts.length then
    (ts.foldl (fun d t => d.completeOk t 0) d).eraseObj o
  else d
/-- OBJ_DESTROY completes when its object, DYING since the start of the command, reaches FREE. -/
def doObjDestroy (t : Tag) (d : Dev) : Dev := if d.runs t 0x41 then d.freeDying (urObj ((d.tagE t).desc.w 1)) else d
def execObjDestroy (t : Tag) (s : State) : Host.Outcome State Fault Refusal := s.onDev (doObjDestroy t)
def doObjectFree (o : ObjNo) (d : Dev) : Dev := d.freeDying o
def execObjectFree (o : ObjNo) (s : State) : Host.Outcome State Fault Refusal := s.onDev (doObjectFree o)
/-- The firmware destroys an object of its own: at once, or when the last reference on it is returned. -/
def Dev.fwDestroy (d : Dev) (o : ObjNo) : Dev :=
  let b := d.obj o
  if o = 0 ∨ b.st = .free then d
  else if b.refs = 0 then d.eraseObj o
  else if b.st = .dying then d else d.setObj o { b with st := .dying, was := b.st }

/-! Placement of a seal (R224). -/

/-- Choice among available blocks: FREE ones first, then the lowest erase count, then the lowest number. -/
def blkKey (b : Blk) : Nat := (if b.st = .free then 0 else 2 ^ 40) + b.erases
/-- The best block of a channel that satisfies `p`. -/
def Dev.bestBlk (d : Dev) (ch : Nat) (p : Nat → Bool) : Option Nat :=
  ((upFrom 11 5461).filter p).foldl (fun best b => match best with
    | none => some b
    | some a => if blkKey (d.blk ch b) < blkKey (d.blk ch a) then some b else some a) none
/-- A block a seal may take. -/
def Blk.available (b : Blk) : Bool :=
  b.st == .free || ((b.st == .erasePending || b.st == .erasing || b.st == .interrupted) && b.entry == 0)
/-- FREE data blocks and available data blocks of a channel. -/
def Dev.freeBlks (d : Dev) (ch : Nat) : Nat := ((upFrom 11 5461).filter fun b => (d.blk ch b).st == .free).length
def Dev.availBlks (d : Dev) (ch : Nat) : Nat := ((upFrom 11 5461).filter fun b => (d.blk ch b).available).length
/-- The next list block of a channel: the first on the first die from `die` on that has one, by fuel. -/
def Dev.nextBlk (d : Dev) (ch : Nat) (ok : Nat → Bool) : Nat → Nat → Option Nat
  | 0, _ => none
  | fuel + 1, die =>
    match d.bestBlk ch (fun b => ok b && b % 8 == die % 8) with
    | some b => some b
    | none => Dev.nextBlk d ch ok fuel (die + 1)
/-- The block list of a channel: `n` blocks. -/
def Dev.blkList (d : Dev) (ch n : Nat) : List Nat :=
  let ok : Nat → Bool := if n ≤ d.freeBlks ch then fun b => (d.blk ch b).st == .free else fun b => (d.blk ch b).available
  (List.range n).foldl (fun l j =>
    let free := fun b => ok b && !l.contains b
    let b := if j = 0 then d.bestBlk ch free else d.nextBlk ch free 8 (l.headD 0 % 8 + j)
    match b with
    | some b => l ++ [b]
    | none => l) []
/-- A seal's placement: the channels in placement order with their block lists. -/
def Dev.placement (d : Dev) (n : Nat) : List (Nat × List Nat) :=
  let l := d.chans
  let f := d.cellar.sealCtr % l.length
  (List.range l.length).map fun i =>
    let ch := l.getD ((f + i) % l.length) 0
    (ch, d.blkList ch ((blocksOf l.length n).getD i 0))
/-- Granules that find no block on short channels. -/
def Dev.sealShort (d : Dev) (n : Nat) : Nat :=
  let l := d.chans
  let f := d.cellar.sealCtr % l.length
  sumNat ((List.range l.length).map fun i =>
    let nc := (n + l.length - 1 - i) / l.length
    let a := d.availBlks (l.getD ((f + i) % l.length) 0)
    if a < (blocksOf l.length n).getD i 0 then nc - 768 * a else 0)
/-- Where granule `g` goes. -/
def placeOf (pl : List (Nat × List Nat)) (g : Nat) : Place :=
  let c := pl.getD (g % pl.length) (64, [])
  let k := g / pl.length
  ⟨c.1, c.2.getD (k % c.2.length) 0, k / c.2.length⟩
/-- The lowest entry number that neither an entry nor a seal under way uses (R225). -/
def Dev.freeEntry (d : Dev) : Option Nat :=
  (upFrom 1 4095).find? fun n => !(d.cat n).used && !d.cellar.changes.any fun c => match c with
    | .seal _ _ m _ _ => m.toNat == n
    | .delete _ => false
/-- The blocks of a placement taken for entry `n`: FREE ones become ALLOCATED, others are kept for it until their erase is done. -/
def Dev.takeBlks (d : Dev) (n : Nat) (pl : List (Nat × List Nat)) : Dev :=
  pl.foldl (fun d c => c.2.foldl (fun d b =>
    let k := d.blk c.1 b
    d.setBlk c.1 b { k with entry := BitVec.ofNat 12 n, committed := false, st := if k.st = .free then .allocated else k.st }) d) d
/-- The entry a seal of object `b` will commit. -/
def Dev.sealEntry (d : Dev) (o : ObjNo) (pl : List (Nat × List Nat)) : CatE :=
  let b := d.obj o
  { used := true, part := b.part, degraded := false, size := b.size, granules := b.granCount, blocks := sumNat (pl.map fun c => c.2.length),
    firstCh := (pl.headD (0, [])).1, channels := pl.length, sealTime := 0, seqNo := 0,
    places := (List.range b.granCount).map fun g => (g, placeOf pl g),
    vint := ((List.range b.granCount).filter fun g => d.granVint o g != 0).map fun g => (g, d.granVint o g) }
/-- Every block of an entry is ALLOCATED. -/
def Dev.blksReady (d : Dev) (e : CatE) : Bool := e.places.all fun p => (d.blk p.2.ch p.2.blk).st == .allocated
/-- Program-verify loops above nominal of programs the model runs whole (R231): how many is open. -/
def Dev.progLoops (d : Dev) : Dev :=
  let p := d.freeNat
  p.2.addTot (0x3001 * 256 + 6) p.1
/-- The granules of object `o` programmed at an entry's places (R224, R237). -/
def Dev.program (d : Dev) (o : ObjNo) (e : CatE) : Dev :=
  e.places.foldl (fun d p =>
    let k := d.blk p.2.ch p.2.blk
    let d := { d with cellar := { d.cellar with mem := Memory.writeN d.cellar.mem (placeKey p.2 0) (d.granRead o p.1 0 granSize) } }
    (d.setBlk p.2.ch p.2.blk { k with wp := max k.wp (4 * (p.2.slot + 1)) }).addCnt (flcReg 0x28) 1) d
/-- The seal of command `t` programmed, once its blocks are ready. -/
def Dev.sealProgram (d : Dev) (t : Tag) (o : ObjNo) (n : BitVec 12) (e : CatE) : Dev :=
  if d.blksReady e then
    let d := (d.program o e).progLoops
    { d with cellar := { d.cellar with changes := d.cellar.changes.map fun c => match c with
      | .seal u ob m pr f => if u = t then CatChange.seal u ob n true f else CatChange.seal u ob m pr f
      | .delete m => CatChange.delete m } }
  else d
/-- What stands against an OBJ_SEAL before its placement (R208, R212, R224, R225). -/
def sealCheck (d : Dev) (o : ObjNo) : Option (Byte × Nat) :=
  let b := d.obj o
  let new := d.storedSize b.granCount
  let excess := d.t3Usage b.part - b.t3 + new - d.floor .t3 b.part.toNat
  if b.eff ≠ .opened then some (0x82, 0)
  else match badGran 0x86 (List.range b.granCount) fun g => (b.g g).damaged with
    | some f => some f
    | none =>
      if d.freeEntry.isNone then some (0x80, 0)
      else if b.t3 < new ∧ excess ≠ 0 then some (0x81, ceilDiv excess granSize)
      else none
/-- The seal of command `t` under way: its object, entry, whether it is programmed. -/
def Dev.sealOf (d : Dev) (t : Tag) : Option (ObjNo × BitVec 12 × Bool × CatE) :=
  d.cellar.changes.findSome? fun c => match c with
    | .seal u o n pr e => if u = t then some (o, n, pr, e) else none
    | .delete _ => none
/-- OBJ_SEAL: checked and placed once; programmed as soon as every block it takes is ready; CATALOGUE_COMMIT completes it. -/
def doObjSeal (t : Tag) (d : Dev) : Dev :=
  let o := urObj ((d.tagE t).desc.w 1)
  if !d.runs t 0x47 then d
  else match d.sealOf t with
    | some (o, n, false, e) => d.sealProgram t o n e
    | some _ => d
    | none =>
      match sealCheck d o with
      | some f => d.tierFail t f
      | none =>
        let gs := (d.obj o).granCount
        let short := d.sealShort gs
        let pl := d.placement gs
        let n := d.freeEntry.getD 0
        let e := d.sealEntry o pl
        let d := { d with cellar := { d.cellar with sealCtr := d.cellar.sealCtr + 1 } }
        if short ≠ 0 then d.tierFail t (0x80, short)
        else
          let d := d.setObj o { d.obj o with t3 := d.storedSize gs }
          let d := d.takeBlks n pl
          let d := { d with cellar := { d.cellar with changes := d.cellar.changes ++ [CatChange.seal t o (BitVec.ofNat 12 n) false e] } }
          d.sealProgram t o (BitVec.ofNat 12 n) e
def execObjSeal (t : Tag) (s : State) : Host.Outcome State Fault Refusal := s.onDev (doObjSeal t)

/-! Metadata blocks (R221, R225, R233; log entry 105). -/

/-- Key of a byte of code word `cw` of a block. -/
def cwKey (ch b cw : Nat) : Nat := (ch * 5472 + b) * blkBytes + cw * 16384
/-- A metadata block's code words are gone with an erase: the journal records and the catalogue copy it held, too. -/
def Dev.metaErased (d : Dev) (ch b : Nat) : Dev :=
  let c := d.cellar
  let d := { d with cellar := { c with
    mem := Memory.clear c.mem (cwKey ch b 0) blkBytes
    journal := Tbl.set [] c.journal ch ((Tbl.get [] c.journal ch).filter fun r => r.blk != b)
    copies := if (Tbl.get CatCopy.reset c.copies ch).blk = b then Tbl.set CatCopy.reset c.copies ch CatCopy.reset else c.copies } }
  let k := d.blk ch b
  d.setBlk ch b { k with wp := 0, erases := k.erases + 1, fails := 0 }
/-- The metadata block, of `n` from `lo` up, that takes `cws` more code words: the one in use, or the next one round, erased. -/
def Dev.metaRoom (d : Dev) (ch lo n cws cur : Nat) : Nat × Dev :=
  let i := (cur - lo) % n
  if (d.blk ch (lo + i)).wp + cws ≤ 3072 then (lo + i, d)
  else
    let b := lo + (i + 1) % n
    (b, if (d.blk ch b).wp = 0 then d else (d.metaErased ch b).addCnt (flcReg 0x30) 1)
/-- Bytes programmed into the next code words of a metadata block. -/
def Dev.metaProg (d : Dev) (ch b cws : Nat) (bs : List Byte) : Dev :=
  let k := d.blk ch b
  let d := { d with cellar := { d.cellar with mem := Memory.writeN d.cellar.mem (cwKey ch b k.wp) (bs.take ((3072 - k.wp) * 16384)) } }
  (d.setBlk ch b { k with wp := k.wp + cws }).addCnt (flcReg 0x28) cws

/-! Catalogue changes (R225, R246). -/

/-- The catalogue record of an entry (R225). -/
def Dev.catRecord (d : Dev) (n : Nat) : List Byte :=
  let e := d.cat n
  if !e.used then []
  else
    let flags := b2n (d.odNat 0x301001 1 == n) + 2 * b2n (d.attached n) + 4 * b2n e.degraded
    let b := natLe 4 n ++ [BitVec.ofNat 8 e.part.toNat, BitVec.ofNat 8 flags, 0, 0] ++ natLe 8 e.size ++ natLe 4 e.granules ++ natLe 4 e.blocks ++
      [BitVec.ofNat 8 e.firstCh, BitVec.ofNat 8 e.channels, 0, 0, 0, 0, 0, 0] ++ natLe 8 e.sealTime.toNat ++ natLe 8 e.seqNo.toNat ++ List.replicate 12 0
    b ++ natLe 4 (crc32c b)
/-- The channels of the four copies: the lowest-numbered one in service of each sixteen. -/
def Dev.catChans (d : Dev) : List Nat := (List.range 4).filterMap fun i => (upFrom (16 * i) 16).find? fun c => d.cellar.chmap.getLsbD c
/-- A copy of a catalogue programmed on a channel: its records, one after the other, in the code words they need. -/
def Dev.copyCat (d : Dev) (ch : Nat) (seq : W64) (cat : Tbl CatE) : Dev :=
  let bs := cat.flatMap fun e => d.catRecord e.1
  let n := max 1 (ceilDiv bs.length 16384)
  let r := d.metaRoom ch 4 7 n (Tbl.get CatCopy.reset d.cellar.copies ch).blk
  let d := r.2.metaProg ch r.1 n bs
  { d with cellar := { d.cellar with copies := Tbl.set CatCopy.reset d.cellar.copies ch ⟨seq, r.1, cat⟩ } }
/-- The catalogue as it stands programmed as all its copies. -/
def Dev.catWrite (d : Dev) : Dev := d.catChans.foldl (fun d c => d.copyCat c d.cellar.catSeq d.cellar.cat) d
/-- A catalogue change that no object waits for: the next sequence number, and the copies. -/
def Dev.catChange (d : Dev) : Dev := Dev.catWrite { d with cellar := { d.cellar with catSeq := d.cellar.catSeq + 1 } }
/-- The key number of a granule of an entry (R446). -/
def Dev.granKey (d : Dev) (e : CatE) (g : Nat) : Option Nat :=
  let q := d.part e.part
  if Tbl.get 0 e.vint g = q.vintCur then q.keyCur else q.keyOld
/-- Places leave their entry: their blocks keep what they store, under the keys it was stored with. -/
def Dev.noteKeys (d : Dev) (e : CatE) (ps : Tbl Place) : Dev :=
  ps.foldl (fun d p => match d.granKey e p.1 with
    | some k =>
      let i := p.2.ch * 5472 + p.2.blk
      { d with cellar := { d.cellar with old := Tbl.set [] d.cellar.old i (Tbl.put p.2.slot k (Tbl.get [] d.cellar.old i)) } }
    | none => d) d

/-- A seal's commit: the entry, the committed blocks, the SEALED object with its staging as unpinned copies, and the end of the command. -/
def Dev.commitSeal (d : Dev) (t : Tag) (o : ObjNo) (n : BitVec 12) (e : CatE) : Dev :=
  let sq := d.cellar.catSeq + 1
  let d := d.setCat n.toNat { e with sealTime := d.hif.devTime, seqNo := sq }
  let d := { d with cellar := { d.cellar with
    catSeq := sq
    blk := Tbl.mapAll Blk.reset (fun k b =>
      if b.entry = n ∧ e.places.any (fun p => p.2.ch * 5472 + p.2.blk == k) = true then { b with committed := true } else b) d.cellar.blk } }
  let b := d.obj o
  let d := d.setObj o { b with st := if b.st = .dying then .dying else .sealed, was := if b.st = .dying then .sealed else b.was, cat := n, t3 := 0 }
  (d.count (tierReg 0x40) (0x200A * 256 + 5) (granSize * e.granules)).completeOk t n.toNat
/-- A deletion's commit: the entry goes, its blocks await erasure. -/
def Dev.commitDelete (d : Dev) (n : BitVec 12) : Dev :=
  let e := d.cat n.toNat
  let d := (d.noteKeys e e.places).setCat n.toNat CatE.reset
  { d with cellar := { d.cellar with
    catSeq := d.cellar.catSeq + 1
    blk := Tbl.mapAll Blk.reset (fun _ b =>
      if b.entry = n ∧ b.committed then { b with st := .erasePending, entry := 0, committed := false } else b) d.cellar.blk } }
/-- A change that can commit. -/
def CatChange.ready : CatChange → Bool
  | .seal _ _ _ pr _ => pr
  | .delete _ => true
/-- The oldest change that is ready commits: four copies of the catalogue have been programmed. -/
def doCatalogueCommit (d : Dev) : Dev :=
  match d.cellar.changes.find? (·.ready) with
  | none => d
  | some c =>
    let d := { d with cellar := { d.cellar with changes := d.cellar.changes.filter (· ≠ c) } }
    Dev.catWrite (match c with
      | .seal t o n _ e => d.commitSeal t o n e
      | .delete n => d.commitDelete n)
def execCatalogueCommit (s : State) : Host.Outcome State Fault Refusal := s.onDev doCatalogueCommit

/-! OBJ_QUERY (R208). -/

/-- State code of the report. -/
def ObjState.code : ObjState → Nat
  | .free => 0
  | .live => 1
  | .opened => 2
  | .sealed => 3
  | .dying => 4
/-- Number of a PLACE tier. -/
def Tier.num : Tier → Nat
  | .t1 => 1
  | .t2 => 2
  | .t3 => 3
/-- The 64-byte report. -/
def objReport (d : Dev) (o : ObjNo) : List Byte :=
  let b := d.obj o
  let t3 := if b.eff = .sealed then (d.cat b.cat.toNat).places.length else 0
  natLe 8 b.size ++ natLe 4 (b.held .t1).1 ++ natLe 4 (b.held .t2).1 ++ natLe 4 t3 ++
  natLe 4 (b.gran.filter fun e => e.2.pins ≠ 0).length ++ natLe 4 (b.gran.filter fun e => e.2.damaged).length ++
  [BitVec.ofNat 8 b.st.code, BitVec.ofNat 8 b.place.num, BitVec.ofNat 8 b.part.toNat, 0] ++
  natLe 4 (if b.st = .sealed then b.cat.toNat else 0) ++ natLe 4 0 ++ natLe 8 b.age.toNat ++ natLe 16 0
def doObjQuery (t : Tag) (d : Dev) : Dev :=
  let x := (d.tagE t).desc
  if !d.runs t 0x48 then d
  else match d.access [] [(x.w 2, 64)] with
    | (.ready, d) => (d.memWrite (x.w 2) 0 (objReport d (urObj (x.w 1)))).completeOk t 0
    | (_, d) => d
def execObjQuery (t : Tag) (s : State) : Host.Outcome State Fault Refusal := s.onDev (doObjQuery t)

/-! Commits of moves and on-demand fetch (R203, R204, R209). -/

/-- Bytes of a granule brought from its Cellar copy. -/
def Dev.fillFromT3 (d : Dev) (o : ObjNo) (g : Nat) : Dev :=
  let p := Tbl.get Place.none (d.cat (d.obj o).cat.toNat).places g
  let a := objKey o (g * granSize)
  let m := Memory.writeN (Memory.clear d.tier.mem a granSize) a (Memory.readN d.cellar.mem (placeKey p 0) granSize)
  Dev.addCnt { d with tier := { d.tier with mem := m } } (flcReg 0x20) 1
/-- The granule at its new place: a working granule has moved, a sealed one has gained a copy. -/
def Dev.placeMove (d : Dev) (m : Mv) : Dev :=
  let b := d.obj m.obj
  let v := b.g m.g
  if m.working then
    let u := match m.src with
      | some s => v.put s none
      | none => v
    d.setGran m.obj m.g { u.put m.dst (some m.frame) with resv := if m.dst = b.place then none else some m.dst }
  else
    let d := if v.t1.isNone ∧ v.t2.isNone then d.fillFromT3 m.obj m.g else d
    let v := v.put m.dst (some m.frame)
    d.setGran m.obj m.g (if m.dropT1 then v.drop .t1 else v)
/-- An earlier granule of the command a move is made for is still on the move (R206, R208). -/
def Dev.notFirst (d : Dev) (m : Mv) : Bool :=
  match m.why with
  | .cmd t => d.tier.moves.any fun n => n.waitedBy t && n.obj == m.obj && decide (n.g < m.g)
  | .fetch => false
/-- One granule of a fetch: none where no frame can be had; brought where it has no copy in PLACE and does not move (R204). -/
def Dev.fetchOne (d : Dev) (o : ObjNo) (g : Nat) : Option Dev :=
  let b := d.obj o
  if b.eff ≠ .sealed ∨ ((b.g g).at b.place).isSome = true ∨ d.moving o g = true ∨ (b.g g).damaged = true then some d
  else
    let r := d.room b.part b.place 1
    if r.1 then some (r.2.startMove o g ((b.g g).source b.place) b.place .fetch [] false false) else none
/-- Granules fetched from `g` on while frames can be had; once 256 moves are in flight the rest is queued (R204, R206). -/
def Dev.fetchAll (o : ObjNo) : List Nat → Dev → Dev
  | [], d => d
  | g :: gs, d =>
    if 256 ≤ d.tier.moves.length then { d with tier := { d.tier with fetchQ := d.tier.fetchQ ++ (g :: gs).map (Miss.mk o) } }
    else match d.fetchOne o g with
      | none => d
      | some e => Dev.fetchAll o gs e
/-- The queued granules go on while moves can start; one that finds no frame is given up. -/
def Dev.fetchNext : List Miss → Dev → Dev
  | [], d => { d with tier := { d.tier with fetchQ := [] } }
  | m :: ms, d =>
    if 256 ≤ d.tier.moves.length then { d with tier := { d.tier with fetchQ := m :: ms } }
    else Dev.fetchNext ms ((d.fetchOne m.obj m.g).getD d)
def Dev.fetchPump (d : Dev) : Dev := if d.tier.fetchQ.isEmpty then d else Dev.fetchNext d.tier.fetchQ d
/-- A move commits: the destination holds the granule, pins taken at the commit apply, and the commands that waited go on. The moves of one
command commit in ascending offset. A move whose source is damaged fails the commands it was made for. -/
def doGranuleMoveCommit (o : ObjNo) (g : GranNo) (d : Dev) : Dev :=
  match d.moveOf o g.toNat with
  | none => d
  | some m =>
    if d.notFirst m then d
    else if (d.gran o g.toNat).damaged then
      let ts := (match m.why with
        | .cmd t => [t]
        | .fetch => []) ++ m.pinners ++ m.joined
      let d := ts.eraseDups.foldl (fun d t => d.uncorrectable t 0x000D 0) d
      { d with tier := { d.tier with moves := d.tier.moves.filter fun n => !(n.obj == o && n.g == g.toNat) } }.tierPump.fetchPump
    else
      let d := { d with tier := { d.tier with moves := d.tier.moves.filter (· ≠ m) } }
      let d := (d.placeMove m).countMove m
      let d := m.pinners.foldl (fun d _ => d.pinOne o g.toNat m.dst) d
      d.tierPump.fetchPump
def execGranuleMoveCommit (o : ObjNo) (g : GranNo) (s : State) : Host.Outcome State Fault Refusal := s.onDev (doGranuleMoveCommit o g)

/-- A missed access is served: the granule and those after it are fetched, or, where no frame can be made free, it is read through. -/
def doOnDemandFetch (o : ObjNo) (g : GranNo) (d : Dev) : Dev :=
  let b := d.obj o
  let ms : Miss := ⟨o, g.toNat⟩
  if !d.tier.misses.contains ms || decide (256 ≤ d.tier.moves.length) then d
  else
    let d := { d with tier := { d.tier with misses := d.tier.misses.filter (· ≠ ms) } }
    if b.eff != .sealed || ((b.g g.toNat).at b.place).isSome || d.moving o g.toNat || (b.g g.toNat).damaged then d
    else
      let r := d.room b.part b.place 1
      if r.1 then
        (Dev.fetchAll o (upFrom g.toNat (min (b.granCount - g.toNat) (d.tier.fetchAhead + 1))) r.2).setEvt .tierEvt 1
      else
        let d := (r.2.count (tierReg 0x30) (0x200A * 256 + 3) 1).setEvt .tierEvt 4
        let d := if d.granMiss o g.toNat then d.addCnt (flcReg 0x20) 1 else d
        { d with tier := { d.tier with through := ms :: d.tier.through } }
def execOnDemandFetch (o : ObjNo) (g : GranNo) (s : State) : Host.Outcome State Fault Refusal := s.onDev (doOnDemandFetch o g)

end Sys2Proof.Machine
end

