-- ==== Sys2Proof/Machine/Serve.lean ====
section
/-! DEFINITION. What the serving engine's parts share: plan figures and schedule, the request table, pool pages and their release
(spec/11 R282, R291 to R297, R301; spec/10 R252 to R254). -/

namespace Sys2Proof.Machine

/-! Plan header (R282). -/

/-- `n` bytes of a header at `lo`. -/
def hdrAt (h : List Byte) (lo n : Nat) : Nat := leNat ((h.drop lo).take n)
def Plan.h (p : Plan) (lo n : Nat) : Nat := hdrAt p.hdr lo n
/-- Bit `i` of FLAGS. -/
def Plan.flag (p : Plan) (i : Nat) : Bool := bitN (p.h 3 1) i
def Plan.streams (p : Plan) : Nat := p.h 4 2
def Plan.vocab (p : Plan) : Nat := p.h 8 4
def Plan.eos (p : Plan) : Nat := p.h 12 4
def Plan.maxBatch (p : Plan) : Nat := p.h 20 2
def Plan.chunk (p : Plan) : Nat := p.h 22 2
def Plan.wRet (p : Plan) : Nat := p.h 24 4
def Plan.period (p : Plan) : Nat := p.h 32 8
def Plan.guard (p : Plan) : Nat := p.h 40 8
def Plan.tFix (p : Plan) : Nat := p.h 48 4
def Plan.tSeq (p : Plan) : Nat := p.h 52 4
def Plan.tPage (p : Plan) : Nat := p.h 56 4
def Plan.tPf (p : Plan) : Nat := p.h 60 4
def Plan.salt (p : Plan) : W64 := BitVec.ofNat 64 (p.h 64 8)
def Plan.coreMask (p : Plan) : Nat := p.h 72 8
def Plan.members (p : Plan) : Nat := p.h 80 1
/-- ACTIVE or DRAINING. -/
def Plan.runs (p : Plan) : Bool := p.st == .active || p.st == .draining

/-! Dictionary settings (R322, R279). -/

def Dev.admitLead (d : Dev) : Nat := d.odNat (0x4003 * 256 + 1) 200000
def Dev.tickTol (d : Dev) : Nat := d.odNat (0x4003 * 256 + 2) 50000
def Dev.missLimit (d : Dev) : Nat := d.odNat (0x4003 * 256 + 3) 8
def Dev.holdRetainMs (d : Dev) : Nat := d.odNat (0x4003 * 256 + 4) 10000
def Dev.pruneDecay (d : Dev) : W32 := BitVec.ofNat 32 (d.odNat (0xB043 * 256 + 1) 0x3F666666)
def Dev.pruneAge (d : Dev) : Nat := d.odNat (0xB043 * 256 + 2) 4
def Dev.pruneSink (d : Dev) : Nat := d.odNat (0xB043 * 256 + 3) 1
def Dev.pruneRecent (d : Dev) : Nat := d.odNat (0xB043 * 256 + 4) 4

/-- The i-th counter of R320 and its total. -/
def Dev.srvCount (d : Dev) (i n : Nat) : Dev := d.count (srvReg (8 + 8 * i)) (0x4004 * 256 + i) n

/-! Schedule (R296, R297). -/

/-- A list of numbers in ascending order. -/
def insertNat (x : Nat) : List Nat → List Nat
  | [] => [x]
  | y :: ys => if x < y then x :: y :: ys else y :: insertNat x ys
def sortNat (l : List Nat) : List Nat := l.foldl (fun s x => insertNat x s) []
/-- Median: of an even number of values the mean of the middle two, rounded down (log entry 43). -/
def median (l : List Nat) : Nat :=
  let s := sortNat l
  (s.getD ((l.length - 1) / 2) 0 + s.getD (l.length / 2) 0) / 2
/-- The step interval. -/
def Plan.interval (p : Plan) : Nat :=
  if p.tick && decide (8 ≤ p.intervals.length) then median (p.intervals.take 8) else p.period
/-- The edge before the next one to anchor; A stands for it while no edge has been recorded (log entry 43). -/
def Plan.lastE (p : Plan) : Nat := p.edge.getD p.anchor.toNat
/-- S_k: for an edge not anchored yet the one predicted from the last. -/
def Plan.schedAt (p : Plan) (k : Nat) : Nat :=
  if !p.tick then (p.anchor + (k * p.period : Nat)).toNat
  else p.offsetUs.toNat * 1000 + match lookupKey k p.edges with
    | some e => e
    | none => p.lastE + (k + 1 - p.edgeK) * p.interval
/-- The due of a step. -/
def Plan.dueAt (p : Plan) (k : Nat) : Nat := p.schedAt k + p.period
/-- Step `k` has its schedule point: with TICK, its edge is anchored. -/
def Plan.hasPoint (p : Plan) (k : Nat) : Bool := !p.tick || (lookupKey k p.edges).isSome
/-- The first step whose scheduled start is at or after `t`. -/
def Plan.firstK (p : Plan) (t : Nat) : Nat :=
  if !p.tick then max p.nextK (ceilDiv ((t : Int) - p.anchor).toNat p.period)
  else match p.edges.find? fun e => decide (p.nextK ≤ e.1 ∧ t ≤ p.schedAt e.1) with
    | some e => e.1
    | none => max p.nextK (p.edgeK + ceilDiv (t - p.offsetUs.toNat * 1000 - p.lastE) p.interval - 1)

/-- Page indices of a sequence at full length. -/
def Seq.pages (e : Seq) : Nat :=
  let n := ceilDiv (e.promptLen + e.maxNew) 64
  if e.prune then min n (e.pageBudget + 1) else n
/-- c of R291 in ps, for `n` page indices: whole nanoseconds, T_PAGE × W ÷ 1,000 rounded toward zero as all of the spec's integer divisions are. -/
def Plan.cost (p : Plan) (n : Nat) : Nat := (p.tSeq + p.tPage * (if p.flag 0 then min n p.wRet else n) / 1000) * 1000
/-- cp in ps. -/
def Plan.costPf (p : Plan) : Nat := p.tPf * p.chunk * 1000

/-! Request table. -/

/-- Entries that satisfy `f`, in ascending SEQ. -/
def Dev.seqsWhere (d : Dev) (f : Seq → Bool) : List (SeqNo × Seq) :=
  (d.srv.seq.filter fun e => f e.2).map fun e => (BitVec.ofNat 12 e.1, e.2)
/-- PREFILL or DECODE. -/
def Seq.active (e : Seq) : Bool := e.st == .prefill || e.st == .decode
/-- PREFILL, DECODE or HELD. -/
def Seq.served (e : Seq) : Bool := e.active || e.st == .held
/-- Neither FREE nor SAFE_HOLD. -/
def Seq.alive (e : Seq) : Bool := e.st != .free && e.st != .safeHold
/-- Its plan's step in flight holds the sequence. -/
def Dev.inStep (d : Dev) (q : SeqNo) : Bool := d.srv.plan.any fun e => e.2.running && e.2.batch.contains q
/-- A step to be run again holds the sequence. -/
def Dev.inRerun (d : Dev) (q : SeqNo) : Bool := d.srv.plan.any fun e => e.2.rerun.any fun r => r.batch.contains q
/-- The event of an entry with its request's identity. -/
def Dev.seqEv (d : Dev) (q : SeqNo) (kind : Nat) (status : Byte) (time : Nat) : SrvEv :=
  let e := d.seq q
  { srvEv kind status e.part e.reqId time with seq := some q }
/-- Function whose lease covers an entry; none for the mailbox's. -/
def Seq.lessee (e : Seq) : Option Nat := if e.mbox then none else some e.func
/-- An event of an entry's request. -/
def State.emitSeq (s : State) (q : SeqNo) (e : SrvEv) : State :=
  let r := s.dev.seq q
  s.emit r.queue r.lessee e

/-! Step time (R291, R301). f is 1.5 GHz over the clock of the level: 10 / (10 − level) (R471). -/

/-- The highest level whose rated power does not exceed a cap (R471). -/
def levelOf (cap : Nat) : Nat := if 550 ≤ cap then 0 else if 490 ≤ cap then 1 else if 430 ≤ cap then 2 else if 370 ≤ cap then 3 else 4
/-- The level admission reckons with: the present one, or a lower one that a cap written or an emergency already asks for (R301). -/
def Dev.planLevel (d : Dev) : Nat := max d.pwr.level (max (levelOf d.pwr.capWritten) d.pwr.emergLevel)
/-- The level of the largest f among the members a plan names (R474); the head is one of them. -/
def Dev.levelFor (d : Dev) (p : Plan) : Nat :=
  (upFrom 1 (p.members - 1)).foldl (fun l m => max l (Tbl.get Member.reset d.links.members m).level) d.planLevel
/-- Time reserved by the plan's sequences, in ps. -/
def Dev.planLoad (d : Dev) (p : PlanNo) : Nat :=
  sumNat ((d.seqsWhere fun e => e.alive && e.plan == p).map fun e => e.2.cost + e.2.costPf)
/-- The time inequality holds at a level with `load` ps reserved. -/
def Plan.timeFits (p : Plan) (level load : Nat) : Bool :=
  decide ((p.tFix * 1000 + load) * 10 + p.guard * 1000 * (10 - level) ≤ p.period * 1000 * (10 - level))

/-! Pool pages (R252, R291). -/

/-- Key of a page. -/
def pageKey (o : ObjNo) (g : Nat) : Nat := o.toNat * 2 ^ 24 + g
def Dev.pageRefs (d : Dev) (o : ObjNo) (g : Nat) : Nat := Tbl.get 0 d.srv.pageRef (pageKey o g)
/-- A reference more on a page. -/
def Dev.refPage (d : Dev) (o : ObjNo) (g : Nat) : Dev :=
  { d with srv := { d.srv with pageRef := Tbl.mod 0 d.srv.pageRef (pageKey o g) (· + 1) } }
/-- A reference less. -/
def Dev.unrefPage (d : Dev) (o : ObjNo) (g : Nat) : Dev :=
  { d with srv := { d.srv with pageRef := Tbl.mod 0 d.srv.pageRef (pageKey o g) (· - 1) } }
/-- Granules of a pool that pages hold or that wait under R254. -/
def Dev.poolUsed (d : Dev) (o : ObjNo) : List Nat :=
  ((d.srv.pageRef.filter fun e => e.1 / 2 ^ 24 == o.toNat).map fun e => e.1 % 2 ^ 24) ++
  (d.srv.released.filterMap fun r => if r.obj = o then r.gran else none).eraseDups.filter fun g => d.pageRefs o g == 0
/-- Free granules of a pool. -/
def Dev.poolFree (d : Dev) (o : ObjNo) : Nat := (d.obj o).granCount - (d.poolUsed o).length
/-- The lowest free granule of a pool (log entry 40). -/
def Dev.poolPick (d : Dev) (o : ObjNo) : Option Nat :=
  let us := d.poolUsed o
  match (List.range (us.length + 1)).find? fun g => !us.contains g with
  | some g => if g < (d.obj o).granCount then some g else none
  | none => none
/-- A granule returns to its pool unwritten: later readers see zero (R450). -/
def Dev.blankGran (d : Dev) (o : ObjNo) (g : Nat) : Dev :=
  let d := d.setGran o g { d.gran o g with t1 := none, t2 := none, damaged := false, resv := none }
  { d with tier := { d.tier with
      mem := Memory.clear d.tier.mem (objKey o (g * granSize)) granSize
      moves := d.tier.moves.filter fun m => decide (¬(m.obj = o ∧ m.g = g)) } }
/-- Pages reserved and not written by the entries that satisfy `f`. -/
def Dev.unwrittenOf (d : Dev) (f : Seq → Bool) : Nat := sumNat ((d.seqsWhere f).map fun e => e.2.reserved)

/-! Deferred release (R254). -/

/-- An in-flight ATTEND of the sequence holds a snapshot epoch below `t`; the comparison allows for the wrap. -/
def Dev.snapBelow (d : Dev) (q : SeqNo) (t : BitVec 16) : Bool :=
  d.cores.tag.any fun e => e.2.st == .running && e.2.desc.op == 0x30 && atSeq e.2.desc == q &&
    (d.attRun (BitVec.ofNat 12 e.1)).on && decide (0 < (t - (d.attRun (BitVec.ofNat 12 e.1)).edit).toNat) &&
    decide ((t - (d.attRun (BitVec.ofNat 12 e.1)).edit).toNat < 32768)
/-- What has passed the deferral is freed. -/
def Dev.freeReleased (d : Dev) (r : Released) : Dev :=
  match r.gran with
  | none => d.fwDestroy r.obj
  | some g =>
    if d.pageRefs r.obj g = 0 ∧ ¬ (d.srv.released.any fun x => x.obj == r.obj && x.gran == some g) then d.blankGran r.obj g else d
/-- Every release whose deferral has passed is carried out. -/
def Dev.gcPages (d : Dev) : Dev :=
  let go := d.srv.released.filter fun r => !d.snapBelow r.seq r.edit
  let d' := { d with srv := { d.srv with released := d.srv.released.filter fun r => d.snapBelow r.seq r.edit } }
  go.foldl Dev.freeReleased d'
/-- A page leaves an entry: its count falls, and it is tagged (R252, R254). -/
def Dev.dropPage (d : Dev) (q : SeqNo) (t : BitVec 16) (o : ObjNo) (g : Nat) : Dev :=
  let d := d.unrefPage o g
  { d with srv := { d.srv with released := d.srv.released ++ [⟨q, t, o, some g⟩] } }

/-- Page entries of a sequence's map that satisfy `f`, as (stream, page, entry). -/
def Dev.mapEntries (d : Dev) (e : Seq) (streams : Nat) (f : Nat → Bool) : List (Nat × Nat × Nat) :=
  let pm := d.kvPagesMax e.kvObj
  (List.range streams).flatMap fun s =>
    ((List.range (min pm (ceilDiv (max e.len (64 * e.vineMatched)) 64 + ceilDiv e.rows 64 + 1))).map fun i => (s, i, d.kvEntry e.kvObj s i)).filter
      fun x => f x.2.2
/-- VALID or DAMAGED. -/
def peHeld (w : Nat) : Bool := peState w == 1 || peState w == 3

/-- References an admitted sequence holds: its pool, its automaton (R284). -/
def Seq.objRefs (e : Seq) : List ObjNo :=
  e.pool :: (if e.grammar then [urObj e.automaton.toNat] else [])

/-! Adapter versions (R313, R314). -/

/-- Key of an ID of a partition. -/
def adKey (p : PartNo) (id : BitVec 6) : Nat := p.toNat * 64 + id.toNat
def Dev.adVers (d : Dev) (p : PartNo) (id : BitVec 6) : List AdVer := Tbl.get [] d.srv.adapter (adKey p id)
def Dev.setAdVers (d : Dev) (p : PartNo) (id : BitVec 6) (vs : List AdVer) : Dev :=
  { d with srv := { d.srv with adapter := Tbl.set [] d.srv.adapter (adKey p id) vs } }
/-- The current version of an ID. -/
def Dev.adCurrent (d : Dev) (p : PartNo) (id : BitVec 6) : Option AdVer := (d.adVers p id).find? (·.current)
/-- Versions neither current nor pinned are freed, with a RELEASE event each. -/
def State.adSweep (s : State) (p : PartNo) (id : BitVec 6) : State :=
  let vs := s.dev.adVers p id
  let gone := vs.filter fun v => !v.current && v.pins == 0
  let d := (s.dev.setAdVers p id (vs.filter fun v => v.current || v.pins != 0)).dropRefs (gone.map (·.obj))
  gone.reverse.foldl (fun s v => s.emit (some v.owner.1) none
    { srvEv evRELEASE stDONE p v.owner.2 s.dev.now with
      value := BitVec.ofNat 32 (id.toNat * 65536 + v.version.toNat % 65536), index := 1 }) { s with dev := d }
/-- A pin more or less on a version. -/
def Dev.adPin (d : Dev) (p : PartNo) (id : BitVec 6) (uid : Nat) (f : Nat → Nat) : Dev :=
  d.setAdVers p id ((d.adVers p id).map fun v => if v.uid = uid then { v with pins := f v.pins } else v)

/-! Plans and their ends (R284). -/

/-- Sequences of a plan that have not ended. -/
def Dev.planSeqs (d : Dev) (p : PlanNo) : List (SeqNo × Seq) := d.seqsWhere fun e => e.alive && e.plan == p
/-- A request taken for a plan is held for a recompute. -/
def Dev.planAwaited (d : Dev) (n : PlanNo) : Bool := d.srv.heldReq.any fun h => match h with
  | .sub x => x.plan == n
  | .resume _ _ => false
/-- A DRAINING plan with no sequence left, no request held for it and no step in flight becomes FREE, with its RELEASE event. -/
def State.planDrained (s : State) (n : PlanNo) : State :=
  let p := s.dev.plan n
  if p.st = .draining ∧ p.running = false ∧ p.rerun = [] ∧ s.dev.planSeqs n = [] ∧ s.dev.planAwaited n = false then
    let d := (s.dev.setPlan n { Plan.reset with k := p.k, sched := p.sched, due := p.due, commit := p.commit }).dropRefs [p.obj, p.pool]
    let d := if p.mbox then d.fwDestroy p.pool else d
    match p.owner with
    | none => { s with dev := d }
    | some o => ({ s with dev := d }).emit (some o.1) none
        { srvEv evRELEASE stDONE p.part o.2 s.dev.now with value := BitVec.ofNat 32 n.toNat }
  else s

/-- Live mailbox sequences (R316, R394). -/
def Dev.mboxSeqs (d : Dev) : Nat := (d.seqsWhere fun e => e.alive && e.mbox).length
/-- The drain of the mailbox ends with its last sequence: bit [0] of the accepted word reads 0, and plan 0 becomes DRAINING. -/
def State.mboxDrained (s : State) : State :=
  let d := s.dev
  if !d.hif.drain || d.mboxSeqs != 0 then s
  else
    let d := { d with hif := { d.hif with drain := false, accepted := d.hif.accepted &&& (~~~ (1 : BitVec 128)) } }
    let p := d.plan 0
    let d := if p.mbox && p.st == .active then d.setPlan 0 { p with st := .draining } else d
    ({ s with dev := d }).planDrained 0

/-! The end of a sequence (R293, R298, R299). -/

/-- Function whose lease covers an event about a sequence for a queue (R373). -/
def Dev.lesseeOf (d : Dev) (q : QueueNo) (seq : Option SeqNo) : Option Nat := if seq.isSome then some (d.queue q).func.toNat else none
/-- A REPLY to a record of a queue. -/
def State.reply (s : State) (o : QueueNo × W32) (p : PartNo) (status : Byte) (detail : BitVec 16) (seq : Option SeqNo) (value : Nat) : State :=
  s.emit (some o.1) (s.dev.lesseeOf o.1 seq) { srvEv evREPLY status p o.2 s.dev.now with
    final := true, seq := seq, detail := detail, value := BitVec.ofNat 32 value }
/-- A PARK or RESUME that its sequence's end overtakes is answered: the one by SV_STATE, the other by a rejected ADMIT. -/
def State.askOver (s : State) (q : SeqNo) : State :=
  let e := s.dev.seq q
  match e.parkReq with
  | none => s
  | some o =>
    if e.resuming then
      s.emit (some o.1) (s.dev.lesseeOf o.1 (some q)) { srvEv evADMIT stABORTED e.part o.2 s.dev.now with final := true, seq := some q, detail := 0x0008 }
    else s.reply o e.part 0x84 0 (some q) 0
/-- The entry returns to FREE: its pages and its map are released under R254, its pins and references given back, its reservation freed. -/
def State.releaseSeq (s : State) (q : SeqNo) : State :=
  let s := s.askOver q
  let d := s.dev
  let e := d.seq q
  let t := e.edit + 1
  let pages := d.mapEntries e (d.kvStreams e.kvObj) peHeld
  let d := pages.foldl (fun d x => d.dropPage q t (peObj x.2.2) (peGran x.2.2)) d
  let d := { d with srv := { d.srv with released := d.srv.released ++ [(⟨q, t, e.kvObj, none⟩ : Released)] } }
  let d := d.dropRefs e.objRefs
  let d := if e.adapter then d.adPin e.part e.adapterId e.adUid (· - 1) else d
  let d := d.setSeq q { Seq.reset with gen := e.gen, edit := t }
  let s := { s with dev := d.gcPages }
  let s := if e.adapter then s.adSweep e.part e.adapterId else s
  (s.planDrained e.plan).mboxDrained
/-- END: the event, the counters, the reservation; the entry is ENDING until its pages are released. -/
def State.endSeq (s : State) (q : SeqNo) (status : Byte) (detail : BitVec 16) (time : Nat) : State :=
  let e := s.dev.seq q
  let s := s.emitSeq q { s.dev.seqEv q evEND status time with
    final := true, detail := detail, value := BitVec.ofNat 32 e.out.length }
  let d := s.dev
  let d := if status = stMISSED then (d.srvCount 5 1).setEvt .srvEvt 2
    else if status = stWITHDRAWN then (d.srvCount 6 1).setEvt .srvEvt 8 else d
  { s with dev := d.setSeq q { e with st := .ending, endCode := status, endDetail := detail, cost := 0, costPf := 0, reserved := 0 } }
/-- A sequence is ENDING with a status and detail. -/
def Seq.toEnd (e : Seq) (status : Byte) (detail : BitVec 16) : Seq :=
  { e with st := .ending, was := if e.st = .held then e.was else e.st, endCode := status, endDetail := detail }
/-- An end decided for a sequence (R293, R300, R317): at the retirement of the step in flight that holds it, or at once. -/
def State.decideEnd (s : State) (q : SeqNo) (status : Byte) (detail : BitVec 16) : State :=
  let e := s.dev.seq q
  if !e.alive || e.st == .ending then s
  else if s.dev.inStep q || s.dev.inRerun q then
    { s with dev := s.dev.setSeq q (e.toEnd status detail) }
  else (s.endSeq q status detail s.dev.now).releaseSeq q
/-- Safe Hold of a sequence (R306, R482, R485): END, and the entry keeps its pages. Cause 0: a wider scope covers it and keeps its own record. -/
def State.seqHold (s : State) (q : SeqNo) (cause : Nat) (status : Byte) (time : Nat) : State :=
  let e := s.dev.seq q
  if !e.alive then s
  else
    let s := if cause = 0 then s else s.logFault ⟨1, 10, q.toNat, cause, some e.part, some q, status, 0⟩
    let s := s.emitSeq q { s.dev.seqEv q evEND stABORTED time with
      final := true, detail := 0x0009, value := BitVec.ofNat 32 e.out.length }
    let d := (s.dev.srvCount 7 1).setEvt .srvEvt 4
    let d := if cause = 0 then d else d.setEvt .pwrEvt 0x400000
    let d := d.setSeq q { e with st := .safeHold, cost := 0, costPf := 0, reserved := 0, rows := 0, heldAt := d.now }
    (({ s with dev := d.abortWhere (fun t => t.desc.op == 0x30 && atSeq t.desc == q) 0x0009 }).planDrained e.plan).mboxDrained

/-! Withdrawal (R300, R301). -/

/-- `a` is withdrawn before `b`. -/
def Dev.ranksBefore (d : Dev) (a b : SeqNo × Seq) : Bool :=
  let ca := Tbl.get 0 d.srv.cls a.2.part.toNat
  let cb := Tbl.get 0 d.srv.cls b.2.part.toNat
  if ca ≠ cb then decide (ca < cb)
  else if a.2.priority ≠ b.2.priority then decide (a.2.priority < b.2.priority)
  else if a.2.admitted ≠ b.2.admitted then decide (b.2.admitted < a.2.admitted)
  else decide (b.1 < a.1)
/-- An entry put in its place in the ranking. -/
def Dev.rankPut (d : Dev) (x : SeqNo × Seq) : List (SeqNo × Seq) → List (SeqNo × Seq)
  | [] => [x]
  | y :: ys => if d.ranksBefore x y then x :: y :: ys else y :: d.rankPut x ys
def Dev.ranked (d : Dev) (l : List (SeqNo × Seq)) : List (SeqNo × Seq) := l.foldl (fun r x => d.rankPut x r) []
/-- Bytes of T1 or T2 a partition holds for good. -/
def Dev.neBytes (d : Dev) (p : PartNo) (t : Tier) : Nat := (d.usage p t).2 * granSize
/-- The T1 inequality with `need` pages more. -/
def Dev.t1Fits (d : Dev) (p : PartNo) (need : Nat) : Bool :=
  decide (d.neBytes p .t1 + granSize * (d.unwrittenOf (fun e => e.served && e.part == p) + need) ≤ d.floor .t1 p.toNat)
/-- Time reserved by the sequences that a plan goes on serving, in ps. -/
def Dev.timeLoad (d : Dev) (n : PlanNo) : Nat :=
  sumNat ((d.seqsWhere fun e => (e.served || e.resuming) && e.plan == n).map fun e => e.2.cost + e.2.costPf)
/-- The inequality that a fall has to meet again. -/
def Dev.fallFits (d : Dev) : Fall → Bool
  | .time n level _ => (d.plan n).timeFits level (d.timeLoad n)
  | .t1 p => d.t1Fits p 0
/-- The candidates of a fall, ranked. -/
def Dev.fallCands (d : Dev) : Fall → List (SeqNo × Seq)
  | .time n _ moved =>
    d.ranked ((d.seqsWhere fun e => (e.served || e.resuming) && e.plan == n).filter fun x => moved.all fun l => l.contains x.1)
  | .t1 p => d.ranked (d.seqsWhere fun e => e.served && e.part == p)
/-- DETAIL of a withdrawal. -/
def Fall.detail : Fall → BitVec 16
  | .time _ _ _ => 0x0002
  | .t1 _ => 0x0001
/-- The device as a sequence's end will leave it: its reservation, its pages and its map given back. -/
def Dev.without (d : Dev) (q : SeqNo) : Dev :=
  let e := d.seq q
  let d := (d.mapEntries e (d.kvStreams e.kvObj) peHeld).foldl (fun d x =>
    let d := d.unrefPage (peObj x.2.2) (peGran x.2.2)
    if d.pageRefs (peObj x.2.2) (peGran x.2.2) = 0 then d.blankGran (peObj x.2.2) (peGran x.2.2) else d) d
  (d.fwDestroy e.kvObj).setSeq q Seq.reset
/-- Candidates withdrawn from the front until the demand fits without them. -/
def withdrawUntil (fits : Dev → Bool) : Dev → List SeqNo → List SeqNo
  | _, [] => []
  | d, x :: xs => if fits d then [] else x :: withdrawUntil fits (d.without x) xs
/-- Whom a fall withdraws, where `gone` and the ENDING ones free what they hold first (R300). -/
def Dev.fallVictims (d : Dev) (gone : List SeqNo) (f : Fall) : List SeqNo :=
  let d := (gone ++ (d.seqsWhere fun e => e.st == .ending).map (·.1)).foldl Dev.without d
  withdrawUntil (Dev.fallFits · f) d ((d.fallCands f).map (·.1))
/-- A recompute with no step in flight to wait for. -/
def State.meetFall (s : State) (f : Fall) : State :=
  (s.dev.fallVictims [] f).foldl (fun s q => s.decideEnd q stWITHDRAWN f.detail) s
/-- A fall that plan numbers' steps in flight hold up is met at the last of their retirements, else at once (log entry 108). -/
def State.fallAfter (s : State) (f : Fall) (ws : List PlanNo) : State :=
  if ws.isEmpty then s.meetFall f else { s with dev := { s.dev with srv := { s.dev.srv with recomp := s.dev.srv.recomp ++ [⟨f, ws⟩] } } }
/-- Plans with a step in flight that satisfy `f`. -/
def Dev.runningPlans (d : Dev) (f : Nat → Plan → Bool) : List PlanNo :=
  (d.srv.plan.filter fun e => e.2.running && f e.1 e.2).map fun e => BitVec.ofNat 4 e.1
/-- The figures of the plans of `f` scaled again, by the f of a level or of a lower one that a member a plan names runs at. -/
def State.refitPlans (s : State) (f : Plan → Bool) (level : Nat) : State :=
  (List.range 16).foldl (fun s n =>
    let k : PlanNo := BitVec.ofNat 4 n
    let p := s.dev.plan k
    if p.runs && f p then s.fallAfter (.time k (max level (s.dev.levelFor p)) none) (s.dev.runningPlans fun m _ => m == n) else s) s
/-- A lowered cap or an emergency: every plan's figures scaled by the f of a level. -/
def State.refitAll (s : State) (level : Nat) : State := s.refitPlans (fun _ => true) level
/-- A lowered T1 floor: the partition's T1 inequality met again. -/
def State.refitT1 (s : State) (p : PartNo) : State := s.fallAfter (.t1 p) (s.dev.runningPlans fun _ k => k.part == p)
/-- A lowered T2 floor: PARKED sequences, which no step holds. -/
def State.refitT2 (s : State) (p : PartNo) : State :=
  let cs := s.dev.ranked (s.dev.seqsWhere fun e => e.st == .parked && e.part == p)
  (cs.foldl (fun s x =>
    if s.dev.neBytes p .t2 + granSize * s.dev.unwrittenOf (fun e => e.st == .parked && e.part == p) ≤ s.dev.floor .t2 p.toNat then s
    else s.decideEnd x.1 stWITHDRAWN 0x0001) s)
/-- The partitions whose floors are below those of `old` meet their figures again. -/
def State.refitTiers (s : State) (old : Dev) : State :=
  (List.range 8).foldl (fun s p =>
    let s := if s.dev.floor .t1 p < old.floor .t1 p then s.refitT1 (BitVec.ofNat 3 p) else s
    if s.dev.floor .t2 p < old.floor .t2 p then s.refitT2 (BitVec.ofNat 3 p) else s) s
/-- Admission to a plan or partition waits for a recompute (R300). -/
def Dev.admitWaits (d : Dev) (n : PlanNo) (p : PartNo) : Bool := d.srv.recomp.any fun r => match r.fall with
  | .time m _ _ => m == n
  | .t1 q => q == p
/-- An admission is held for a queue's record, or for a mailbox prompt: what comes after it waits (R285). -/
def Dev.heldFor (d : Dev) (q : Option QueueNo) : Bool := d.srv.heldReq.any fun h => match h with
  | .sub x => x.q == q
  | .resume k _ => some k == q

end Sys2Proof.Machine
end

