-- ==== Sys2Proof/Machine/Issue.lean ====
section
/-! DEFINITION. The commands of a plan's step: templates expanded, patched, bound to what they wait on and issued by the firmware
(spec/11 R283, R312; spec/12 R333, R344). -/

namespace Sys2Proof.Machine

/-! Templates (R283). -/

/-- Bits [hi:lo] of a word replaced. -/
def setF (w hi lo v : Nat) : Nat := w - fld w hi lo * 2 ^ lo + v % 2 ^ (hi + 1 - lo) * 2 ^ lo
/-- A word of a descriptor replaced. -/
def Desc.put (x : Desc) (i v : Nat) : Desc :=
  let b := BitVec.ofNat 64 v
  match i with
  | 0 => { x with w0 := b }
  | 1 => { x with w1 := b }
  | 2 => { x with w2 := b }
  | 3 => { x with w3 := b }
  | 4 => { x with w4 := b }
  | 5 => { x with w5 := b }
  | 6 => { x with w6 := b }
  | _ => { x with w7 := b }
/-- Bits [hi:lo] of word `i` replaced. -/
def Desc.setF (x : Desc) (i hi lo v : Nat) : Desc := x.put i (Sys2Proof.Machine.setF (x.w i) hi lo v)
/-- Address words of an opcode that may be in scratchpad form. -/
def addrWords (op : Nat) : List Nat :=
  if op = 0x10 then [1, 2, 5, 6] else if op = 0x11 ∨ op = 0x30 then [1, 2, 3] else if op = 0x12 then [1, 2, 6]
  else if op = 0x13 ∨ op = 0x14 ∨ op = 0x20 then [1, 2] else []
/-- M_LEN or ROWS of an opcode set. -/
def Desc.setRows (x : Desc) (n : Nat) : Desc :=
  if x.op = 0x10 then x.setF 3 11 0 n
  else if x.op = 0x11 then x.setF 5 31 0 n
  else if x.op = 0x12 ∨ x.op = 0x14 then x.setF 3 31 0 n
  else if x.op = 0x20 then x.setF 3 63 32 n
  else x
/-- The object of a sequence's adapter version. -/
def Dev.adObj (d : Dev) (e : Seq) : ObjNo :=
  match (d.adVers e.part e.adapterId).find? fun v => v.uid == e.adUid with
  | some v => v.obj
  | none => 0
/-- The step's row count: the rows of the whole batch (log entry 44). -/
def Dev.stepRows (d : Dev) (p : Plan) : Nat := sumNat (p.batch.map fun q => (d.seq q).rows)
/-- A repetition's descriptor with PART and the patches of R283, but for TAG and waits. -/
def Dev.patched (d : Dev) (p : Plan) (tm : Tmpl) (j : StepJob) : Desc :=
  let x := (tm.desc.setF 0 22 20 p.part.toNat).setF 0 39 38 0
  let x := x.setF 0 63 40 0
  let x := match j.seq with
    | none => x
    | some (q, b) =>
      let e := d.seq q
      let x := if bitN tm.patch 0 && x.op == 0x30 then
          let y := (x.setF 4 63 48 e.gen.toNat).setF 4 47 36 q.toNat
          let y := if tm.rpt = 2 then y.setF 4 35 20 j.stream else y
          ((y.setF 5 63 42 (e.len + e.rows)).setF 5 41 32 e.rows).setF 7 7 7 1
        else x
      let x := if bitN tm.patch 1 then
          (addrWords x.op).foldl (fun (x : Desc) i => if isSp (x.w i) then x.put i ((x.w i + tm.stride * b) % 2 ^ 64) else x) x
        else x
      if bitN tm.patch 3 then x.setF 2 55 40 (d.adObj e).toNat else x
  let x := if bitN tm.patch 4 then x.setRows (d.stepRows p) else x
  let x := if bitN tm.patch 2 && (x.op == 0x12 || x.op == 0x14) then x.setRows (if j.seq.isSome then 1 else p.batch.length) else x
  match j.seq with
  | some (q, _) => if bitN tm.patch 2 && x.op == 0x14 && (d.seq q).grammar then x.put 1 (d.seq q).automaton.toNat else x
  | none => x
/-- The repetitions of one template (R283): those of PATCH bit [3] only for sequences with an adapter. -/
def Dev.jobsOf (d : Dev) (p : Plan) (i : Nat) (tm : Tmpl) : List StepJob :=
  let bs := ((List.range p.batch.length).map fun b => (p.batch.getD b 0, b)).filter fun x =>
    (tm.rpt != 3 || (d.seq x.1).st == .prefill) && (!bitN tm.patch 3 || (d.seq x.1).adapter)
  if tm.rpt = 0 then (if bitN tm.patch 3 then [] else [⟨i, none, 0, none⟩])
  else if tm.rpt = 2 then bs.flatMap fun x => (List.range p.streams).map fun s => ⟨i, some x, s, none⟩
  else bs.map fun x => ⟨i, some x, 0, none⟩
/-- Every repetition of a step, in template order. -/
def Dev.jobs (d : Dev) (p : Plan) : List StepJob :=
  (List.range p.tmpl.length).flatMap fun i => match p.tmpl[i]? with
    | some tm => d.jobsOf p i tm
    | none => []

/-! Rows of SAMPLE and MASK (R312). -/

/-- A region the firmware may write for a plan: scratchpad, or an object of the partition that is LIVE. -/
def Dev.mayWrite (d : Dev) (p : PartNo) (w : Nat) : Bool :=
  isSp w || ((d.obj (urObj w)).st == .live && (d.obj (urObj w)).part == p)
/-- Parameters of a sequence's sampler slot. -/
def Seq.slotBytes (e : Seq) : List Byte := natLe 4 e.temp.toNat ++ natLe 4 e.topP.toNat ++ natLe 2 e.topK.toNat ++ List.replicate 6 0
/-- STATE of a sequence's mask row. -/
def Seq.maskState (e : Seq) : List Byte := natLe 4 (if e.grammar then e.autoState.toNat else 0xFFFFFFFF)
/-- What the firmware writes before it issues a SAMPLE or a MASK with PATCH bit [2]: a slot or a row for each sequence. -/
def Dev.rowInputs (d : Dev) (p : Plan) (tm : Tmpl) (j : StepJob) (x : Desc) : Dev :=
  if !bitN tm.patch 2 || tm.member != 0 || !d.mayWrite p.part (x.w 2) then d
  else
    let qs := match j.seq with
      | some (q, _) => [q]
      | none => p.batch
    (List.range qs.length).foldl (fun d r =>
      let e := d.seq (qs.getD r 0)
      if x.op = 0x12 then d.memWrite (x.w 2) (32 * r) e.slotBytes
      else if x.op = 0x14 then d.memWrite (x.w 2) (16 * r) e.maskState
      else d) d

/-! Binding and tags. -/

/-- The repetition a command stands for is one a job waits on: of the same sequence, and of the same stream where both name one. -/
def bindsTo (tms : List Tmpl) (j : StepJob) (c : StepCmd) : Bool :=
  match j.seq, c.seq with
  | some a, some b =>
    a.1 == b.1 && (((tms.getD j.tmpl ⟨Desc.zero, 0, 0, 0, 0, 0, 0⟩).rpt != 2) ||
      (tms.getD (c.tmpl.getD 0) ⟨Desc.zero, 0, 0, 0, 0, 0, 0⟩).rpt != 2 || j.stream == c.stream)
  | _, _ => true
/-- The commands a job's wait index names (R283). -/
def Plan.waitCmds (p : Plan) (j : StepJob) (idx : Nat) : List StepCmd :=
  if idx = 0 ∨ j.tmpl < idx then [] else p.cmds.filter fun c => c.tmpl == some (idx - 1) && bindsTo p.tmpl j c
/-- The command's status is known: noted, or standing in its tag. -/
def Dev.cmdDone (d : Dev) (c : StepCmd) : Option (Byte × BitVec 16) :=
  match c.done with
  | some r => some r
  | none =>
    let e := d.tagE c.tag
    if c.member = 0 ∧ e.st = .completing ∧ e.iss = .firmware then some (e.status, e.detail) else none
/-- Tags that repetitions still to be issued wait on. -/
def Plan.reservedTags (p : Plan) : List Tag :=
  (p.cmds.filter fun c => p.todo.any fun j =>
    let tm := p.tmpl.getD j.tmpl ⟨Desc.zero, 0, 0, 0, 0, 0, 0⟩
    c.tmpl.any fun i => tm.wait0 == i + 1 || tm.wait1 == i + 1).map (·.tag) ++
  match p.todo with
  | ⟨_, _, _, some (a, b)⟩ :: _ => a ++ b
  | _ => []
/-- A free tag of the firmware's window (R92): the lowest that no command in flight and no wait to come holds (log entry 40). -/
def Dev.fwTag (d : Dev) : Option Tag :=
  let held := d.srv.plan.flatMap fun e => e.2.reservedTags ++ (e.2.cmds.filter fun c => c.done.isNone).map (·.tag)
  ((upFrom d.hostWindow (4096 - d.hostWindow)).map fun t => (BitVec.ofNat 12 t : Tag)).find? fun t =>
    !held.contains t && !(d.tagE t).inFlight && !d.links.fwd.any (·.tag == t)
/-- The distributor takes a core command only while its core holds fewer than 128 (R92). -/
def Dev.coreRoom (d : Dev) (m : MemberNo) (x : Desc) : Bool := m != 0 || opChip x.op || decide (d.accepted x.core < 128)

/-! Issue. -/

/-- A command handed to its member: accepted here, or sent as RCMD. A command turned away keeps its status. -/
def Dev.issueCmd (d : Dev) (n : PlanNo) (c : StepCmd) : Dev :=
  let p := d.plan n
  if c.member = 0 then
    let r := d.accept c.desc .firmware false p.part
    r.1.setPlan n { r.1.plan n with cmds := (r.1.plan n).cmds ++ [{ c with done := r.2 }] }
  else if !(Tbl.get Member.reset d.links.members c.member.toNat).present then
    d.setPlan n { p with cmds := p.cmds ++ [{ c with done := some (stUNCORR, 0x000B) }] }
  else
    let x := d.nextXid p.part c.member
    let d := x.2.send (x.2.mkPkt 0x10 p.part c.member x.1 0 (c.desc.bytes ++ natLe 8 n.toNat))
    let d := { d with links := { d.links with fwd := d.links.fwd ++ [(⟨c.member, BitVec.ofNat 16 x.1, c.tag⟩ : Fwd)] } }
    d.setPlan n { d.plan n with cmds := (d.plan n).cmds ++ [c] }
/-- A descriptor's waits set on tags. -/
def Desc.withWaits (x : Desc) (a b : List Tag) : Desc :=
  let x := match a.head? with
    | some t => (x.setF 0 51 40 t.toNat).setF 0 38 38 1
    | none => x
  match b.head? with
  | some t => (x.setF 0 63 52 t.toNat).setF 0 39 39 1
  | none => x
/-- The NOP that joins two waits, on a core of the plan. -/
def joinNop (p : Plan) (x : Desc) (a b : Tag) : Desc :=
  let c := if opChip x.op then ((setBits p.coreMask 64).head?).getD 0 else x.core.toNat
  (((Desc.zero.setF 0 7 0 1).setF 0 22 20 p.part.toNat).setF 0 29 24 c).withWaits [a] [b]
/-- One thing done towards the next repetition of a plan's step: its waits are bound, two of them are joined, or it is issued.
None where it has to wait: for a tag, for room on its core, or for a template of another member (R344). -/
def Dev.issueOne (d : Dev) (n : PlanNo) : Option Dev :=
  let p := d.plan n
  match p.todo with
  | [] => none
  | j :: js =>
    match p.tmpl[j.tmpl]? with
    | none => some (d.setPlan n { p with todo := js })
    | some tm =>
      match j.bound with
      | none =>
        let ws := p.waitCmds j tm.wait0 ++ p.waitCmds j tm.wait1
        let far := ws.filter fun c => c.member != tm.member
        if far.any fun c => (d.cmdDone c).isNone then none
        else if far.any fun c => (d.cmdDone c).any fun r => !stSuccess r.1 then
          some (d.setPlan n { p with todo := js, cmds := p.cmds ++
            [(⟨some j.tmpl, j.seq, j.stream, tm.member, 0, d.patched p tm j, some (stABORTED, 0x0007), []⟩ : StepCmd)] })
        else
          let near := fun idx => ((p.waitCmds j idx).filter fun c => c.member == tm.member).map (·.tag)
          some (d.setPlan n { p with todo := { j with bound := some (near tm.wait0, near tm.wait1) } :: js })
      | some (a, b) =>
        let x := d.patched p tm j
        match d.fwTag with
        | none => none
        | some t =>
          match a, b with
          | a0 :: a1 :: as, b =>
            let y := (joinNop p x a0 a1).setF 0 19 8 t.toNat
            if !d.coreRoom tm.member y then none
            else
              let d := d.setPlan n { p with todo := { j with bound := some (t :: as, b) } :: js }
              some (d.issueCmd n ⟨none, j.seq, j.stream, tm.member, t, y, none, []⟩)
          | a, b0 :: b1 :: bs =>
            let y := (joinNop p x b0 b1).setF 0 19 8 t.toNat
            if !d.coreRoom tm.member y then none
            else
              let d := d.setPlan n { p with todo := { j with bound := some (a, t :: bs) } :: js }
              some (d.issueCmd n ⟨none, j.seq, j.stream, tm.member, t, y, none, []⟩)
          | a, b =>
            let y := (x.withWaits a b).setF 0 19 8 t.toNat
            if !d.coreRoom tm.member y then none
            else
              let d := (d.setPlan n { p with todo := js }).rowInputs p tm j y
              some (d.issueCmd n ⟨some j.tmpl, j.seq, j.stream, tm.member, t, y, none, []⟩)
/-- A plan's repetitions issued while they can be, by fuel. -/
def Dev.issueRun : Nat → Dev → PlanNo → Dev
  | 0, d, _ => d
  | fuel + 1, d, n =>
    match d.issueOne n with
    | none => d
    | some d => Dev.issueRun fuel d n
/-- Every plan's repetitions issued while they can be. -/
def Dev.issuePump (d : Dev) : Dev :=
  (List.range 16).foldl (fun d n =>
    let p := d.plan (BitVec.ofNat 4 n)
    if p.todo.isEmpty then d else Dev.issueRun (4 * p.todo.length + 8192) d (BitVec.ofNat 4 n)) d

/-! What becomes of them. -/

/-- The masses an ATTEND with SCORE wrote (R263). -/
def Dev.massOf (d : Dev) (x : Desc) (st : Byte) : List (Nat × W32) :=
  if x.op = 0x30 ∧ atScore x = true ∧ (stSuccess st ∨ st = 0x84 ∨ st = 0x85) then
    (List.range (atWp x)).map fun i =>
      (leNat (d.memRead (x.w 3) (atMassOff x + 8 * i) 4).1, BitVec.ofNat 32 (leNat (d.memRead (x.w 3) (atMassOff x + 8 * i + 4) 4).1))
  else []
/-! Prefill hand-off (spec/12 R353; log entry 110). -/

/-- The member of a plan's ATTEND templates where their repetitions are all in `f`. -/
def Plan.attendsOn (p : Plan) (f : Nat → Bool) : Option MemberNo :=
  let ts := p.tmpl.filter fun t => t.desc.op == 0x30
  if ts.all fun t => f t.rpt then ts.head?.map (·.member) else none
/-- A prefill plan attends only for sequences in PREFILL, on its prefill member; a decode plan never for those alone, on its decode member. -/
def Plan.prefillOn (p : Plan) : Option MemberNo := p.attendsOn (· == 3)
def Plan.decodeOn (p : Plan) : Option MemberNo := p.attendsOn (· != 3)
/-- Plan `q` decodes what plan `p` has prefilled: group plans of one partition with the same KVFMT, VINE_SALT, which stands for the fold (spec/10
R268), and STREAMS, on two members. -/
def handPair (p q : Plan) : Bool :=
  p.flag 5 && q.flag 5 && q.st == .active && q.part == p.part && q.h 7 1 == p.h 7 1 && q.salt == p.salt && q.streams == p.streams &&
  p.prefillOn.isSome && q.decodeOn.isSome && p.prefillOn != q.decodeOn
/-- The decode plan a plan hands its pages to: the lowest one, under feature bit [16]. -/
def Dev.handTo (d : Dev) (n : PlanNo) : Option PlanNo :=
  if d.feature 16 && (d.plan n).runs then
    ((List.range 16).map fun i => (BitVec.ofNat 4 i : PlanNo)).find? fun m => m != n && handPair (d.plan n) (d.plan m)
  else none
/-- Prompt positions that a sequence handed off is prefilled for: its full pages. -/
def Seq.handLen (e : Seq) : Nat := e.promptLen / 64 * 64
/-- Its prefill is over: it waits for its pages. -/
def Dev.handed (d : Dev) (e : Seq) : Bool := (d.handTo e.plan).isSome && decide (e.handLen ≤ e.len)
/-- Its pages are written on another member and handed to this one: this map's entries are filled as the pages land. -/
def Dev.handsHere (d : Dev) (e : Seq) : Bool :=
  match d.handTo e.plan with
  | some m => (d.plan m).decodeOn == some 0 && decide (e.len < e.handLen)
  | none => false
/-- The pages that a step from position `a` on has filled, handed off. -/
def Dev.handPages (d : Dev) (q : SeqNo) (a : Nat) : Dev :=
  let e := d.seq q
  match d.handTo e.plan with
  | none => d
  | some m =>
    let hs := (upFrom (a / 64) (e.len / 64 - a / 64)).flatMap fun i => (List.range (d.kvStreams e.kvObj)).map fun s =>
      (⟨q, e.gen, s, i, e.plan, m, none, none⟩ : HandOff)
    { d with srv := { d.srv with hand := d.srv.hand ++ hs } }
/-- Address of the page of an entry. -/
def pageAddr (w : Nat) : Nat := (peObj w).toNat * 2 ^ 40 + peGran w * granSize
/-- The LINK_PUT of a page: WRITE, CODEC NONE; where a page stands on a member other than this one is that member's own: free. -/
def Dev.handDesc (d : Dev) (h : HandOff) (a b : MemberNo) (t : Tag) : Desc × Dev :=
  let e := d.seq h.seq
  let here := pageAddr (d.kvEntry e.kvObj h.stream h.page)
  let r := d.freeNat
  let r2 := r.2.freeNat
  let x := (((Desc.zero.setF 0 7 0 0x50).setF 0 19 8 t.toNat).setF 0 22 20 e.part.toNat).put 1 (if a = 0 then here else r.1)
  (((x.put 2 (if b = 0 then here else r2.1)).put 3 granSize).setF 4 39 34 b.toNat, r2.2)
/-- A page's LINK_PUT given to its prefill member. -/
def Dev.handOne (d : Dev) (i : Nat) (t : Tag) : Dev :=
  match d.srv.hand[i]? with
  | none => d
  | some h =>
    let a := ((d.plan h.src).prefillOn).getD 0
    let b := ((d.plan h.dst).decodeOn).getD 0
    let x := d.handDesc h a b t
    let set (d : Dev) (h : HandOff) : Dev := { d with srv := { d.srv with hand := d.srv.hand.set i h } }
    if a = 0 then
      let r := x.2.accept x.1 .firmware false (d.seq h.seq).part
      set r.1 { h with cmd := some (0, t), done := r.2.map (·.1) }
    else if !(Tbl.get Member.reset d.links.members a.toNat).present then set d { h with cmd := some (a, t), done := some stUNCORR }
    else
      let y := x.2.nextXid (d.seq h.seq).part a
      let d := y.2.send (y.2.mkPkt 0x10 (d.seq h.seq).part a y.1 0 (x.1.bytes ++ natLe 8 h.src.toNat))
      set { d with links := { d.links with fwd := d.links.fwd ++ [(⟨a, BitVec.ofNat 16 y.1, t⟩ : Fwd)] } } { h with cmd := some (a, t) }
/-- Pages not sent yet are sent while there are tags. -/
def Dev.handPump (d : Dev) : Dev :=
  (List.range d.srv.hand.length).foldl (fun d i =>
    if (d.srv.hand[i]?).any fun h => h.cmd.isNone then
      match d.fwTag with
      | none => d
      | some t => d.handOne i t
    else d) d

/-- The outcome of member `m`'s command of tag `t` noted in the step that issued it, or with the page it moved. -/
def Dev.noteStep (d : Dev) (m : MemberNo) (t : Tag) (st : Byte) (detail : BitVec 16) : Dev :=
  let note (c : StepCmd) : StepCmd :=
    if c.member = m ∧ c.tag = t ∧ c.done = none then
      { c with done := some (st, detail), mass := if m = 0 then d.massOf c.desc st else [] } else c
  { d with srv := { d.srv with
      plan := Tbl.mapAll Plan.reset (fun _ p => { p with cmds := p.cmds.map note }) d.srv.plan
      hand := d.srv.hand.map fun h => if h.cmd = some (m, t) ∧ h.done = none then { h with done := some st } else h } }

/-! Safe Hold by a command's outcome (R306). -/

/-- CAUSE of a Safe Hold by a command's status (R485). -/
def holdCause (op : Nat) (st : Byte) : Nat :=
  if op = 0x12 ∨ op = 0x14 then 0x07 else if op = 0x30 ∧ st = 0x85 then 0x06 else if st = stUNCORR then 0x01 else 0x0B
/-- An ATTEND's outcome that casts doubt on its sequence: UNCORRECTABLE, but for the core retirement of R302, AT_NUMERIC, AT_MAP, AT_NO_PAGE,
AT_SHARED or AT_TRELLIS. -/
def attDoubt (x : Desc) (st : Byte) (detail : BitVec 16) : Bool :=
  x.op == 0x30 && ((st == stUNCORR && detail != 0x000B) || [0x80, 0x81, 0x82, 0x83, 0x85].contains st)

end Sys2Proof.Machine
end

