-- ==== Sys2Proof/Machine/Replies.lean ====
section
/-! DEFINITION. Object Dictionary responses as they reach a requester path and its OD_ window (spec/18 R495, R502, R508, R511 to R513). -/

namespace Sys2Proof.Machine

/-- Number of a path: PF 0, VDM 1, SIDE 2, VF v 2 + v. -/
def OdPath.num : OdPath → Nat
  | .pf => 0
  | .vdm => 1
  | .side => 2
  | .vf v => 3 + v.val
/-- The path of a number. -/
def pathOf (n : Nat) : OdPath :=
  if n = 0 then .pf else if n = 1 then .vdm else if n = 2 then .side else .vf ⟨(n - 3) % 8, Nat.mod_lt _ (by decide)⟩
/-- The function whose OD_ window a path is. -/
def OdPath.func : OdPath → Option Nat
  | .pf => some 0
  | .vf v => some (1 + v.val)
  | _ => none
/-- A result with no value. -/
def odCode (r : Nat) : OdResp := ⟨BitVec.ofNat 8 r, [], 0, 0⟩
/-- OD_RESP once the response stands. -/
def OdResp.reg (r : OdResp) : W32 :=
  BitVec.ofNat 32 (r.value.length % 8192 * 65536 + r.result.toNat * 256 + r.typ.toNat * 16 + r.access.toNat)
/-- A window changed. -/
def Dev.modWin (d : Dev) (f : Nat) (g : OdWin → OdWin) : Dev := { d with od := { d.od with win := Tbl.mod OdWin.reset d.od.win f g } }
/-- A response delivered to its path. -/
def Dev.odReply (d : Dev) (p : OdPath) (r : OdResp) : Dev :=
  let d := { d with od := { d.od with resp := Tbl.set none d.od.resp (OdPath.num p) (some r) } }
  match OdPath.func p with
  | some f => d.modWin f fun w => { w with resp := r.reg, data := Memory.writeN w.data 0 r.value }
  | none => d
/-- A request of a window that waits for a member: BUSY. -/
def Dev.odBusy (d : Dev) (p : OdPath) : Dev :=
  match OdPath.func p with
  | some f => d.modWin f fun w => { w with resp := 0x80000000 }
  | none => d
/-- A tag that the firmware's commands hold: of this device, or sent on to a member (R92). -/
def Dev.fwHolds (d : Dev) (p : Nat → Bool) : Bool :=
  (d.cores.tag.any fun x => x.2.inFlight && p x.1 && match x.2.iss with
    | .queue _ => false
    | _ => true) || d.links.fwd.any fun f => p f.tag.toNat
/-- Window writes that waited are answered once no command of the firmware holds a tag of the host window (spec/04 R119). -/
def Dev.odSettle (d : Dev) : Dev :=
  if d.od.draining.isEmpty || d.fwHolds (fun t => decide (t < d.hostWindow)) then d
  else d.od.draining.foldl (fun d p => d.odReply p (odCode 0)) { d with od := { d.od with draining := [] } }
/-- Requests bridged to a member that will not answer any more end UNREACHABLE. -/
def Dev.dropBridged (d : Dev) (m : MemberNo) : Dev :=
  let bs := d.links.bridged.filter (·.member == m)
  let d := { d with links := { d.links with bridged := d.links.bridged.filter (·.member != m) } }
  bs.foldl (fun d b => d.odReply b.path (odCode 7)) d

end Sys2Proof.Machine
end

