-- ==== Sys2Proof/Machine/Records.lean ====
section
/-! DEFINITION. Completion records on their way to a ring, to the head or to the firmware, and what goes on once a tag is free (spec/04
R92, R103; spec/13 R378, R383). -/

namespace Sys2Proof.Machine

/-- Once a tag is free: released pages, held-back templates and held-back descriptors go on, and a window write that waited for it is answered (spec/04 R119). -/
def State.pumpRest (s : State) : State := ({ s with dev := s.dev.gcPages.issuePump.handPump.odSettle }).pumpAll

/-! Completion records (R92, R103, R378, R383). -/

/-- A driver's own ATTEND that ends in doubt places the sequence it names in Safe Hold (spec/10 R259; spec/11 R306). -/
def State.attendDoubt (s : State) (e : TagE) : State :=
  let q := s.dev.seq (atSeq e.desc)
  if attDoubt e.desc e.status e.detail && q.part == e.desc.part && q.gen.toNat == atGen e.desc then
    s.seqHold (atSeq e.desc) (holdCause 0x30 e.status) e.status s.dev.now
  else s

/-- The record of a COMPLETING entry goes where it belongs: to its queue's ring once there is space, suppressed by QUIET, discarded for
a faulted queue, sent to the head as RDONE; the firmware's own needs none. The entry then returns to FREE. -/
def State.recordTag (s : State) (t : Tag) : State :=
  let e := s.dev.tagE t
  let freed (s : State) : State := { s with dev := s.dev.freeTag t }
  let noted (s : State) : State := { s with dev := s.dev.noteStep 0 t e.status e.detail }
  if e.st ≠ .completing then s
  else match e.iss with
    | .firmware => (freed (noted s)).pumpRest
    | .head m ext ctx =>
      let d := s.dev.send (s.dev.mkPkt 0x11 e.desc.part m ext 0 ((s.dev.tagRecord e).bytes ++ natLe 8 ctx.toNat))
      (freed { s with dev := d }).pumpRest
    | .queue q =>
      let s := s.attendDoubt e
      let k := s.dev.queue q
      if (e.desc.quiet && (e.status == stDONE || e.status == stRETRIED)) || k.fault then
        let s := freed s
        ({ s with dev := s.dev.drained q }).pumpRest
      else if k.full then { s with dev := s.dev.setEvt (.hifEvt ⟨k.func.toNat % 9, Nat.mod_lt _ (by decide)⟩) 0x10 }
      else
        let s := freed (s.cqWrite q (s.dev.tagRecord e))
        ({ s with dev := s.dev.drained q }).pumpRest

/-- The oldest record a queue holds that belongs to no tag entry. -/
def State.recordDue (s : State) (q : QueueNo) : State :=
  let k := s.dev.queue q
  match k.due with
  | [] => s
  | r :: rs =>
    let keep (s : State) : State := { s with dev := (s.dev.setQueue q { s.dev.queue q with due := rs }).drained q }
    if k.fault then keep s
    else if k.full then { s with dev := s.dev.setEvt (.hifEvt ⟨k.func.toNat % 9, Nat.mod_lt _ (by decide)⟩) 0x10 }
    else keep (s.cqWrite q r)

def execCompletionRecordWrite (src : RecSrc) (s : State) : Host.Outcome State Fault Refusal :=
  match src with
  | .tag t => .next (s.recordTag t)
  | .queue q => .next (s.recordDue q)

end Sys2Proof.Machine
end

