-- ==== Sys2Proof/Machine/Vine.lean ====
section
/-! DEFINITION. The Vine and Pruning: node slots of a partition's Vine object, lookup at admission, insertion at retirement, eviction,
page scores (spec/10 R268 to R274, R279, R280). -/

namespace Sys2Proof.Machine

/-! Nodes (R269). -/

def Dev.vineObj (d : Dev) (p : PartNo) : ObjNo := Tbl.get 0 d.srv.vineObj p.toNat
def Dev.vineNodes (d : Dev) (p : PartNo) : Nat := Tbl.get 0 d.srv.vineNodes p.toNat
def Dev.vineUsed (d : Dev) (p : PartNo) : List Nat := Tbl.get [] d.srv.vineUsed p.toNat
def Dev.setVineUsed (d : Dev) (p : PartNo) (l : List Nat) : Dev :=
  { d with srv := { d.srv with vineUsed := Tbl.set [] d.srv.vineUsed p.toNat l } }
/-- `n` bytes at `at_` of node slot `sl`. -/
def Dev.nodeAt (d : Dev) (p : PartNo) (sl at_ n : Nat) : Nat := leNat (d.objRead (d.vineObj p) (sl * 2048 + at_) n)
/-- A field of a node slot stored. -/
def Dev.nodePut (d : Dev) (p : PartNo) (sl at_ n v : Nat) : Dev := d.objWrite (d.vineObj p) (sl * 2048 + at_) (natLe n v)
def Dev.nodeStreams (d : Dev) (p : PartNo) (sl : Nat) : Nat := d.nodeAt p sl 32 2
/-- The page word of stream `s` in a node. -/
def Dev.nodePage (d : Dev) (p : PartNo) (sl s : Nat) : Nat := d.nodeAt p sl (320 + 8 * s) 8
/-- The slots where a node of hash `h` may stand. -/
def probes (nodes : Nat) (h : W64) : List Nat := (List.range 8).map fun j => (h.toNat % nodes + j) % nodes
/-- PARENT of block 0's node. -/
def noParent : Nat := 0xFFFFFFFF
/-- h_k (R268). -/
def Dev.blockHash (d : Dev) (p : PartNo) (prev : W64) (toks : List W32) : W64 :=
  sipHash (Config.vineKey ((d.part p).keyVine.getD 0)) (natLe 8 prev.toNat ++ toks.flatMap fun t => natLe 4 t.toNat)
/-- Block `k` of a list of tokens. -/
def blockToks (ts : List W32) (k : Nat) : List W32 := (ts.drop (64 * k)).take 64

/-! Lookup (R270). -/

/-- A used slot with the block's hash. -/
def Dev.vineHashEq (d : Dev) (p : PartNo) (h : W64) (sl : Nat) : Bool := (d.vineUsed p).contains sl && d.nodeAt p sl 0 8 == h.toNat
/-- Its other conditions for block `k`. -/
def Dev.vineRest (d : Dev) (p : PartNo) (streams k : Nat) (salt : W64) (parent : Nat) (toks : List W32) (sl : Nat) : Bool :=
  d.nodeStreams p sl == streams && d.nodeAt p sl 8 4 == (if k = 0 then noParent else parent) &&
  (k != 0 || d.nodeAt p sl 16 8 == salt.toNat) &&
  d.objRead (d.vineObj p) (sl * 2048 + 64) 256 == toks.flatMap fun t => natLe 4 t.toNat
/-- What a lookup found: the slots matched in order, the hash of the last, the nodes met that have a block's hash and fail another condition. -/
structure VineHit where
  slots : List Nat
  hash : W64
  collisions : Nat
deriving DecidableEq, Repr
/-- Blocks looked up from block `k` on, at most `fuel` of them. -/
def Dev.vineWalk (d : Dev) (p : PartNo) (streams : Nat) (salt : W64) (ts : List W32) : Nat → Nat → Nat → W64 → VineHit
  | 0, _, _, prev => ⟨[], prev, 0⟩
  | fuel + 1, k, parent, prev =>
    let toks := blockToks ts k
    let h := d.blockHash p prev toks
    let cands := (probes (d.vineNodes p) h).filter (d.vineHashEq p h)
    let bad := (cands.filter fun sl => !d.vineRest p streams k salt parent toks sl).length
    match cands.find? (d.vineRest p streams k salt parent toks) with
    | some sl =>
      let r := Dev.vineWalk d p streams salt ts fuel (k + 1) sl h
      { r with slots := sl :: r.slots, collisions := r.collisions + bad }
    | none => ⟨[], prev, bad⟩
/-- The lookup of a prompt: whole blocks only, and the last position is left to be processed (R291). -/
def Dev.vineLookup (d : Dev) (p : PartNo) (streams : Nat) (salt : W64) (ts : List W32) : VineHit :=
  if d.vineNodes p = 0 then ⟨[], salt, 0⟩ else d.vineWalk p streams salt ts ((ts.length - 1) / 64) 0 noParent salt

/-! Eviction (R272). -/

/-- The node's pages as (object, granule). -/
def Dev.nodePages (d : Dev) (p : PartNo) (sl : Nat) : List (ObjNo × Nat) :=
  (List.range (d.nodeStreams p sl)).map fun s => (peObj (d.nodePage p sl s), peGran (d.nodePage p sl s))
/-- The node may be evicted: it has no child, and no entry names a page of it. -/
def Dev.evictable (d : Dev) (p : PartNo) (sl : Nat) : Bool :=
  d.nodeAt p sl 12 4 == 0 && (d.nodePages p sl).all fun g => d.pageRefs g.1 g.2 == 1
/-- The streams, as bits, whose page of a node has its Trellis summary; a node word has no place for it (R269, R270). -/
def Dev.nodeTsum (d : Dev) (p : PartNo) (sl : Nat) : Nat := Tbl.get 0 d.srv.vineTsum (p.toNat * 2 ^ 32 + sl)
def Dev.setNodeTsum (d : Dev) (p : PartNo) (sl v : Nat) : Dev :=
  { d with srv := { d.srv with vineTsum := Tbl.set 0 d.srv.vineTsum (p.toNat * 2 ^ 32 + sl) v } }
/-- A node taken out: its pages lose a reference, its parent a child. -/
def Dev.evictNode (d : Dev) (p : PartNo) (sl : Nat) : Dev :=
  let pages := d.nodePages p sl
  let parent := d.nodeAt p sl 8 4
  let d := if parent = noParent then d else d.nodePut p parent 12 4 (d.nodeAt p parent 12 4 - 1)
  let d := (d.setVineUsed p ((d.vineUsed p).filter (· ≠ sl))).setNodeTsum p sl 0
  let d := d.objWrite (d.vineObj p) (sl * 2048) (List.replicate 2048 0)
  let d := pages.foldl (fun d g =>
    let d := d.unrefPage g.1 g.2
    if d.pageRefs g.1 g.2 = 0 ∧ ¬ (d.srv.released.any fun r => r.obj == g.1 && r.gran == some g.2) then d.blankGran g.1 g.2 else d) d
  d.addTot (0xB042 * 256 + 6) 1
/-- The evictable slot of a list that was used longest ago. -/
def Dev.oldest (d : Dev) (p : PartNo) (l : List Nat) : Option Nat :=
  (sortCands ((l.filter (d.evictable p)).map fun sl => ⟨d.nodeAt p sl 24 8, 0, sl⟩)).head?.map (·.g)
/-- Nodes evicted, oldest use first, until `ok` holds or none may be evicted. -/
def Dev.evictUntil (p : PartNo) (ok : Dev → Bool) : Nat → Dev → Dev
  | 0, d => d
  | fuel + 1, d =>
    if ok d then d
    else match d.oldest p (d.vineUsed p) with
      | none => d
      | some sl => Dev.evictUntil p ok fuel (d.evictNode p sl)
/-- A node and every node below it taken out, whatever names their pages (a page of it is DAMAGED). -/
def Dev.evictTree (p : PartNo) : Nat → Dev → Nat → Dev
  | 0, d, _ => d
  | fuel + 1, d, sl =>
    let kids := (d.vineUsed p).filter fun c => d.nodeAt p c 8 4 == sl
    let d := kids.foldl (Dev.evictTree p fuel) d
    if (d.vineUsed p).contains sl then d.evictNode p sl else d
/-- The node that names a page is taken out with its descendants. -/
def Dev.evictPage (d : Dev) (p : PartNo) (o : ObjNo) (g : Nat) : Dev :=
  match (d.vineUsed p).find? fun sl => (d.nodePages p sl).contains (o, g) with
  | none => d
  | some sl => Dev.evictTree p ((d.vineUsed p).length + 1) d sl

/-! Insertion (R271). -/

/-- A used slot list with a slot put in its place. -/
def Dev.vineUse (d : Dev) (p : PartNo) (sl : Nat) : Dev := d.setVineUsed p (insertNat sl (d.vineUsed p))
/-- A page entry of a sequence marked SHARED, with the node's reference on its page. -/
def Dev.sharePage (d : Dev) (e : Seq) (s k : Nat) : Dev :=
  let w := d.kvEntry e.kvObj s k
  (d.kvPut e.kvObj s k (pageEntry 1 true (peTsum w) (peVint w) (peObj w) (peGran w) (peFill w))).refPage (peObj w) (peGran w)
/-- The node of block `k` of a sequence inserted in a slot. -/
def Dev.nodeWrite (d : Dev) (e : Seq) (k sl : Nat) (h : W64) (toks : List W32) (streams : Nat) : Dev :=
  let p := e.part
  let words := (List.range streams).map fun s =>
    let w := d.kvEntry e.kvObj s k
    (peObj w).toNat * 2 ^ 40 + peGran w * 2 ^ 16
  let bytes := natLe 8 h.toNat ++ natLe 4 (if k = 0 then noParent else e.vineParent) ++ natLe 4 0 ++
    natLe 8 (if k = 0 then e.salt.toNat else 0) ++ natLe 8 d.now ++ natLe 2 streams ++ List.replicate 30 0 ++
    (toks.flatMap fun t => natLe 4 t.toNat) ++ words.flatMap (natLe 8)
  let d := d.objWrite (d.vineObj p) (sl * 2048) bytes
  let d := if k = 0 then d else d.nodePut p e.vineParent 12 4 (d.nodeAt p e.vineParent 12 4 + 1)
  let sums := (List.range streams).foldl (fun n s => n + b2n (peTsum (d.kvEntry e.kvObj s k)) * 2 ^ s) 0
  let d := ((d.vineUse p sl).setNodeTsum p sl sums).addTot (0xB042 * 256 + 4) 1
  (List.range streams).foldl (fun d s => d.sharePage e s k) d
/-- Block `k` of sequence `q`, just full in every stream, inserted where R271 lets it. -/
def Dev.vineInsert (d : Dev) (q : SeqNo) (streams k : Nat) : Dev :=
  let e := d.seq q
  let p := e.part
  let toks := blockToks (e.prompt ++ e.out) k
  let whole := (List.range streams).all fun s => peValid (d.kvEntry e.kvObj s k) && !peShared (d.kvEntry e.kvObj s k)
  if d.vineNodes p = 0 ∨ e.vineOff = true ∨ e.vineUpto ≠ k ∨ 216 < streams ∨ whole = false then d
  else
    let h := d.blockHash p (if k = 0 then e.salt else e.vineHash) toks
    let ps := probes (d.vineNodes p) h
    let free := fun (d : Dev) => ps.find? fun sl => !(d.vineUsed p).contains sl
    let d := match free d with
      | some _ => d
      | none =>
        match d.oldest p (ps.filter fun sl => !(k != 0 && sl == e.vineParent)) with
        | none => d
        | some sl => d.evictNode p sl
    match free d with
    | none => (d.addTot (0xB042 * 256 + 5) 1).setEvt .attChipEvt 2
    | some sl =>
      let d := d.nodeWrite e k sl h toks streams
      d.setSeq q { d.seq q with vineUpto := k + 1, vineParent := sl, vineHash := h }

/-! The Vine object (R269, R280). -/

/-- A Vine size written: the next step boundary makes the Vine anew, of whatever size. -/
def Dev.writeVine (d : Dev) (p : PartNo) (v : Nat) : Dev :=
  { d with srv := { d.srv with vineSlots := Tbl.set 0 d.srv.vineSlots p.toNat v, vineAnew := d.srv.vineAnew ||| 2 ^ p.toNat } }
/-- At a step boundary a Vine whose size was written, or that is not there yet, is emptied and made anew. -/
def Dev.vineResize (d : Dev) (p : PartNo) : Dev :=
  let n := Tbl.get 0 d.srv.vineSlots p.toNat
  if d.vineNodes p = n ∧ d.srv.vineAnew.testBit p.toNat = false then d
  else
    let d := (d.vineUsed p).foldl (fun d sl => if (d.vineUsed p).contains sl then Dev.evictTree p ((d.vineUsed p).length + 1) d sl else d) d
    let d := d.fwDestroy (d.vineObj p)
    let r := if n = 0 then ((0 : ObjNo), d)
      else (d.room p .t1 (ceilDiv (n * 2048) granSize)).2.newObj { Obj.reset with st := .live, part := p, place := .t1, size := n * 2048 }
    { r.2 with srv := { r.2.srv with
        vineObj := Tbl.set 0 r.2.srv.vineObj p.toNat r.1, vineNodes := Tbl.set 0 r.2.srv.vineNodes p.toNat n
        vineAnew := r.2.srv.vineAnew &&& (255 - 2 ^ p.toNat) } }
/-- No step of a plan of the partition is in flight. -/
def Dev.atBoundary (d : Dev) (p : PartNo) : Bool := !d.srv.plan.any fun e => e.2.part == p && e.2.running
/-- Every partition at a step boundary. -/
def Dev.vineResizeAll (d : Dev) : Dev :=
  (List.range 8).foldl (fun d p => if d.atBoundary (BitVec.ofNat 3 p) then d.vineResize (BitVec.ofNat 3 p) else d) d

/-! Pruning (R273, R274). -/

/-- Key of a page of a sequence. -/
def scoreKey (s i : Nat) : Nat := s * 16384 + i
/-- Scores of the VALID full pages of a stream brought up to date with the masses of a step; a page that becomes full in the step starts at 0. -/
def Dev.scorePages (d : Dev) (q : SeqNo) (s : Nat) (masses : List (Nat × W32)) (oldLen : Nat) : Dev :=
  let e := d.seq q
  let is := (List.range (e.len / 64)).filter fun i => peValid (d.kvEntry e.kvObj s i) && peFill (d.kvEntry e.kvObj s i) == 64
  let e := is.foldl (fun (e : Seq) i =>
    if oldLen < 64 * i + 64 then { e with fullAt := Tbl.put (scoreKey s i) e.steps e.fullAt, score := Tbl.set 0 e.score (scoreKey s i) 0 }
    else
      let v := f32Add (f32Mul d.pruneDecay (Tbl.get 0 e.score (scoreKey s i))) ((lookupKey i masses).getD 0)
      { e with score := Tbl.set 0 e.score (scoreKey s i) v }) e
  d.setSeq q e
/-- `a` is pruned before `b`. -/
def pruneBefore (a b : W32 × Nat) : Bool := f32Key a.1 < f32Key b.1 || (f32Key a.1 == f32Key b.1 && decide (a.2 < b.2))
def prunePut (x : W32 × Nat) : List (W32 × Nat) → List (W32 × Nat)
  | [] => [x]
  | y :: ys => if pruneBefore x y then x :: y :: ys else y :: prunePut x ys
/-- A page pruned: PRUNED, its count lowered, tagged; a page that returns to the pool is reserved again for the stream. -/
def Dev.pruneOne (q : SeqNo) (t : BitVec 16) (s : Nat) (d : Dev) (i : Nat) : Dev :=
  let e := d.seq q
  let w := d.kvEntry e.kvObj s i
  let d := (d.kvPut e.kvObj s i (pageEntry 2 (peShared w) (peTsum w) (peVint w) (peObj w) (peGran w) (peFill w))).dropPage q t (peObj w) (peGran w)
  (d.setSeq q { e with vineOff := true, reserved := e.reserved + b2n (!peShared w && peObj w == e.pool),
                       score := Tbl.del (scoreKey s i) e.score, fullAt := Tbl.del (scoreKey s i) e.fullAt }).addTot (0xB043 * 256 + 5) 1
/-- A stream brought within its budget (R274). -/
def Dev.pruneStream (d : Dev) (q : SeqNo) (t : BitVec 16) (s : Nat) : Dev :=
  let e := d.seq q
  let n := ceilDiv e.len 64
  let valid := (List.range n).filter fun i => peValid (d.kvEntry e.kvObj s i)
  let excess := valid.length - e.pageBudget
  let may := valid.filter fun i =>
    decide (d.pruneSink ≤ i ∧ i + d.pruneRecent < n) && peFill (d.kvEntry e.kvObj s i) == 64 &&
    decide (d.pruneAge ≤ e.steps - (lookupKey (scoreKey s i) e.fullAt).getD 0)
  let order := may.foldl (fun l i => prunePut (Tbl.get 0 e.score (scoreKey s i), i) l) []
  let d := (order.take excess).foldl (fun d x => Dev.pruneOne q t s d x.2) d
  if may.length < excess then (d.addCnt 0x3C0000 1).setEvt .attChipEvt 4 else d

end Sys2Proof.Machine
end

