-- ==== Sys2Proof/Machine/Steps.lean ====
section
/-! DEFINITION. Steps of plans: start, retirement, TICK anchoring, core and member loss, parking (spec/11 R295 to R303, R306; spec/10
R255). -/

namespace Sys2Proof.Machine

/-! Map edits before a step (R255, R291). -/

/-- Vintage of a page. -/
def Dev.pageVint (d : Dev) (o : ObjNo) (g : Nat) : Nat := (d.granVint o g).toNat % 16
/-- A page entry brought up to date with its granule: DAMAGED where the granule is, its vintage where that changed. Answers whether
it changed. -/
def Dev.freshen (d : Dev) (e : Seq) (x : Nat × Nat × Nat) : Dev × Bool :=
  let w := x.2.2
  let o := peObj w
  let g := peGran w
  if (d.gran o g).damaged then
    let d := if peShared w then d.evictPage e.part o g else d
    (d.kvPut e.kvObj x.1 x.2.1 (pageEntry 3 (peShared w) (peTsum w) (peVint w) o g (peFill w)), true)
  else if peVint w ≠ d.pageVint o g then
    (d.kvPut e.kvObj x.1 x.2.1 (pageEntry 1 (peShared w) (peTsum w) (d.pageVint o g) o g (peFill w)), true)
  else (d, false)
/-- Every VALID entry of a sequence brought up to date. -/
def Dev.freshenAll (d : Dev) (q : SeqNo) : Dev × Bool :=
  let e := d.seq q
  (d.mapEntries e (d.kvStreams e.kvObj) peValid).foldl (fun r x =>
    let u := r.1.freshen e x
    (u.1, r.2 || u.2)) (d, false)
/-- A page for page `i` of stream `s`, taken from the pool. -/
def Dev.allocPage (d : Dev) (q : SeqNo) (s i : Nat) : Option Dev :=
  let e := d.seq q
  match d.poolPick e.pool with
  | none => none
  | some g =>
    let d := (d.kvPut e.kvObj s i (pageEntry 1 false false (d.pageVint e.pool g) e.pool g 0)).refPage e.pool g
    some (d.setSeq q { e with reserved := e.reserved - 1 })
/-- Pages for the positions a sequence writes in the step to come; none where the pool has no page left. -/
def Dev.allocAll (q : SeqNo) : List (Nat × Nat) → Dev → Option Dev
  | [], d => some d
  | (s, i) :: r, d => match d.allocPage q s i with
    | none => none
    | some d => Dev.allocAll q r d
/-- Rows a sequence contributes to a step (R283). -/
def Plan.rowsOf (p : Plan) (e : Seq) : Nat := if e.promptLen ≤ e.len then 1 else min p.chunk (e.promptLen - e.len)
/-- The same under hand-off, where a prefill plan stops at the last full page (spec/12 R353). -/
def Dev.rowsOf (d : Dev) (p : Plan) (e : Seq) : Nat :=
  if (d.handTo e.plan).isSome then min (p.rowsOf e) (e.handLen - e.len) else p.rowsOf e
/-- A sequence made ready for a step: entries brought up to date, pages allocated, EDIT raised where an edit was made. -/
def Dev.prepare (d : Dev) (p : Plan) (q : SeqNo) : Option Dev :=
  let r := d.freshenAll q
  let d := r.1
  let e := d.seq q
  let n := d.rowsOf p e
  let is := upFrom (e.len / 64) ((e.len + n - 1) / 64 + 1 - e.len / 64)
  let need := (List.range (d.kvStreams e.kvObj)).flatMap fun s =>
    (is.filter fun i => peState (d.kvEntry e.kvObj s i) == 0).map fun i => (s, i)
  match Dev.allocAll q need d with
  | none => none
  | some d =>
    let e := d.seq q
    some (d.setSeq q { e with rows := n, edit := if r.2 || !need.isEmpty then e.edit + 1 else e.edit })

/-! Start (R295, R302, R378). -/

/-- Sequences a plan's next step may hold, in ascending SEQ. -/
def Dev.eligible (d : Dev) (n : PlanNo) : List (SeqNo × Seq) :=
  (d.seqsWhere fun e => e.active && e.plan == n).filter fun x => !d.inStep x.1 && !d.inRerun x.1 && !d.handed x.2
/-- Held back: the backlog is over its limit and holds events of a queue the plan serves (R378). -/
def Dev.heldBack (d : Dev) (n : PlanNo) : Bool :=
  decide (57344 < d.hif.backlog.length) && (d.planSeqs n).any fun x => d.inBacklog x.2.queue
/-- The step a plan starts next: number, batch, schedule point and due. -/
def Dev.nextStep (d : Dev) (n : PlanNo) : Option Rerun :=
  let p := d.plan n
  match p.rerun with
  | r :: _ => some r
  | [] =>
    match (d.eligible n).map (fun x => x.2.k0) with
    | [] => none
    | k :: ks =>
      let k := max p.nextK (ks.foldl min k)
      if p.hasPoint k && decide (p.schedAt k ≤ d.now) then
        some ⟨((d.eligible n).filter fun x => decide (x.2.k0 ≤ k)).map (·.1), k, p.schedAt k, p.dueAt k⟩
      else none
/-- A sequence of plan `p` goes to another plan `q`, number `m`, with that plan's figures; it joins the first step there scheduled at
or after its next one. -/
def Seq.moveTo (e : Seq) (p q : Plan) (m : PlanNo) : Seq :=
  { e with plan := m, k0 := q.firstK (p.schedAt (max p.nextK e.k0)), cost := if e.cost = 0 then 0 else q.cost e.pages,
           costPf := if e.costPf = 0 then 0 else q.costPf }

/-! Hand-off at a step boundary (spec/12 R353). -/

/-- A page landed: its entry in this map is full, under a new EDIT, where this device decodes; one whose transfer failed places its sequence in
Safe Hold. -/
def State.handApply (s : State) (h : HandOff) : State :=
  let d := s.dev
  let e := d.seq h.seq
  let w := d.kvEntry e.kvObj h.stream h.page
  if e.gen ≠ h.gen ∨ e.plan ≠ h.src ∨ e.alive = false then s
  else if !stSuccess (h.done.getD 0) then s.seqHold h.seq (holdCause 0x50 (h.done.getD 0)) (h.done.getD 0) d.now
  else if (d.plan h.dst).decodeOn = some 0 ∧ peValid w = true then
    let d := d.kvPut e.kvObj h.stream h.page (pageEntry 1 (peShared w) (peTsum w || d.kvTrellis e.kvObj != 0) (peVint w) (peObj w) (peGran w) 64)
    { s with dev := d.setSeq h.seq { e with edit := e.edit + 1 } }
  else s
/-- A sequence whose prefill is over and whose pages have all landed goes to its decode plan, and its full blocks to the Vine. -/
def State.handMove (s : State) (q : SeqNo) : State :=
  let d := s.dev
  let e := d.seq q
  match d.handTo e.plan with
  | none => s
  | some m =>
    if !e.active || !d.handed e || d.inStep q || d.inRerun q || (d.srv.hand.any fun h => h.seq == q && h.gen == e.gen) then s
    else
      let n := e.plan
      let d := d.setSeq q (e.moveTo (d.plan n) (d.plan m) m)
      let d := if (d.plan m).flag 2 && d.feature 8 && (d.plan m).decodeOn == some 0 then
          (upFrom e.vineUpto (e.len / 64 - e.vineUpto)).foldl (fun d k => d.vineInsert q (d.kvStreams e.kvObj) k) d
        else d
      ({ s with dev := d }).planDrained n
/-- The hand-off edits that are due: those of pages whose transfer has ended and whose destination plan runs no step. -/
def State.handSettle (s : State) : State :=
  let due (h : HandOff) : Bool := h.done.isSome && !(s.dev.plan h.dst).running
  let hs := s.dev.srv.hand.filter due
  let s := { s with dev := { s.dev with srv := { s.dev.srv with hand := s.dev.srv.hand.filter fun h => !due h } } }
  let s := hs.foldl State.handApply s
  ((s.dev.seqsWhere fun e => s.dev.handed e).map (·.1)).foldl State.handMove s

/-- STEP packets to the members a plan names (R333); their body is the firmware's own (log entry 45). -/
def Dev.sendStep (d : Dev) (p : Plan) : Dev :=
  (upFrom 1 (p.members - 1)).foldl (fun d m =>
    let b := d.freeBytes 8
    let x := b.2.nextXid p.part (BitVec.ofNat 6 m)
    x.2.send (x.2.mkPkt 0x12 p.part (BitVec.ofNat 6 m) x.1 0 b.1)) d
/-- The sequences of a batch made ready; one with no page to be had is placed in Safe Hold (R306, log entry 46). -/
def State.prepareAll (s : State) (p : Plan) (qs : List SeqNo) : State :=
  qs.foldl (fun s q => if !(s.dev.seq q).active then s else match s.dev.prepare p q with
    | none => s.seqHold q 0x0B 0 s.dev.now
    | some d => { s with dev := d }) s
/-- A step starts: the map edits between steps are applied, the batch is fixed and the templates are issued. -/
def State.stepStart (s : State) (n : PlanNo) : State :=
  let s := s.handSettle
  let p := s.dev.plan n
  if !p.runs || p.running || s.dev.held || s.dev.pwr.partHold.getLsbD p.part.toNat || s.dev.heldBack n then s
  else match s.dev.nextStep n with
    | none => s
    | some r =>
      let s := { s with dev := s.dev.vineResizeAll }
      let s := s.prepareAll p r.batch
      let batch := r.batch.filter fun q => (s.dev.seq q).active
      let p := s.dev.plan n
      let p := { p with nextK := if p.rerun.isEmpty then r.k + 1 else p.nextK, rerun := p.rerun.tail,
                        edges := p.edges.filter fun e => decide (r.k < e.1) }
      if batch.isEmpty then ({ s with dev := s.dev.setPlan n p }).planDrained n
      else
        let p := { p with running := true, batch := batch, cmds := [], k := r.k, sched := r.sched, due := r.due, lost := false }
        let p := { p with todo := s.dev.jobs p }
        { s with dev := ((s.dev.setPlan n p).sendStep p).issuePump }
def execStepStart (p : PlanNo) (s : State) : Host.Outcome State Fault Refusal := .next (s.stepStart p)

/-! Retirement (R295, R298, R306, R312). -/

/-- A command's outcome leaves its sequences without doubt: success, rows that decide for themselves, a NOP. -/
def cmdClear (c : StepCmd) (st : Byte) : Bool :=
  c.tmpl.isNone || stSuccess st || (c.desc.op == 0x30 && st == 0x84) || (c.desc.op == 0x12 && st == 0x80) || (c.desc.op == 0x14 && st == 0x81)
/-- A step's commands with their outcomes. -/
def Dev.outcomes (d : Dev) (p : Plan) : List (StepCmd × Byte × BitVec 16) :=
  p.cmds.map fun c => (c, ((d.cmdDone c).getD (0, 0)).1, ((d.cmdDone c).getD (0, 0)).2)
/-- The row of a sequence in a command of the batch. -/
def rowOf (p : Plan) (c : StepCmd) (q : SeqNo) : Option Nat :=
  match c.seq with
  | some (u, _) => if u = q then some 0 else none
  | none => p.batch.idxOf? q
/-- The failed command that casts doubt on a sequence: one of its own, one of no sequence, or a MASK row of its own (R306). -/
def Dev.doubt (d : Dev) (p : Plan) (os : List (StepCmd × Byte × BitVec 16)) (q : SeqNo) : Option (Nat × Byte) :=
  match os.find? fun o => !cmdClear o.1 o.2.1 && (o.1.seq.isNone || o.1.seq.any fun x => x.1 == q) with
  | some o => some (holdCause o.1.desc.op o.2.1, o.2.1)
  | none =>
    os.findSome? fun (o : StepCmd × Byte × BitVec 16) =>
      if o.1.desc.op == 0x14 && o.2.1 == 0x81 then
        match rowOf p o.1 q with
        | some r =>
          let st := ((d.memRead (o.1.desc.w 2) (16 * r + 12) 1).1).getD 0 0
          if r < mkRows o.1.desc ∧ st ≠ 0 then some (0x07, st) else none
        | none => none
      else none
/-- What the step's SAMPLE drew for a sequence: row status, token, LOGPROB (R183). -/
def Dev.sampled (d : Dev) (p : Plan) (os : List (StepCmd × Byte × BitVec 16)) (q : SeqNo) : Option (Byte × W32 × W32) :=
  os.findSome? fun (o : StepCmd × Byte × BitVec 16) =>
    if o.1.desc.op == 0x12 && o.1.member == 0 && cmdClear o.1 o.2.1 then
      match rowOf p o.1 q with
      | some r =>
        if r < smRows o.1.desc then
          let b := (d.memRead (o.1.desc.w 2) (32 * r + 16) 11).1
          some (b.getD 10 0, BitVec.ofNat 32 (leNat (b.take 4)), BitVec.ofNat 32 (leNat ((b.drop 4).take 4)))
        else none
      | none => none
    else none
/-- ADVANCE of a grammar row (R312): the next state, none where the row fails; and the device with the row counted. -/
def Dev.advance (d : Dev) (e : Seq) (tok : W32) : Option Nat × Dev :=
  let o := urObj e.automaton.toNat
  let d := d.srvCount 9 1
  if !d.auOk o (d.auNat o 4 4) then (none, d.setEvt .srvEvt 0x80)
  else
    let r := maskAdvRow d o e.autoState.toNat tok.toNat
    if r.st = 0 then (some r.next, d) else (none, d.setEvt .srvEvt 0x80)
/-- A sequence has its token: it is in DECODE, in the state it is in or the one it was held from. -/
def Seq.inDecode (e : Seq) : Seq :=
  let e := { e with costPf := 0 }
  if e.st = .prefill then { e with st := .decode } else if e.st = .held ∧ e.was = .prefill then { e with was := .decode } else e
/-- The token committed, and the end it brings (R298, R299). Answers whether the sequence has ended. -/
def State.commit (s : State) (p : Plan) (q : SeqNo) (tok logp : W32) (fin late : Bool) (time : Nat) : State × Bool :=
  let e := s.dev.seq q
  let late := late || e.lateFirst
  let s := s.emitSeq q { s.dev.seqEv q evTOKEN (if late then stLATE else stDONE) time with
    late := late, value := tok, logprob := logp, index := e.out.length }
  let d := s.dev.srvCount 3 1
  let d := if late then (d.srvCount 4 1).setEvt .srvEvt 1 else d
  let e' := { e.inDecode with out := e.out ++ [tok], lateFirst := false, firstDue := 0 }
  let s := { s with dev := d.setSeq q e' }
  if tok.toNat = p.eos then (s.endSeq q stDONE 1 time, true)
  else if e.maxNew ≤ e.out.length + 1 then (s.endSeq q stDONE 2 time, true)
  else if fin then (s.endSeq q stDONE 3 time, true)
  else if e.st = .ending then (s.endSeq q e.endCode e.endDetail time, true)
  else (s, false)
/-- Rows of a sequence dropped: the step changes nothing of its map. -/
def State.noRows (s : State) (q : SeqNo) : State := { s with dev := s.dev.setSeq q { s.dev.seq q with rows := 0 } }
/-- What a step's commands decide for a sequence of its batch (R295, R298, R306). -/
inductive Fate where
  /-- it is served no more -/
  | gone
  /-- Safe Hold with a CAUSE and STATUS -/
  | hold (cause : Nat) (status : Byte)
  /-- its prompt goes on: no token is due -/
  | more
  /-- hard policy, committed late -/
  | missed
  /-- no allowed token -/
  | empty
  /-- a token with its LOGPROB and, for a grammar row, the automaton's next state -/
  | token (tok logp : W32) (next : Option Nat)
deriving DecidableEq, Repr

/-- What becomes of a sequence: MASK ADVANCE of a grammar row comes before lateness (R298 steps 2 and 3). -/
def Dev.fate (d : Dev) (p : Plan) (os : List (StepCmd × Byte × BitVec 16)) (late : Bool) (q : SeqNo) : Fate :=
  let e := d.seq q
  if !e.served && e.st != .ending then .gone
  else match d.doubt p os q with
    | some f => .hold f.1 f.2
    | none =>
      match d.sampled p os q with
      | none => if e.len + e.rows < e.promptLen then .more else .hold 0x0B 0
      | some r =>
        if r.1 ≠ stDONE ∧ r.1 ≠ 0x81 then .hold 0x07 r.1
        else if e.len + e.rows < e.promptLen then .more
        else if r.1 = 0x81 then (if late && !e.soft then .missed else .empty)
        else if e.grammar then
          match (d.advance e r.2.1).1 with
          | none => .hold 0x07 0x83
          | some nx => if late && !e.soft then .missed else .token r.2.1 r.2.2 (some nx)
        else if late && !e.soft then .missed
        else .token r.2.1 r.2.2 none
/-- A grammar row whose token is due runs ADVANCE at the retirement. -/
def Dev.advances (d : Dev) (p : Plan) (os : List (StepCmd × Byte × BitVec 16)) (q : SeqNo) : Option W32 :=
  let e := d.seq q
  if (e.served || e.st == .ending) && e.grammar && (d.doubt p os q).isNone && decide (e.promptLen ≤ e.len + e.rows) then
    match d.sampled p os q with
    | some r => if r.1 = stDONE then some r.2.1 else none
    | none => none
  else none
/-- The rows MASK ADVANCE runs, counted, with the event of one that fails (R312, R320, R321). -/
def Dev.advanceAll (d : Dev) (p : Plan) (os : List (StepCmd × Byte × BitVec 16)) : Dev :=
  p.batch.foldl (fun d q => match d.advances p os q with
    | none => d
    | some tok => (d.advance (d.seq q) tok).2) d
/-- One sequence at the retirement of a step (R298 step 4). Answers whether it has ended. -/
def State.retireSeq (s : State) (p : Plan) (os : List (StepCmd × Byte × BitVec 16)) (late : Bool) (time : Nat) (q : SeqNo) : State × Bool :=
  let e := s.dev.seq q
  match s.dev.fate p os late q with
  | .gone => (s.noRows q, false)
  | .hold c st => ((s.seqHold q c st time).noRows q, false)
  | .more => if e.st = .ending then (s.endSeq q e.endCode e.endDetail time, true) else (s, false)
  | .missed => ((s.endSeq q stMISSED 0 time).noRows q, true)
  | .empty => (s.endSeq q 0x83 0 time, true)
  | .token tok logp none => s.commit p q tok logp false late time
  | .token tok logp (some nx) =>
    let fin := s.dev.auFinal (urObj e.automaton.toNat) nx
    ({ s with dev := s.dev.setSeq q { e with autoState := BitVec.ofNat 32 nx } }).commit p q tok logp fin late time
/-- A sequence of the batch, or one withdrawn at the retirement that no step holds: its END takes its place in ascending SEQ. -/
def State.retireOne (s : State) (p : Plan) (os : List (StepCmd × Byte × BitVec 16)) (late : Bool) (time : Nat) (q : SeqNo) : State × Bool :=
  if p.batch.contains q then s.retireSeq p os late time q
  else (s.endSeq q (s.dev.seq q).endCode (s.dev.seq q).endDetail time, true)

/-- The masses a step recorded for a sequence and stream. -/
def massesOf (os : List (StepCmd × Byte × BitVec 16)) (d : Dev) (q : SeqNo) (s : Nat) : List (Nat × W32) :=
  os.flatMap fun o =>
    if o.1.desc.op == 0x30 && o.1.seq.any (fun x => x.1 == q) && atStream o.1.desc == s then
      (if o.1.done.isSome then o.1.mass else d.massOf o.1.desc o.2.1)
    else []
/-- FILL and TSUM of the pages a step wrote. -/
def Dev.fillPages (d : Dev) (q : SeqNo) : Dev :=
  let e := d.seq q
  let z := e.len + e.rows
  (List.range (d.kvStreams e.kvObj)).foldl (fun d s =>
    (upFrom (e.len / 64) ((z - 1) / 64 + 1 - e.len / 64)).foldl (fun d i =>
      let w := d.kvEntry e.kvObj s i
      let fill := min 64 (z - 64 * i)
      if peValid w then
        d.kvPut e.kvObj s i (pageEntry 1 (peShared w) (peTsum w || (fill == 64 && d.kvTrellis e.kvObj != 0)) (peVint w) (peObj w) (peGran w) fill)
      else d) d) d
/-- The map edits of one sequence at retirement (R298 step 5): FILL and TSUM, then Vine inserts, then Pruning. -/
def Dev.retireEdits (p : Plan) (os : List (StepCmd × Byte × BitVec 16)) (d : Dev) (q : SeqNo) : Dev :=
  let e := d.seq q
  if e.rows = 0 ∨ e.st = .safeHold ∨ e.st = .free then d
  else
    let t := e.edit + 1
    let streams := d.kvStreams e.kvObj
    let here := d.handsHere e
    let d := if here then d else d.fillPages q
    let ret := os.any fun o => o.1.desc.op == 0x30 && o.1.seq.any (fun x => x.1 == q) && atRetrieve o.1.desc
    let d := d.setSeq q { d.seq q with edit := t, len := e.len + e.rows, rows := 0, steps := e.steps + 1, vineOff := e.vineOff || ret }
    let d := d.handPages q e.len
    let d := if p.flag 2 && d.feature 8 && !here then
        (upFrom (e.len / 64) ((e.len + e.rows) / 64 - e.len / 64)).foldl (fun d k => d.vineInsert q streams k) d
      else d
    if e.prune then
      (List.range streams).foldl (fun d s => (d.scorePages q s (massesOf os d q s) e.len).pruneStream q t s) d
    else d

/-! PARK (R303). -/

/-- Pages a sequence holds. -/
def Dev.heldPages (d : Dev) (e : Seq) : List (Nat × Nat × Nat) := d.mapEntries e (d.kvStreams e.kvObj) peHeld
/-- A page that a move to a tier takes there: its home is elsewhere, it is whole and no move of it runs. -/
def Dev.pageMoves (d : Dev) (t : Tier) (x : Nat × Nat × Nat) : Bool :=
  let b := d.obj (peObj x.2.2)
  let v := b.g (peGran x.2.2)
  b.home v != t && !d.moving (peObj x.2.2) (peGran x.2.2) && !v.damaged
/-- A page's frame, or its reservation, moved to a tier by the tier engine (R206). -/
def Dev.pageTo (t : Tier) (d : Dev) (x : Nat × Nat × Nat) : Dev :=
  let o := peObj x.2.2
  let g := peGran x.2.2
  let b := d.obj o
  let v := b.g g
  if !d.pageMoves t x then d
  else if v.t1.isSome || v.t2.isSome then d.startMove o g (some (b.home v)) t .fetch [] false true
  else d.setGran o g { v with resv := if t = b.place then none else some t }
/-- PARK applied to a sequence: the pages not in T2 yet are moved, counted and reported. -/
def State.parkNow (s : State) (q : SeqNo) (o : QueueNo × W32) : State :=
  let d := s.dev
  let e := d.seq q
  if e.st ≠ .decode then s.reply o e.part 0x84 0 (some q) 0
  else
    let ps := (d.heldPages e).filter (d.pageMoves .t2)
    if d.floor .t2 e.part.toNat < d.neBytes e.part .t2 + granSize * ps.length then s.reply o e.part stADMISSION 0x0008 (some q) 0
    else
      let d := d.setSeq q { e with st := .parked, cost := 0, costPf := 0, parkReq := none }
      ({ s with dev := ps.foldl (Dev.pageTo .t2) d }).reply o e.part stDONE 0 (some q) ps.length
/-- A PARK that waited for the retirement. -/
def State.parkDue (s : State) (q : SeqNo) : State :=
  match (s.dev.seq q).parkReq, (s.dev.seq q).resuming with
  | none, _ => s
  | _, true => s
  | some o, false => ({ s with dev := s.dev.setSeq q { s.dev.seq q with parkReq := none } }).parkNow q o

/-- The ATTEND of a sequence that ended with a code of R306, other than by the core retirement of R302. -/
def lostDoubt (os : List (StepCmd × Byte × BitVec 16)) (q : SeqNo) : Option (Nat × Byte) :=
  (os.find? fun o => o.1.seq.any (fun x => x.1 == q) && attDoubt o.1.desc o.2.1 o.2.2).map fun o => (holdCause 0x30 o.2.1, o.2.1)
/-- A step that lost a core or a member (R302): no token and no map edit; a doubt of its own and ends decided apply, and what a usable fallback
has taken over runs again there. -/
def State.retireLost (s : State) (n : PlanNo) (p : Plan) (os : List (StepCmd × Byte × BitVec 16)) (time : Nat) : State :=
  let s := p.batch.foldl (fun s q =>
    let e := s.dev.seq q
    match lostDoubt os q with
    | some f => (s.seqHold q f.1 f.2 time).noRows q
    | none => if e.st = .ending then (((s.endSeq q e.endCode e.endDetail time).noRows q).releaseSeq q) else s.noRows q) s
  let moved := p.batch.filter fun q => (s.dev.seq q).active && (s.dev.seq q).plan != n
  match moved with
  | [] => s
  | q :: _ =>
    let m := (s.dev.seq q).plan
    { s with dev := s.dev.setPlan m { s.dev.plan m with rerun := (s.dev.plan m).rerun ++ [⟨moved, p.k, p.sched, p.due⟩] } }

/-! Recomputes at a retirement (R298, R300, R317). -/

/-- The recomputes that a plan's retirement lets go on; none waits for it any more. -/
def Dev.recompPass (d : Dev) (n : PlanNo) : List Fall × Dev :=
  let rs := d.srv.recomp.map fun (r : Recomp) => { r with waits := r.waits.filter (· ≠ n) }
  ((rs.filter fun r => r.waits.isEmpty).map (·.fall), { d with srv := { d.srv with recomp := rs.filter fun r => !r.waits.isEmpty } })
/-- The sequences a fall withdraws at a retirement are ENDING. -/
def State.markFall (gone : List SeqNo) (r : State × List SeqNo) (f : Fall) : State × List SeqNo :=
  let vs := r.1.dev.fallVictims gone f
  (vs.foldl (fun s q => { s with dev := s.dev.setSeq q ((s.dev.seq q).toEnd stWITHDRAWN f.detail) }) r.1, r.2 ++ vs)
/-- The falls that a retirement of plan `n` meets, with those that miss their due gone first; answers the withdrawn ones no step holds. -/
def State.meetAt (s : State) (n : PlanNo) (p : Plan) (gone : List SeqNo) : State × List SeqNo :=
  let r := s.dev.recompPass n
  let m := r.1.foldl (State.markFall gone) ({ s with dev := r.2 }, [])
  (m.1, m.2.filter fun q => !p.batch.contains q && !m.1.dev.inStep q && !m.1.dev.inRerun q)
/-- A sequence put in its place among ascending ones. -/
def insertSeq (x : SeqNo) : List SeqNo → List SeqNo
  | [] => [x]
  | y :: ys => if x < y then x :: y :: ys else y :: insertSeq x ys
/-- Every command of the step has completed. -/
def Dev.stepOver (d : Dev) (p : Plan) : Bool := p.running && p.todo.isEmpty && p.cmds.all fun c => (d.cmdDone c).isSome
/-- STEP_RETIRE, in the order of R298 but for the admissions held back, which are decided after it. -/
def State.stepRetire (s : State) (n : PlanNo) : State :=
  let p := s.dev.plan n
  if !s.dev.stepOver p then s
  else
    let os := s.dev.outcomes p
    let time := s.dev.now
    let late := decide (p.due < time)
    let lost := p.lost || os.any fun o => o.2.1 == stUNCORR && o.2.2 == 0x000B
    let shut (s : State) : State :=
      let p := s.dev.plan n
      { s with dev := (s.dev.setPlan n { p with running := false, batch := [], cmds := [], commit := time, lost := false }).gcPages }
    if lost then
      let m := s.meetAt n p []
      let s := shut (m.1.retireLost n p os time)
      let s := m.2.foldl (fun s q => (s.endSeq q (s.dev.seq q).endCode (s.dev.seq q).endDetail time).releaseSeq q) s
      s.planDrained n
    else
      let s := { s with dev := s.dev.advanceAll p os }
      let m := s.meetAt n p (p.batch.filter fun q => s.dev.fate p os late q == .missed)
      let r := (m.2.foldl (fun l q => insertSeq q l) p.batch).foldl (fun (r : State × List SeqNo) q =>
        let u := r.1.retireOne p os late time q
        (u.1, if u.2 then r.2 ++ [q] else r.2)) (m.1, [])
      let d := p.batch.foldl (Dev.retireEdits p os) r.1.dev
      let s := shut { r.1 with dev := d }
      let s := r.2.foldl State.releaseSeq s
      let s := p.batch.foldl State.parkDue s
      let s := ({ s with dev := (s.dev.vineResizeAll.sendStep p).handPump }).handSettle
      s.planDrained n

/-! TICK (R38, R297). -/

/-- The next edge of a plan is `e`, anchored by a recorded edge or predicted. -/
def Plan.anchorAt (p : Plan) (e : Nat) (real : Bool) : Plan :=
  let p := { p with edges := p.edges ++ [(p.edgeK, e)], edgeK := p.edgeK + 1, edge := some e }
  if real then
    { p with
      lastEdge := some e, missRow := 0, tickLost := false
      intervals := match p.lastEdge with
        | some l => ((e - l) :: p.intervals).take 8
        | none => p.intervals }
  else { p with missRow := p.missRow + 1 }
/-- An accepted edge meets a plan: it anchors the next step where it lies in its window; a plan that has met none yet counts from it. -/
def Plan.onEdge (tol e : Nat) (p : Plan) : Plan :=
  if !p.tick || !p.runs then p
  else match p.edge with
    | none => { p with edge := some e, lastEdge := some e }
    | some l =>
      if decide (l + p.interval / 2 ≤ e) && decide (e ≤ l + p.interval + tol) then p.anchorAt e true else p
/-- The bits a plan's interval sets as it changes. -/
def Dev.tickFast (d : Dev) (p p' : Plan) : Dev :=
  if p'.interval < p'.period ∧ ¬ p.interval < p.period then d.setEvt .srvEvt 0x40 else d
/-- An accepted edge meets every plan. -/
def Dev.edgeAll (d : Dev) (e : Nat) : Dev :=
  (List.range 16).foldl (fun d n =>
    let k : PlanNo := BitVec.ofNat 4 n
    let p := d.plan k
    let p' := p.onEdge d.tickTol e
    (d.tickFast p p').setPlan k p') d
/-- No edge fell in the window: e(k) is predicted, from the plan's start while no edge has come (log entry 43). TICK_LOST is set once for a run
of predicted edges that has reached MISS_LIMIT. -/
def doTickPredict (n : PlanNo) (d : Dev) : Dev :=
  let p := d.plan n
  if p.tick && p.runs && decide (p.lastE + p.interval + d.tickTol < d.now) then
    let p' := p.anchorAt (p.lastE + p.interval) false
    let lost := decide (d.missLimit ≤ p'.missRow)
    let d := (d.srvCount 8 1).setPlan n { p' with tickLost := p.tickLost || lost }
    if lost && !p.tickLost then d.setEvt .srvEvt 0x20 else d
  else d
def execTickPredict (p : PlanNo) (s : State) : Host.Outcome State Fault Refusal := s.onDev (doTickPredict p)

/-! Loss of a core or a member (R284, R301, R302). -/

/-- Plan `m` can stand in for plan `n`. -/
def Dev.fallbackOk (d : Dev) (n m : Nat) : Bool :=
  let p := d.plan (BitVec.ofNat 4 n)
  let q := d.plan (BitVec.ofNat 4 m)
  decide (m < 16 ∧ m ≠ n) && q.st == .active && q.part == p.part && q.h 4 4 == p.h 4 4 && q.salt == p.salt &&
  ((setBits q.coreMask 64).all fun c => (d.core (BitVec.ofNat 6 c)).inService) &&
  ((List.range q.members).all fun m => (Tbl.get Member.reset d.links.members m).present)
/-- The plan loses a core or a member: its fallback takes its sequences and its steps to run again over, or it is SUSPENDED and they are
withdrawn; a plan whose fallback took over is SUSPENDED, too (log entry 108). -/
def State.planLost (s : State) (n : PlanNo) : State :=
  let d := s.dev
  let p := d.plan n
  if !p.runs then s
  else
    let m : PlanNo := BitVec.ofNat 4 p.fallback.toNat
    let d := d.setEvt .srvEvt 0x10
    let d := (d.setPlan n { p with st := .suspended, lost := p.running, rerun := [] }).dropRefs [p.obj, p.pool]
    if s.dev.fallbackOk n.toNat p.fallback.toNat then
      let q := d.plan m
      let xs := d.planSeqs n
      let d := xs.foldl (fun d x => d.setSeq x.1 (x.2.moveTo p q m)) d
      let d := d.setPlan m { q with rerun := q.rerun ++ p.rerun }
      State.fallAfter { s with dev := d } (.time m (d.levelFor q) (some (xs.map (·.1)))) (if p.running then [n] else [])
    else
      (d.ranked (d.planSeqs n)).foldl (fun s x =>
        if x.2.st ≠ .ending then s.decideEnd x.1 stWITHDRAWN 0x0003
        else if s.dev.inStep x.1 then s
        else (s.endSeq x.1 x.2.endCode x.2.endDetail s.dev.now).releaseSeq x.1) { s with dev := d }
/-- Every plan that names a core loses it. -/
def State.coreLost (s : State) (c : CoreNo) : State :=
  (List.range 16).foldl (fun s n =>
    if bitN (s.dev.plan (BitVec.ofNat 4 n)).coreMask c.toNat then s.planLost (BitVec.ofNat 4 n) else s) s
/-- Every plan that names a member loses it. -/
def State.memberGone (s : State) (m : Nat) : State :=
  (List.range 16).foldl (fun s n =>
    if decide (m < (s.dev.plan (BitVec.ofNat 4 n)).members) then s.planLost (BitVec.ofNat 4 n) else s) s

/-! Safe Hold's retention (R306). -/

def State.retainExpiry (s : State) (q : SeqNo) : State :=
  let e := s.dev.seq q
  if e.st = .safeHold ∧ e.heldAt + s.dev.holdRetainMs * 1000000 ≤ s.dev.now then s.releaseSeq q else s
def execHoldRetainExpiry (q : SeqNo) (s : State) : Host.Outcome State Fault Refusal := .next (s.retainExpiry q)

end Sys2Proof.Machine
end

