-- ==== Sys2Proof/Machine/Serving.lean ====
section
/-! DEFINITION. Serving records: how one is taken from its queue, SUBMIT with its checks and admission, END_SEQ, PARK and RESUME (spec/11
R285 to R293, R303, R304). -/

namespace Sys2Proof.Machine

/-! Records (R285). -/

/-- Words Q0 to Q15 of a record. -/
def recWords (bs : List Byte) : List Nat := (List.range 16).map fun i => leNat ((bs.drop (8 * i)).take 8)
/-- Bits [hi:lo] of word `i`. -/
def qf (w : List Nat) (i hi lo : Nat) : Nat := fld (w.getD i 0) hi lo
def rType (w : List Nat) : Nat := qf w 0 7 0
def rPart (w : List Nat) : PartNo := BitVec.ofNat 3 (qf w 0 10 8)
def rPlan (w : List Nat) : PlanNo := BitVec.ofNat 4 (qf w 0 27 24)
def rReq (w : List Nat) : W32 := BitVec.ofNat 32 (qf w 0 63 32)
/-- A TYPE the table gives. -/
def rKnown (ty : Nat) : Bool := [0x01, 0x02, 0x03, 0x04, 0x08, 0x09, 0x0A, 0x0B].contains ty
/-- The bits of word `i` that a type assigns, for SUBMIT with the fields of the flags it sets (R285, R286). -/
def rBits (w : List Nat) (i : Nat) : Nat :=
  let ty := rType w
  let all := 2 ^ 64 - 1
  if i = 0 then (if ty = 0x01 then all - 0xF0000000 else all - 0xF0FFF800)
  else if ty = 0x01 then
    (if i ≤ 3 then all
     else if i = 4 then 0xFFFFFFFF + (if bitN (w.getD 0 0) 14 then 0x3F * 2 ^ 48 else 0) + (if bitN (w.getD 0 0) 12 then 0xFFFF * 2 ^ 32 else 0)
     else if i = 5 then (if bitN (w.getD 0 0) 13 then all else 0)
     else if i = 6 then (if bitN (w.getD 0 0) 13 then 0xFFFFFFFF else 0)
     else if i = 7 then all else if i = 8 then 0xFFFF else 0)
  else if ty = 0x02 ∨ ty = 0x03 ∨ ty = 0x04 then
    (if i = 1 then 0x0000FFFF0000FFFF else if ty = 0x04 ∧ i = 3 then all else if ty = 0x04 ∧ i = 4 then 0xFFFFFFFF else 0)
  else if ty = 0x08 then (if i ≤ 2 then all else if i = 3 then 0xFFFF01FF else 0)
  else if ty = 0x09 then (if i = 3 then 0xFF else 0)
  else if ty = 0x0A then (if i ≤ 2 then all else if i = 3 then 0xFFFFFFFF0000003F else 0)
  else if i = 3 then 0x3F else 0
/-- Byte offset of the lowest bit set that the table does not assign. -/
def rStray (w : List Nat) : Option Nat :=
  (List.range 16).findSome? fun i => ((setBits (w.getD i 0) 64).find? fun b => !bitN (rBits w i) b).map fun b => 8 * i + b / 8
/-- A status and its DETAIL. -/
abbrev Rej := Byte × BitVec 16
def rej (st : Byte) (n : Nat) : Rej := (st, BitVec.ofNat 16 n)
/-- SV codes of R289. -/
def svPARAM : Byte := 0x80
def svINPUT : Byte := 0x81
def svADAPTER : Byte := 0x82
def svSTATE : Byte := 0x84
def svPLAN : Byte := 0x85
def svFULL : Byte := 0x86
/-- An object a record names by address is owned by a partition: object form, in use, not DYING. -/
def Dev.named (d : Dev) (p : PartNo) (a : Nat) : Bool :=
  let b := d.obj (urObj a)
  !isSp a && urFormed a && urObj a != 0 && b.part == p && b.st != .free && b.st != .dying

/-- The record at the head of a serving queue, for the row of its TYPE; HIF_SQ_HEAD passes it as it is taken (R377). A queue whose admission is
held for a recompute waits with it (R285, R300). -/
def State.recordAt (s : State) (q : QueueNo) (ty : Nat) : Option (List Nat) :=
  let k := s.dev.queue q
  if k.fetches && k.kind == 1 && !s.dev.heldFor (some q) then
    let w := recWords (s.sqEntryAt q k.sqHead)
    if rType w = ty ∨ rKnown (rType w) = false then some w else none
  else none
def rSeq (w : List Nat) : SeqNo := BitVec.ofNat 12 (qf w 1 15 0)
/-- SEQ of a REPLY: the sequence the record names. -/
def rSeqOut (w : List Nat) : Option SeqNo := if qf w 1 15 0 < 4096 then some (rSeq w) else none
/-- SEQ of the REPLY to a record of any TYPE: END_SEQ and PARK name one (R290). -/
def rSeqOf (w : List Nat) : Option SeqNo := if rType w = 0x02 ∨ rType w = 0x03 then rSeqOut w else none
/-- Safe Hold that covers a partition's records (R387, R483). -/
def Dev.recHeld (d : Dev) (p : PartNo) : Bool := d.pwr.devHold || d.pwr.partHold.getLsbD p.toNat
/-- A record other than a SUBMIT taken: an unknown TYPE and the failing common checks are answered, else it is acted on (log entry 51). -/
def State.takeRecord (s : State) (q : QueueNo) (ty : Nat) (act : State → List Nat → State) : State :=
  match s.recordAt q ty with
  | none => s
  | some w =>
    let s := { s with dev := s.dev.sqPass q }
    let no (r : Rej) : State := s.reply (q, rReq w) (rPart w) r.1 r.2 (rSeqOf w) 0
    if rKnown (rType w) = false then no (rej stNOTSUP 0)
    else if s.dev.recHeld (rPart w) then no (rej stABORTED 0x0009)
    else if rPart w ≠ (s.dev.queue q).part then no (rej stRIGHTS 1)
    else match rStray w with
      | some b => no (rej stNOTSUP b)
      | none => act s w

/-! SUBMIT (R286, R288, R291). -/

/-- The request of a SUBMIT. -/
def subOf (q : QueueNo) (func : Nat) (w : List Nat) : Sub :=
  { q := some q, func := func, req := rReq w, part := rPart w, plan := rPlan w, prio := BitVec.ofNat 8 (qf w 0 23 16),
    vine := bitN (w.getD 0 0) 15, adapter := bitN (w.getD 0 0) 14, grammar := bitN (w.getD 0 0) 13, prune := bitN (w.getD 0 0) 12,
    soft := bitN (w.getD 0 0) 11, promptLen := qf w 1 31 0, maxNew := qf w 1 63 32, prompt := w.getD 2 0, toks := none,
    firstDl := w.getD 3 0, itl := qf w 4 31 0, adapterId := BitVec.ofNat 6 (qf w 4 53 48), budget := qf w 4 47 32,
    automaton := w.getD 5 0, start := BitVec.ofNat 32 (qf w 6 31 0), temp := BitVec.ofNat 32 (qf w 7 31 0),
    topP := BitVec.ofNat 32 (qf w 7 63 32), topK := BitVec.ofNat 16 (qf w 8 15 0), kept := false }
/-- The plan a request is admitted to: the SUCCESSOR of a DRAINING one, but for a record taken before it drained (R315). -/
def Dev.subPlan (d : Dev) (n : PlanNo) : PlanNo :=
  let p := d.plan n
  let m : PlanNo := BitVec.ofNat 4 p.successor.toNat
  if p.st = .draining ∧ p.successor.toNat < 16 ∧ (d.plan m).st = .active ∧ (d.plan m).part = p.part then m else n
/-- The prompt's tokens. -/
def Dev.promptToks (d : Dev) (x : Sub) : List W32 :=
  match x.toks with
  | some ts => ts
  | none =>
    let bs := d.objRead (urObj x.prompt) (urOff x.prompt) (4 * x.promptLen)
    (List.range x.promptLen).map fun i => BitVec.ofNat 32 (leNat ((bs.drop (4 * i)).take 4))
/-- The first check of a list that fails. -/
def firstRej : List (Bool × Byte × Nat) → Option Rej
  | [] => none
  | (bad, st, n) :: cs => if bad then some (rej st n) else firstRej cs
/-- Steps 1 to 4 of R288. -/
def subChecks1 (d : Dev) (x : Sub) (qpart : PartNo) (w : List Nat) : Option Rej :=
  let p := d.plan (d.subPlan x.plan)
  let stray := rStray w
  firstRej
    [(!d.feature 1, stNOTSUP, 0),
     ((x.vine && !d.feature 8) || (x.adapter && !d.feature 12) || (x.grammar && !d.feature 11) || (x.prune && !d.feature 10) ||
       (x.soft && !d.feature 13), stNOTSUP, 1),
     (x.part != qpart, stRIGHTS, 1),
     ((d.plan x.plan).st == .free || (d.plan x.plan).part != x.part, stRIGHTS, 3),
     (!d.named x.part x.prompt, stRIGHTS, 16),
     (x.grammar && !(d.named x.part x.automaton && (d.obj (urObj x.automaton)).st == .sealed), stRIGHTS, 40),
     (stray.isSome, stNOTSUP, stray.getD 0),
     ((x.vine && !p.flag 2) || (x.adapter && !p.flag 4) || (x.grammar && !p.flag 3) || (x.prune && !p.flag 1), stNOTSUP, 1),
     (x.promptLen == 0xFFFFFFFF, stLENGTH, 8), (x.maxNew == 0xFFFFFFFF, stLENGTH, 12), (x.itl == 0xFFFFFFFF, stLENGTH, 32),
     (x.prune && x.budget == 0xFFFF, stLENGTH, 36)]
/-- The automaton state a sequence starts in. -/
def Dev.subStart (d : Dev) (x : Sub) : Nat :=
  if x.start.toNat = 0xFFFFFFFF then d.auStart (urObj x.automaton) else x.start.toNat
/-- Steps 6 to 9 of R288 under plan `p`. -/
def subChecks2 (d : Dev) (x : Sub) (p : Plan) : Option Rej :=
  let o := urObj x.automaton
  let pr : SmpPar := ⟨x.temp, x.topP, x.topK.toNat, true⟩
  firstRej
    [(x.toks.isNone && decide ((d.obj (urObj x.prompt)).size < urOff x.prompt + 4 * x.promptLen), stLENGTH, 16),
     (decide (p.h 16 4 < x.promptLen + x.maxNew), stLENGTH, 12),
     (pr.tempBad, svPARAM, 56), (pr.topPBad, svPARAM, 60), (decide (256 < x.topK.toNat), svPARAM, 64),
     (x.prune && decide (x.budget < d.pruneSink + d.pruneRecent + 1), svPARAM, 36),
     (x.toks.isNone && (gransOf (urOff x.prompt) (4 * x.promptLen)).any fun g => (d.gran (urObj x.prompt) g).damaged, svINPUT, 16),
     ((d.promptToks x).any fun t => decide (p.vocab ≤ t.toNat), svINPUT, 16),
     (x.grammar && !(urOff x.automaton == 0 && d.auOk o p.vocab && d.auHdrOk o), svINPUT, 40),
     (x.grammar && decide (d.auStates o ≤ d.subStart x), svINPUT, 48),
     (x.adapter && (d.adCurrent x.part x.adapterId).isNone, svADAPTER, 38)]

/-! Admission (R291). -/

/-- The lowest FREE entry that no step in flight still names, by fuel. -/
def Dev.freeSeqFrom (d : Dev) : Nat → Nat → Option SeqNo
  | 0, _ => none
  | fuel + 1, k =>
    let q : SeqNo := BitVec.ofNat 12 k
    if (d.seq q).st = .free ∧ d.inStep q = false ∧ d.inRerun q = false then some q else Dev.freeSeqFrom d fuel (k + 1)
/-- Page indices at full length, of which a pruned request keeps its budget and one more. -/
def Sub.pages (x : Sub) : Nat :=
  let n := ceilDiv (x.promptLen + x.maxNew) 64
  if x.prune then min n (x.budget + 1) else n
/-- Nothing is admitted: COOL_OK is low, or an emergency has withdrawn every sequence (R39, R476, R477). -/
def Dev.admitStopped (d : Dev) : Bool := !d.pins.coolOk || d.pwr.withdrawn || d.pwr.coolLost
/-- The salt of a request's hashes (R268, R314). -/
def Dev.subSalt (d : Dev) (x : Sub) (p : Plan) : W64 :=
  if x.adapter then match d.adCurrent x.part x.adapterId with
    | some v => v.salt
    | none => p.salt
  else p.salt
/-- The Vine lookup, what it counts, and the LAST_USE of the nodes it hits, whatever becomes of the request (R269, R270, R278). -/
def Dev.subVine (d : Dev) (x : Sub) (p : Plan) (toks : List W32) : VineHit × Dev :=
  if !x.vine then (⟨[], d.subSalt x p, 0⟩, d)
  else
    let h := d.vineLookup x.part p.streams (d.subSalt x p) toks
    let d := ((d.addTot (0xB042 * 256 + 1) 1).addTot (0xB042 * 256 + 2) h.slots.length).addTot (0xB042 * 256 + 3) h.collisions
    let d := h.slots.foldl (fun d sl => d.nodePut x.part sl 24 8 d.now) d
    (h, if h.collisions = 0 then d else d.setEvt .attChipEvt 1)
/-- A reference taken on every page of the matched nodes. -/
def Dev.takeHits (d : Dev) (p : PartNo) (slots : List Nat) : Dev :=
  slots.foldl (fun d sl => (d.nodePages p sl).foldl (fun d g => d.refPage g.1 g.2) d) d
/-- The pool inequality with `need` pages more. -/
def Dev.poolFits (d : Dev) (o : ObjNo) (need : Nat) : Bool :=
  decide (d.unwrittenOf (fun e => e.alive && e.pool == o) + need ≤ d.poolFree o)
/-- Served sequences of a plan. -/
def Dev.servedOf (d : Dev) (n : PlanNo) : Nat := (d.seqsWhere fun e => e.served && e.plan == n).length
/-- TRELLIS_OFF of a new map: there only for a plan that retrieves. -/
def trellisFor (p : Plan) (pm : Nat) : Nat := if p.flag 0 then ceilDiv (4096 + p.streams * pm * 8) granSize * granSize else 0
/-- The entries of the matched blocks written: VALID, SHARED, full, with the TSUM of the node's pages (R270). -/
def Dev.putHits (d : Dev) (p : PartNo) (o : ObjNo) (streams : Nat) (slots : List Nat) : Dev :=
  (List.range slots.length).foldl (fun d k =>
    (List.range streams).foldl (fun d s =>
      let w := d.nodePage p (slots.getD k 0) s
      d.kvPut o s k (pageEntry 1 true ((d.nodeTsum p (slots.getD k 0)).testBit s) (d.granVint (peObj w) (peGran w)).toNat (peObj w) (peGran w) 64)) d) d
/-- The entry of an admitted request. -/
def Dev.newSeq (d : Dev) (x : Sub) (n : PlanNo) (q : SeqNo) (o : ObjNo) (hit : VineHit) (toks : List W32) (need k0 due : Nat) : Seq :=
  let p := d.plan n
  let mb := hit.slots.length
  let ver := match d.adCurrent x.part x.adapterId with
    | some v => (v.version, v.uid)
    | none => (0, 0)
  { Seq.reset with
    st := .prefill, part := x.part, soft := x.soft, prune := x.prune, grammar := x.grammar, adapter := x.adapter, vine := x.vine,
    mbox := x.q.isNone, priority := x.prio, plan := n, adapterId := x.adapterId, adapterVer := if x.adapter then ver.1 else 0,
    adUid := if x.adapter then ver.2 else 0,
    gen := (d.seq q).gen + 1, edit := (d.seq q).edit, len := 64 * mb, promptLen := x.promptLen, maxNew := x.maxNew, prompt := toks,
    reserved := need, pool := p.pool, kvObj := o, vineMatched := mb, reqId := x.req, queue := x.q, func := x.func, admitted := d.now,
    k0 := k0, firstDl := x.firstDl, firstDue := due, itl := x.itl,
    automaton := BitVec.ofNat 64 x.automaton, autoState := if x.grammar then BitVec.ofNat 32 (d.subStart x) else 0,
    cost := p.cost x.pages, costPf := p.costPf, temp := x.temp, topP := x.topP, topK := x.topK, pageBudget := x.budget,
    salt := d.subSalt x p, vineUpto := mb, vineParent := hit.slots.getLastD noParent, vineHash := hit.hash }
/-- Admission of a checked request: the reason it is turned away for, or the entry, its due and the device (R291, R292). -/
def Dev.admitSeq (d : Dev) (x : Sub) (n : PlanNo) (toks : List W32) (hit : VineHit) : Nat ⊕ (SeqNo × Nat × Dev) :=
  let p := d.plan n
  let mb := hit.slots.length
  let pm := ceilDiv (x.promptLen + x.maxNew) 64
  let need := p.streams * (x.pages - mb)
  let d := d.takeHits x.part hit.slots
  let d := Dev.evictUntil x.part (fun d => d.poolFits p.pool need) ((d.vineUsed x.part).length + 1) d
  let tr := trellisFor p pm
  let bytes := kvMapBytes p.streams pm tr
  let g := ceilDiv bytes granSize
  let k0 := p.firstK (d.now + d.admitLead)
  let due := p.dueAt (k0 + ceilDiv (x.promptLen - 64 * mb) p.chunk - 1)
  if p.st ≠ .active ∧ ¬ (x.kept = true ∧ p.st = .draining) then .inl 0x0006
  else if p.interval < p.period then .inl 0x000A
  else if d.admitStopped then .inl 0x0002
  else if !d.poolFits p.pool need then .inl 0x0001
  else if !d.t1Fits x.part need || (d.need x.part .t1 g g 0).isSome || !(d.room x.part .t1 g).1 then .inl 0x0008
  else if !p.timeFits (d.levelFor p) (d.planLoad n + p.cost x.pages + p.costPf) then .inl 0x0002
  else match d.freeSeqFrom 4096 0 with
    | none => .inl 0x0005
    | some q =>
      if p.maxBatch ≤ d.servedOf n then .inl 0x0005
      else if x.q.isNone && decide (d.odNat (0x4002 * 256 + 5) 32 ≤ d.mboxSeqs) then .inl 0x0005
      else if x.itl ≠ 0 ∧ x.itl < p.interval then .inl 0x0004
      else if x.firstDl ≠ 0 ∧ x.firstDl < due then .inl 0x0003
      else
        let m := (d.room x.part .t1 g).2.newObj { Obj.reset with st := .live, part := x.part, place := .t1, size := bytes }
        let e := d.newSeq x n q m.1 hit toks need k0 due
        let d := m.2.objWrite m.1 0 (kvHeader (fld (p.h 7 1) 7 4) p.streams (p.h 6 1) (fld (p.h 7 1) 1 0) pm e.gen.toNat q.toNat tr)
        let d := d.putHits x.part m.1 p.streams hit.slots
        let d := d.takeRefs e.objRefs
        let d := if x.adapter then d.adPin x.part x.adapterId e.adUid (· + 1) else d
        .inr (q, due, d.setSeq q e)

/-- A rejected or empty request is answered: a single ADMIT with FINAL, or the mailbox's entry. Its TIME, with no due promised, is
free (log entry 50). -/
def State.submitNoTo (s : State) (x : Sub) (func : Option Nat) (r : Rej) : State :=
  let d := if r.1 = stDONE then s.dev else s.dev.srvCount 2 1
  let f := d.freeNat
  if x.q.isNone && r.1 == stDONE then
    ({ s with dev := f.2 }).emitRec none none ⟨outBytes x.req 0 0 3 stDONE false true, true⟩
  else
    ({ s with dev := f.2 }).emit x.q func { srvEv evADMIT r.1 x.part x.req f.1 with final := true, detail := r.2 }
def State.submitNo (s : State) (x : Sub) (r : Rej) : State := s.submitNoTo x none r
/-- An admitted request's ADMIT. -/
def State.submitYes (s : State) (x : Sub) (q : SeqNo) (due blocks : Nat) : State :=
  ({ s with dev := s.dev.srvCount 1 1 }).emitSeq q { s.dev.seqEv q evADMIT stDONE due with value := BitVec.ofNat 32 blocks, req := x.req }
/-- Step 10 of R288. -/
def State.admitGo (s : State) (x : Sub) (n : PlanNo) : State :=
  let toks := s.dev.promptToks x
  let v := s.dev.subVine x (s.dev.plan n) toks
  match v.2.admitSeq x n toks v.1 with
  | .inl r => ({ s with dev := v.2 }).submitNo x (rej stADMISSION r)
  | .inr (q, due, d) => ({ s with dev := d }).submitYes x q due v.1.slots.length
/-- A request that a recompute holds up waits with its plan and its tokens; its automaton stays referenced (R300, R317). -/
def State.admitHold (s : State) (x : Sub) (n : PlanNo) : State :=
  let x := { x with plan := n, toks := some (s.dev.promptToks x), kept := true }
  let d := if x.grammar then s.dev.takeRefs [urObj x.automaton] else s.dev
  { s with dev := { d with srv := { d.srv with heldReq := d.srv.heldReq ++ [.sub x] } } }
/-- From step 5 of R288 on. -/
def State.submitGo (s : State) (x : Sub) : State :=
  let n := if x.kept then x.plan else s.dev.subPlan x.plan
  if x.promptLen = 0 ∨ x.maxNew = 0 then s.submitNo x (stDONE, 0)
  else match subChecks2 s.dev x (s.dev.plan n) with
    | some r => s.submitNo x r
    | none => if s.dev.admitWaits n x.part then s.admitHold x n else s.admitGo x n
/-- SUBMIT. -/
def State.submitRec (s : State) (q : QueueNo) : State :=
  match s.recordAt q 0x01 with
  | none => s
  | some w =>
    let k := s.dev.queue q
    let s := { s with dev := s.dev.sqPass q }
    let x := subOf q k.func.toNat w
    if rKnown (rType w) = false then s.reply (q, rReq w) (rPart w) stNOTSUP 0 none 0
    else if s.dev.recHeld x.part then s.submitNo x (rej stABORTED 0x0009)
    else match subChecks1 s.dev x k.part w with
      | some r => s.submitNo x r
      | none => s.submitGo x
def execSubmit (q : QueueNo) (s : State) : Host.Outcome State Fault Refusal := .next (s.submitRec q)

/-! END_SEQ, PARK and RESUME (R303, R304). -/

/-- The entry a record names by SEQ and GEN, with what stands against it. -/
def Dev.seqNamed (d : Dev) (w : List Nat) : Option Rej :=
  let n := qf w 1 15 0
  let e := d.seq (BitVec.ofNat 12 n)
  firstRej
    [(decide (4096 ≤ n) || e.st == .free, svSTATE, 0), (e.gen.toNat != qf w 1 47 32, stSTALE, 0), (e.part != rPart w, stRIGHTS, 8)]
/-- END_SEQ. -/
def State.endSeqRec (s : State) (q : QueueNo) (w : List Nat) : State :=
  let n := rSeq w
  let e := s.dev.seq n
  let o := (q, rReq w)
  let done (s : State) : State := s.reply o (rPart w) stDONE 0 (some n) e.out.length
  match s.dev.seqNamed w with
  | some r => s.reply o (rPart w) r.1 r.2 (rSeqOut w) 0
  | none =>
    if e.st = .ending then s.reply o (rPart w) svSTATE 0 (some n) 0
    else if e.st = .safeHold then done (s.releaseSeq n)
    else done (s.decideEnd n stABORTED 0x0008)
def execEndSeq (q : QueueNo) (s : State) : Host.Outcome State Fault Refusal := .next (s.takeRecord q 0x02 fun s w => s.endSeqRec q w)

/-- PARK. -/
def State.parkRec (s : State) (q : QueueNo) (w : List Nat) : State :=
  let n := rSeq w
  let e := s.dev.seq n
  let o := (q, rReq w)
  match s.dev.seqNamed w with
  | some r => s.reply o (rPart w) r.1 r.2 (rSeqOut w) 0
  | none =>
    if e.st ≠ .decode ∨ e.parkReq ≠ none then s.reply o (rPart w) svSTATE 0 (some n) 0
    else if s.dev.inStep n || s.dev.inRerun n then { s with dev := s.dev.setSeq n { e with parkReq := some o } }
    else s.parkNow n o
def execPark (q : QueueNo) (s : State) : Host.Outcome State Fault Refusal := .next (s.takeRecord q 0x03 fun s w => s.parkRec q w)

/-- What stands against a RESUME with `need` pages held (R291, R303). -/
def Dev.resumeNo (d : Dev) (e : Seq) (need firstDl itl : Nat) : Option Nat :=
  let p := d.plan e.plan
  let due := p.dueAt (p.firstK (d.now + d.admitLead))
  if !p.runs then some 0x0006
  else if p.interval < p.period then some 0x000A
  else if d.admitStopped then some 0x0002
  else if !d.poolFits e.pool need then some 0x0001
  else if !d.t1Fits e.part need then some 0x0008
  else if !p.timeFits (d.levelFor p) (d.planLoad e.plan + p.cost e.pages) then some 0x0002
  else if p.maxBatch ≤ d.servedOf e.plan then some 0x0005
  else if itl ≠ 0 ∧ itl < p.interval then some 0x0004
  else if firstDl ≠ 0 ∧ firstDl < due then some 0x0003
  else none
/-- A RESUME turned away. -/
def State.resumeOff (s : State) (o : QueueNo × W32) (p : PartNo) (n : Option SeqNo) (r : Rej) : State :=
  let f := (s.dev.srvCount 2 1).freeNat
  ({ s with dev := f.2 }).emit (some o.1) (s.dev.lesseeOf o.1 n) { srvEv evADMIT r.1 p o.2 f.1 with final := true, seq := n, detail := r.2 }
/-- RESUME: admitted, its time reserved again and its pages on their way up; DECANT_DONE writes its ADMIT. A recompute holds it up as it does a
SUBMIT. -/
def State.resumeRec (s : State) (q : QueueNo) (w : List Nat) : State :=
  let n := rSeq w
  let d := s.dev
  let e := d.seq n
  let o := (q, rReq w)
  let itl := qf w 4 31 0
  match d.seqNamed w with
  | some r => s.resumeOff o (rPart w) (rSeqOut w) r
  | none =>
    if e.st ≠ .parked ∨ e.resuming then s.resumeOff o (rPart w) (some n) (rej svSTATE 0)
    else if itl = 0xFFFFFFFF then s.resumeOff o (rPart w) (some n) (rej stLENGTH 32)
    else if d.admitWaits e.plan e.part then
      { s with dev := { d with srv := { d.srv with heldReq := d.srv.heldReq ++ [.resume q w] } } }
    else
      let ps := d.heldPages e
      match d.resumeNo e ps.length (w.getD 3 0) itl with
      | some r => s.resumeOff o (rPart w) (some n) (rej stADMISSION r)
      | none =>
        let p := d.plan e.plan
        let d := d.setSeq n { e with resuming := true, parkReq := some o, firstDl := w.getD 3 0, itl := itl, admitted := d.now,
                                     cost := p.cost e.pages }
        { s with dev := ps.foldl (Dev.pageTo .t1) d }
def execResume (q : QueueNo) (s : State) : Host.Outcome State Fault Refusal :=
  .next (match s.recordAt q 0x04 with
    | some w =>
      if rType w = 0x04 ∧ (s.dev.recHeld (rPart w) ∨ rPart w ≠ (s.dev.queue q).part ∨ rStray w ≠ none) then
        let r : Rej := if s.dev.recHeld (rPart w) then rej stABORTED 0x0009 else if rPart w ≠ (s.dev.queue q).part then rej stRIGHTS 1
          else rej stNOTSUP ((rStray w).getD 0)
        ({ s with dev := s.dev.sqPass q }).resumeOff (q, rReq w) (rPart w) none r
      else s.takeRecord q 0x04 fun s w => s.resumeRec q w
    | none => s)

/-! Admissions held back by a recompute (R298 step 7, R300). -/

/-- A held admission still waits. -/
def Dev.heldWaits (d : Dev) : HeldReq → Bool
  | .sub x => d.admitWaits x.plan x.part
  | .resume _ w => d.admitWaits (d.seq (rSeq w)).plan (rPart w)
/-- A held admission is decided, against the reduced figures. -/
def State.heldDecide (s : State) (h : HeldReq) : State :=
  match h with
  | .sub x =>
    let s := s.submitGo x
    State.planDrained { s with dev := if x.grammar then s.dev.dropRefs [urObj x.automaton] else s.dev } x.plan
  | .resume q w => s.resumeRec q w
/-- The held admissions that no recompute holds up any more are decided, oldest first. -/
def State.heldPump (s : State) : State :=
  let d := s.dev
  let go := d.srv.heldReq.filter fun h => !d.heldWaits h
  go.foldl State.heldDecide { s with dev := { d with srv := { d.srv with heldReq := d.srv.heldReq.filter d.heldWaits } } }
/-- Held requests that satisfy `f` are turned away; their events go where `func` sends them. -/
def State.heldOff (s : State) (f : Sub → Bool) (r : Rej) (func : Sub → Option Nat) : State :=
  let mine (h : HeldReq) : Bool := match h with
    | .sub x => f x
    | .resume _ _ => false
  let go := s.dev.srv.heldReq.filter mine
  go.foldl (fun s h => match h with
    | .sub x =>
      let d := if x.grammar then s.dev.dropRefs [urObj x.automaton] else s.dev
      (State.submitNoTo { s with dev := d } x (func x) r).planDrained x.plan
    | .resume _ _ => s) { s with dev := { s.dev with srv := { s.dev.srv with heldReq := s.dev.srv.heldReq.filter fun h => !mine h } } }
def execStepRetire (p : PlanNo) (s : State) : Host.Outcome State Fault Refusal := .next (s.stepRetire p).heldPump

/-- DECANT_DONE: no page of a resumed sequence is below T1 or on its way; it returns to DECODE and its ADMIT carries the due of its first
step, unless that is past FIRST_DL, which rejects the RESUME and lays the pages down again. -/
def State.decantDone (s : State) (n : SeqNo) : State :=
  let d := s.dev
  let e := d.seq n
  let ps := d.heldPages e
  let home (x : Nat × Nat × Nat) : Bool :=
    let v := d.gran (peObj x.2.2) (peGran x.2.2)
    v.damaged || ((d.obj (peObj x.2.2)).home v == .t1 && !d.moving (peObj x.2.2) (peGran x.2.2))
  match e.st, e.resuming, e.parkReq with
  | .parked, true, some o =>
    if !ps.all home then { s with dev := ps.foldl (Dev.pageTo .t1) d }
    else
      let p := d.plan e.plan
      let k0 := p.firstK (d.now + d.admitLead)
      let due := p.dueAt k0
      if e.firstDl ≠ 0 ∧ e.firstDl < due then
        let d := d.setSeq n { e with resuming := false, parkReq := none, cost := 0 }
        ({ s with dev := ps.foldl (Dev.pageTo .t2) d }).resumeOff o e.part (some n) (rej stADMISSION 0x0003)
      else
        let d := (d.setSeq n { e with st := .decode, resuming := false, parkReq := none, k0 := k0, firstDue := due }).srvCount 1 1
        ({ s with dev := d }).emit (some o.1) e.lessee { srvEv evADMIT stDONE e.part o.2 due with seq := some n }
  | _, _, _ => s
def execDecantDone (q : SeqNo) (s : State) : Host.Outcome State Fault Refusal := .next (s.decantDone q)

end Sys2Proof.Machine
end

