-- ==== Sys2Proof/Machine/Plans.lean ====
section
/-! DEFINITION. Plans and adapters: PLAN_LOAD, PLAN_RETIRE, ADAPTER_LOAD, ADAPTER_DROP, and the default plan of the Basic Mailbox (spec/11
R281 to R284, R313 to R316). -/

namespace Sys2Proof.Machine

/-! Header and program section (R282, R283). -/

/-- The header's fields are in range and its program section lies within an object of `size` bytes. -/
def hdrOk (h : List Byte) (size : Nat) : Bool :=
  let g := hdrAt h
  let ty := Ty.ofCode (fld (g 7 1) 7 4)
  let dc := fld (g 7 1) 1 0
  g 0 2 == 0xC1F5 && g 2 1 == 1 && fld (g 3 1) 7 6 == 0 && decide (1 ≤ g 4 2) && decide (1 ≤ g 6 1 ∧ g 6 1 ≤ 8) && decide (dc ≤ 2) &&
  fld (g 7 1) 3 2 == 0 && (ty == some .e4m3 || ty == some .e5m2 || ty == some .bf16) &&
  decide (g 6 1 * headDim dc * tyW ty ≤ 512) && decide (1 ≤ g 8 4 ∧ g 8 4 ≤ 262144) &&
  decide (1 ≤ g 16 4 ∧ g 16 4 ≤ 1048576) && g 16 4 % 64 == 0 && decide (1 ≤ g 20 2 ∧ g 20 2 ≤ 4096) &&
  decide (1 ≤ g 22 2 ∧ g 22 2 ≤ 4096) && (bitN (g 3 1) 0 || g 24 4 == 0) && g 28 4 == 0 &&
  decide (100000 ≤ g 32 8 ∧ g 32 8 ≤ 1000000000) && decide (1 ≤ g 80 1 ∧ g 80 1 ≤ 64) && g 81 3 == 0 && g 84 4 % 64 == 0 &&
  decide (1 ≤ g 88 4 ∧ g 88 4 ≤ 65536) && g 92 32 == 0 && decide (g 84 4 + 96 * g 88 4 ≤ size)
/-- A template of its 96 bytes. -/
def tmplOf (b : List Byte) : Tmpl :=
  ⟨Desc.ofBytes (b.take 64), hdrAt b 64 1, hdrAt b 65 1, BitVec.ofNat 6 (hdrAt b 66 1), hdrAt b 68 4, hdrAt b 72 4, hdrAt b 76 4⟩
/-- Its fields are in range. -/
def tmplOk (members count : Nat) (b : List Byte) : Bool :=
  decide (hdrAt b 64 1 ≤ 3) && fld (hdrAt b 65 1) 7 5 == 0 && decide (hdrAt b 66 1 < members) && hdrAt b 67 1 == 0 &&
  decide (hdrAt b 72 4 ≤ count) && decide (hdrAt b 76 4 ≤ count) && hdrAt b 80 16 == 0
/-- The header and templates an object holds, if they are valid. -/
def Dev.readPlan (d : Dev) (o : ObjNo) : Option (List Byte × List Tmpl) :=
  let h := d.objRead o 0 128
  let n := hdrAt h 88 4
  if !(decide (128 ≤ (d.obj o).size) && hdrOk h (d.obj o).size) then none
  else
    let prog := d.objRead o (hdrAt h 84 4) (96 * n)
    let ts := (List.range n).map fun i => (prog.drop (96 * i)).take 96
    if hdrAt h 124 4 = crc32c (h.take 124 ++ prog) ∧ ts.all (tmplOk (hdrAt h 80 1) n) then some (h, ts.map tmplOf) else none
/-- Feature bits a template uses: its opcode's, and those of ATTEND's RETRIEVE and SCORE and of a link codec. -/
def Tmpl.features (t : Tmpl) : List Nat :=
  let x := t.desc
  (opFeature x.op).toList ++ (if x.op == 0x30 && atRetrieve x then [9] else []) ++ (if x.op == 0x30 && atScore x then [10] else []) ++
  (if x.op == 0x50 && lkCodec x == 1 then [6] else []) ++ (if x.op == 0x50 && lkCodec x == 2 then [7] else [])
/-- Feature bits a plan uses: retrieval, group, TICK, and its templates' (R28, R371). -/
def planFeatures (h : List Byte) (ts : List Tmpl) (tick : Bool) : List Nat :=
  (if bitN (hdrAt h 3 1) 0 then [9] else []) ++ (if bitN (hdrAt h 3 1) 5 then [5] else []) ++ (if tick then [14] else []) ++
  ts.flatMap Tmpl.features
/-- A plan becomes ACTIVE: A is DEV_TIME rounded up to 1,000 ns, the objects it names stay referenced (R284, R296). -/
def Dev.activate (d : Dev) (n : PlanNo) (p : Plan) : Dev :=
  let e := d.srv.ticks.head?
  let q := d.plan n
  (d.takeRefs [p.obj, p.pool]).setPlan n
    { p with st := .active, anchor := (ceilDiv d.now 1000 * 1000 : Nat), edge := if p.tick then e else none, lastEdge := if p.tick then e else none,
             k := q.k, sched := q.sched, due := q.due, commit := q.commit }

/-! PLAN_LOAD and PLAN_RETIRE (R281, R284, R315). -/

/-- What stands against a PLAN_LOAD before its object is read. -/
def loadCheck (d : Dev) (w : List Nat) : Option Rej :=
  let p := rPart w
  firstRej
    [(bitN (w.getD 3 0) 8 && !d.feature 14, stNOTSUP, 25),
     (!d.named p (w.getD 1 0), stRIGHTS, 8),
     (!(d.named p (w.getD 2 0) && (d.obj (urObj (w.getD 2 0))).st == .live), stRIGHTS, 16),
     ((rPlan w == 0 && d.feature 0) || (d.plan (rPlan w)).st != .free || (d.obj (urObj (w.getD 1 0))).st != .sealed, svSTATE, 0)]
/-- PLAN_LOAD. -/
def State.planLoadRec (s : State) (q : QueueNo) (w : List Nat) : State :=
  let d := s.dev
  let o := (q, rReq w)
  let no (r : Rej) : State := s.reply o (rPart w) r.1 r.2 none 0
  match loadCheck d w with
  | some r => no r
  | none =>
    let ob := urObj (w.getD 1 0)
    match d.readPlan ob with
    | none => no (rej svPLAN 0)
    | some (h, ts) =>
      let tick := bitN (w.getD 3 0) 8
      if !(planFeatures h ts tick).all d.feature then no (rej stNOTSUP 0)
      else
        let p := { Plan.reset with
          part := rPart w, obj := ob, pool := urObj (w.getD 2 0), hdr := h, tmpl := ts, fallback := BitVec.ofNat 8 (qf w 3 7 0),
          tick := tick, offsetUs := BitVec.ofNat 16 (qf w 3 31 16), owner := some o }
        ({ s with dev := d.activate (rPlan w) p }).reply o (rPart w) stDONE 0 none (rPlan w).toNat
def execPlanLoad (q : QueueNo) (s : State) : Host.Outcome State Fault Refusal := .next (s.takeRecord q 0x08 fun s w => s.planLoadRec q w)

/-- What stands against a PLAN_RETIRE. -/
def retireCheck (d : Dev) (w : List Nat) : Option Rej :=
  let p := d.plan (rPlan w)
  let n := qf w 3 7 0
  let m : PlanNo := BitVec.ofNat 4 n
  firstRej
    [(p.st == .free || p.st == .draining, svSTATE, 0), (p.part != rPart w, stRIGHTS, 3),
     (n != 0xFF && !(decide (n < 16) && m != rPlan w && (d.plan m).st == .active && (d.plan m).part == p.part), svSTATE, 24)]
/-- PLAN_RETIRE: the plan drains; one that is SUSPENDED has only its last ends to wait for. -/
def State.planRetireRec (s : State) (q : QueueNo) (w : List Nat) : State :=
  let d := s.dev
  let n := rPlan w
  let o := (q, rReq w)
  match retireCheck d w with
  | some r => s.reply o (rPart w) r.1 r.2 none 0
  | none =>
    let p := d.plan n
    let d := if p.st = .suspended then d.takeRefs [p.obj, p.pool] else d
    let d := d.setPlan n { p with st := .draining, successor := BitVec.ofNat 8 (qf w 3 7 0), owner := some o }
    (({ s with dev := d }).reply o (rPart w) stDONE 0 none (d.planSeqs n).length).planDrained n
def execPlanRetire (q : QueueNo) (s : State) : Host.Outcome State Fault Refusal := .next (s.takeRecord q 0x09 fun s w => s.planRetireRec q w)

/-! ADAPTER_LOAD and ADAPTER_DROP (R313, R314). -/

/-- What stands against an ADAPTER_LOAD. -/
def adLoadCheck (d : Dev) (w : List Nat) : Option Rej :=
  let p := d.plan (rPlan w)
  let a := w.getD 1 0
  let vs := d.adVers (rPart w) (BitVec.ofNat 6 (qf w 3 5 0))
  let ver := qf w 3 63 32
  firstRej
    [(!d.feature 12, stNOTSUP, 0),
     (!(d.named (rPart w) a && (d.obj (urObj a)).st == .sealed), svSTATE, 8),
     (ver == 0 || vs.any fun v => v.current && decide (ver ≤ v.version.toNat), svSTATE, 28),
     (!(p.runs && p.part == rPart w && p.flag 4), svSTATE, 3),
     (decide (4 ≤ vs.length), svFULL, 0)]
/-- ADAPTER_LOAD. -/
def State.adLoadRec (s : State) (q : QueueNo) (w : List Nat) : State :=
  let d := s.dev
  let p := rPart w
  let id : BitVec 6 := BitVec.ofNat 6 (qf w 3 5 0)
  let o := (q, rReq w)
  let vs := d.adVers p id
  match adLoadCheck d w with
  | some r => s.reply o p r.1 r.2 none (if r.1 = svFULL then match vs.getLast? with
      | some v => v.version.toNat % 65536
      | none => 0 else 0)
  | none =>
    let ver : W32 := BitVec.ofNat 32 (qf w 3 63 32)
    let v : AdVer := ⟨d.srv.adSerial, ver, urObj (w.getD 1 0), BitVec.ofNat 64 (w.getD 2 0), 0, rPlan w, o, true⟩
    let d := (d.takeRefs [v.obj]).setAdVers p id (v :: vs.map fun u => { u with current := false })
    let d := { d with srv := { d.srv with adSerial := d.srv.adSerial + 1 } }
    (({ s with dev := d }).reply o p stDONE 0 none (id.toNat * 65536 + ver.toNat % 65536)).adSweep p id
def execAdapterLoad (q : QueueNo) (s : State) : Host.Outcome State Fault Refusal := .next (s.takeRecord q 0x0A fun s w => s.adLoadRec q w)
/-- ADAPTER_DROP. -/
def State.adDropRec (s : State) (q : QueueNo) (w : List Nat) : State :=
  let d := s.dev
  let p := rPart w
  let id : BitVec 6 := BitVec.ofNat 6 (qf w 3 5 0)
  let o := (q, rReq w)
  match firstRej [(!d.feature 12, stNOTSUP, 0), ((d.adCurrent p id).isNone, svSTATE, 0)] with
  | some r => s.reply o p r.1 r.2 none 0
  | none =>
    let vs := (d.adVers p id).map fun u => { u with current := false }
    (({ s with dev := d.setAdVers p id vs }).reply o p stDONE 0 none (vs.filter fun (v : AdVer) => v.pins != 0).length).adSweep p id
def execAdapterDrop (q : QueueNo) (s : State) : Host.Outcome State Fault Refusal := .next (s.takeRecord q 0x0B fun s w => s.adDropRec q w)

/-! The default plan (R316). -/

/-- Every granule of a SEALED object given a copy in T1 while frames are free (log entry 52). -/
def Dev.loadCopies (d : Dev) (o : ObjNo) : Dev :=
  (List.range (d.obj o).granCount).foldl (fun d g =>
    if d.granMiss o g && !(d.gran o g).damaged && decide (d.taken .t1 < d.capacity .t1 / granSize) then
      let bs := d.granRead o g 0 granSize
      let d := d.setGran o g { d.gran o g with t1 := some { d.frameFor o .t1 g with vint := d.granVint o g } }
      let d := (d.count (tierReg 0x38) (0x200A * 256 + 4) granSize).addCnt (flcReg 0x20) 1
      { d with tier := { d.tier with mem := Memory.writeN (Memory.clear d.tier.mem (objKey o (g * granSize)) granSize) (objKey o (g * granSize)) bs } }
    else d) d
/-- Bytes of the mailbox pool. -/
def Dev.mboxPoolBytes (d : Dev) : Nat := d.odNat (0x4002 * 256 + 6) 34359738368
/-- The default catalogue entry. -/
def Dev.defaultCat (d : Dev) : Nat := d.odNat (0x3010 * 256 + 1) 1
/-- The default catalogue entry attached and decanted to T1, whatever the accepted word is (spec/08 R195); none where it names no entry of
partition 0. -/
def Dev.attachDefault (d : Dev) : Option (ObjNo × Dev) :=
  let n := d.defaultCat
  let c := d.cat n
  if n == 0 || !c.used || c.part != 0 then none
  else
    let m := match d.tier.obj.find? fun e => e.2.st == .sealed && e.2.cat.toNat == n with
      | some e => ((BitVec.ofNat 16 e.1 : ObjNo), d)
      | none => d.newObj (sealedObj 0 .t1 n c)
    some (m.1, m.2.loadCopies m.1)
/-- Plan 0 loaded from the default object with a pool of its own, while feature bit [0] is accepted; left FREE where there is no valid plan or no
room for the pool, and left as it is where it is no FREE plan. -/
def Dev.planDefault (d : Dev) (o : ObjNo) : Dev :=
  let g := ceilDiv d.mboxPoolBytes granSize
  if !d.feature 0 || (d.plan 0).st != .free then d
  else
    match d.readPlan o with
    | none => d
    | some (h, ts) =>
      let r := d.room 0 .t1 g
      if (d.need 0 .t1 g g 0).isSome || !r.1 then d
      else
        let k := r.2.newObj { Obj.reset with st := .live, place := .t1, size := d.mboxPoolBytes }
        k.2.activate 0 { Plan.reset with obj := o, pool := k.1, hdr := h, tmpl := ts, mbox := true }
/-- The default model loaded, and its plan (R316). -/
def Dev.loadDefault (d : Dev) : Dev :=
  match d.attachDefault with
  | none => d
  | some m => m.2.planDefault m.1

end Sys2Proof.Machine
end

