-- ==== Sys2Proof/Machine/Mailbox.lean ====
section
/-! DEFINITION. The Basic Mailbox: its IN ring and the records PROMPT and CANCEL (spec/13 R371, R384 to R386; spec/11 R316). -/

namespace Sys2Proof.Machine

/-! The IN ring (R384). -/

/-- Words of the ring. -/
def inWords : Nat := 262144
/-- The word `i` places after HEAD. -/
def Hif.inAt (h : Hif) (i : Nat) : Nat := Memory.readLe h.mboxIn ((h.inHead + i) % inWords * 4) 4
/-- Words between HEAD and TAIL. -/
def Hif.inLen (h : Hif) : Nat := (h.inTail + inWords - h.inHead) % inWords
/-- TYPE and COUNT of the record at HEAD. -/
def Hif.inType (h : Hif) : Nat := fld (h.inAt 0) 31 24
def Hif.inCount (h : Hif) : Nat := fld (h.inAt 0) 23 0
/-- HEAD passes `n` words. -/
def Dev.inPass (d : Dev) (n : Nat) : Dev := { d with hif := { d.hif with inHead := (d.hif.inHead + n) % inWords } }
/-- The mailbox service is on: MBOX_READY, bit [0] accepted (R318, R385). -/
def Dev.mboxOn (d : Dev) : Bool := d.hif.mboxReady && d.feature 0
/-- Records are taken: the service is on and no prompt is held for a recompute. -/
def Dev.mboxTakes (d : Dev) : Bool := d.mboxOn && !d.heldFor none

/-- Mailbox defaults of 0x4002. -/
def Dev.mboxMaxNew (d : Dev) : Nat := d.odNat (0x4002 * 256 + 4) 1024
/-- The request of a prompt (R316). -/
def Dev.promptSub (d : Dev) : Sub :=
  let h := d.hif
  let n := h.inAt 2
  let mx := if n = 0 then d.mboxMaxNew else min n d.mboxMaxNew
  { q := none, func := 0, req := BitVec.ofNat 32 (h.inAt 1), part := 0, plan := 0, prio := 0, vine := false, adapter := false,
    grammar := false, prune := false, soft := true, promptLen := h.inCount, maxNew := mx, prompt := 0,
    toks := some ((List.range h.inCount).map fun i => BitVec.ofNat 32 (h.inAt (3 + i))), firstDl := 0, itl := 0, adapterId := 0, budget := 0,
    automaton := 0, start := 0, temp := BitVec.ofNat 32 (d.odNat (0x4002 * 256 + 1) 0x3F333333),
    topP := BitVec.ofNat 32 (d.odNat (0x4002 * 256 + 2) 0x3F666666), topK := BitVec.ofNat 16 (d.odNat (0x4002 * 256 + 3) 40), kept := false }
/-- PROMPT: taken once its words are all there, rejected or admitted. A COUNT beyond the ring's limit has no words to wait for: only
its three header words are taken (log entry 53). -/
def State.promptRec (s : State) : State :=
  let h := s.dev.hif
  let n := h.inCount
  let tooLong := decide (262141 < n)
  let len := if tooLong then 3 else 3 + n
  if !s.dev.mboxTakes || decide (h.inLen < len) || h.inLen == 0 || h.inType != 1 then s
  else
    let x := { s.dev.promptSub with toks := if tooLong then some [] else s.dev.promptSub.toks }
    let s := { s with dev := s.dev.inPass len }
    if n = 0xFFFFFF then s.submitNo x (rej stLENGTH 0)
    else if tooLong then s.submitNo x (rej stADMISSION 0)
    else if n = 0 then s.submitNo x (stDONE, 0)
    else if s.dev.recHeld 0 then s.submitNo x (rej stABORTED 0x0009)
    else if s.dev.hif.drain || !(s.dev.plan 0).mbox || s.dev.defaultCat == 0 then s.submitNo x (rej stADMISSION 0x0009)
    else s.submitGo x
def execPrompt (s : State) : Host.Outcome State Fault Refusal := .next s.promptRec

/-- CANCEL: every live mailbox sequence of the REQ_ID ends as by END_SEQ. -/
def State.cancelRec (s : State) : State :=
  let h := s.dev.hif
  if !s.dev.mboxTakes || decide (h.inLen < 3) || h.inType != 2 then s
  else
    let r : W32 := BitVec.ofNat 32 (h.inAt 1)
    let qs := s.dev.seqsWhere fun e => e.alive && e.mbox && e.reqId == r
    let s := { s with dev := s.dev.inPass 3 }
    qs.foldl (fun s q => s.decideEnd q.1 stABORTED 0x0008) s
def execMboxCancel (s : State) : Host.Outcome State Fault Refusal := .next s.cancelRec

/-- A word 0 of another TYPE: the ring is discarded up to TAIL (R385). -/
def State.badTypeRec (s : State) : State :=
  let h := s.dev.hif
  if !s.dev.mboxTakes || h.inLen == 0 || h.inType == 1 || h.inType == 2 then s
  else
    let d := { s.dev with hif := { h with inHead := h.inTail } }
    let d := d.setEvt (.hifEvt 0) 0x40
    ({ s with dev := d }).emitRec none none ⟨outBytes 0xFFFFFFFF 0 0 4 stNOTSUP false true, true⟩
def execMboxBadType (s : State) : Host.Outcome State Fault Refusal := .next s.badTypeRec

end Sys2Proof.Machine
end

