-- ==== Sys2Proof/Machine/Hostif.lean ====
section
/-! DEFINITION. Queues, doorbells, host transfers and their interrupts (spec/13 R374 to R383; spec/16 R455). -/

namespace Sys2Proof.Machine

/-- The partition a function is bound to; none for the PF, which may use every one, and for an unbound VF (R363). -/
def Dev.bound (d : Dev) (f : Func) : Option PartNo := Tbl.get none d.sec.vf f.val
/-- A function owns a queue (R365). -/
def Dev.ownsQ (d : Dev) (f : Func) (q : QueueNo) : Bool := (d.queue q).func.toNat == f.val

/-! Transfer entries (R379, R380). -/

def xPart (w : List Nat) : PartNo := BitVec.ofNat 3 (qf w 0 22 20)
def xLen (w : List Nat) : Nat := qf w 3 39 0
/-- The 16 bytes of a transfer record but for the phase bit (R381); TIME_LO is coarsened for a confidential partition (R458). -/
def Dev.xferRecord (d : Dev) (xid : BitVec 16) (p : PartNo) (st : Byte) (detail : BitVec 16) (kib : Nat) : List Byte :=
  let t := d.now % 2 ^ 32
  let t := if (d.part p).conf then t / 65536 * 65536 else t
  natLe 8 (detail.toNat * 2 ^ 48 + xid.toNat * 2 ^ 32 + p.toNat * 2 ^ 20 + st.toNat) ++ natLe 8 (kib * 2 ^ 32 + t)
/-- Fields of an entry that must be zero, as (word, high bit, low bit). -/
def xZeros : List (Nat × Nat × Nat) := [(0, 19, 10), (0, 31, 23), (0, 63, 48)]
/-- Steps 1 to 3 of R380: an all-ones LENGTH is left to step 3, which names it (log entry 54). -/
def xferCheckA (w : List Nat) (qpart : PartNo) : Option Rej :=
  firstRej ([(decide (qf w 0 7 0 ≠ 1 ∧ qf w 0 7 0 ≠ 2), stNOTSUP, (locator 0 0 5).toNat)] ++
    (xZeros.map fun z => (qf w z.1 z.2.1 z.2.2 != 0, stNOTSUP, (locator z.1 z.2.2 5).toNat)) ++
    [(qf w 1 1 0 != 0, stNOTSUP, (locator 1 0 5).toNat), (qf w 2 1 0 != 0, stNOTSUP, (locator 2 0 5).toNat),
     (xLen w % 4 != 0 && xLen w != 2 ^ 40 - 1, stNOTSUP, (locator 3 0 5).toNat), (qf w 3 63 40 != 0, stNOTSUP, (locator 3 40 5).toNat)] ++
    ([4, 5, 6, 7].map fun i => (w.getD i 0 != 0, stNOTSUP, (locator i 0 5).toNat)) ++
    [(xPart w != qpart, stRIGHTS, 0x0003), (xLen w == 2 ^ 40 - 1, stLENGTH, (locator 3 0 1).toNat)])
/-- Steps 5 and 6. -/
def xferCheckB (d : Dev) (w : List Nat) : Option Rej :=
  let a := w.getD 2 0
  let b := d.obj (urObj a)
  let write := qf w 0 7 0 == 1
  firstRej
    [(!(d.named (xPart w) a && (!write || ((b.st == .live || b.st == .opened) && !d.isKvMap (urObj a)))), stRIGHTS, (locator 2 0 4).toNat),
     (decide (b.size < urOff a + xLen w), stLENGTH, (locator 2 0 2).toNat)]

/-! Transfers (R380, R381). -/

/-- A transfer's record becomes due. -/
def Dev.xferEnd (d : Dev) (x : Xfer) (st : Byte) (detail : BitVec 16) : Dev :=
  let d := { d with hif := { d.hif with xfers := d.hif.xfers.filter (· ≠ x) } }
  let d := d.dropRefs [urObj x.dev]
  if (d.queue x.q).fault then d else d.owe x.q ⟨d.xferRecord x.xid x.part st detail (x.done / 1024), x.irq⟩
/-- The destination of a transfer that fails is undefined beyond DONE_KIB. -/
def State.xferSpoil (s : State) (x : Xfer) : State :=
  let k := x.done / 1024 * 1024
  if x.toDev then { s with dev := s.dev.memFree x.dev k (x.len - k) }
  else
    let r := s.dev.freeBytes (x.len - k)
    if (s.dev.part x.part).conf then
      let n := ceilDiv x.len 4096 * 4160
      let z := x.done / 4096 * 4160
      let r := s.dev.freeBytes (n - z)
      { s with host := Memory.writeN s.host (x.host + z) r.1, dev := r.2 }
    else { s with host := Memory.writeN s.host (x.host + k) r.1, dev := r.2 }
/-- The entry at the head of an XFER queue is taken: rejected, done with, or started. -/
def State.takeXfer (s : State) (q : QueueNo) (w : List Nat) : State :=
  let k := s.dev.queue q
  let d := s.dev.sqPass q
  let xid : BitVec 16 := BitVec.ofNat 16 (qf w 0 47 32)
  let irq := bitN (w.getD 0 0) 8
  let owed (st : Byte) (n : BitVec 16) : State := { s with dev := d.owe q ⟨d.xferRecord xid (xPart w) st n 0, irq⟩ }
  if d.pwr.devHold || d.pwr.partHold.getLsbD (xPart w).toNat then owed stABORTED 0x0009
  else match xferCheckA w k.part with
    | some r => owed r.1 r.2
    | none =>
      if xLen w = 0 then owed stDONE 0
      else match xferCheckB d w with
        | some r => owed r.1 r.2
        | none =>
          let x : Xfer := ⟨q, xid, xPart w, qf w 0 7 0 == 1, irq, w.getD 1 0, w.getD 2 0, xLen w, 0⟩
          let d := d.takeRefs [urObj x.dev]
          { s with dev := { d with hif := { d.hif with xfers := d.hif.xfers ++ [x] } } }
/-- Entries taken in queue order: 64 transfers run at most, and a FENCE waits for those of its queue, by fuel. -/
def State.pumpXfer : Nat → State → QueueNo → State
  | 0, s, _ => s
  | fuel + 1, s, q =>
    let k := s.dev.queue q
    if k.fetches && k.kind == 2 then
      let w := (List.range 8).map fun i => leNat (((s.sqEntryAt q k.sqHead).drop (8 * i)).take 8)
      if 64 ≤ s.dev.hif.xfers.length then s
      else if bitN (w.getD 0 0) 9 && s.dev.hif.xfers.any (·.q == q) then s
      else State.pumpXfer fuel (s.takeXfer q w) q
    else s
/-- Every XFER queue taken from again. -/
def State.pumpXfers (s : State) : State := (List.range 64).foldl (fun s q => State.pumpXfer 4096 s (BitVec.ofNat 6 q)) s
/-- A transfer ended: its object's reference and its queue are free for what follows. -/
def State.xferOver (s : State) (x : Xfer) (st : Byte) (detail : BitVec 16) : State :=
  ({ s with dev := (s.dev.xferEnd x st detail).drained x.q }).pumpXfers
/-- A running transfer replaced. -/
def Dev.xferPut (d : Dev) (x y : Xfer) : Dev := { d with hif := { d.hif with xfers := d.hif.xfers.map fun z => if z = x then y else z } }
/-- The additional data of a unit: PART, OP, DEV_ADDR of the piece, plaintext length (log entry 55). -/
def xferAad (x : Xfer) (n : Nat) : List Byte :=
  [BitVec.ofNat 8 x.part.toNat, if x.toDev then 1 else 2] ++ natLe 8 (x.dev + x.done) ++ natLe 4 n
/-- Host address of the unit of a confidential transfer's next piece. -/
def Xfer.unit (x : Xfer) : Nat := x.host + x.done / 4096 * 4160
/-- A counter of an H2D unit is refused: accepted before, or below the window (R455). -/
def Part.refuses (p : Part) (n : Nat) : Bool :=
  match p.h2dMax with
  | none => false
  | some m => p.h2dSeen.contains n || decide (n + 1024 < m)
/-- A counter accepted. -/
def Part.accept (p : Part) (n : Nat) : Part :=
  let m := match p.h2dMax with
    | none => n
    | some k => max k n
  { p with h2dMax := some m, h2dSeen := (n :: p.h2dSeen).filter fun k => decide (m ≤ k + 1024) }
/-- The next piece of an H2D transfer: the bytes it stores, none where the unit is refused or its tag fails. -/
def State.h2dBytes (s : State) (x : Xfer) (n : Nat) : Option (List Byte × Dev) :=
  let p := s.dev.part x.part
  if !p.conf then some (Memory.readN s.host (x.host + x.done) n, s.dev)
  else
    let u := Memory.readN s.host x.unit 4160
    let nonce := (u.drop 4096).take 12
    let c := leNat (nonce.drop 1)
    if nonce.headD 0 ≠ 0 ∨ p.refuses c then none
    else match Config.gcmOpen (p.keyHost.getD 0) nonce (xferAad x n) (u.take n ++ (u.drop 4108).take 16) with
      | none => none
      | some bs => some (sized n bs, s.dev.setPart x.part (p.accept c))
/-- One piece of at most 4 KiB moved from host to device. -/
def State.h2dPiece (s : State) (x : Xfer) : State :=
  let n := min 4096 (x.len - x.done)
  match s.dev.access [] [(x.dev + x.done, n)] with
  | (.waits, d) => { s with dev := d }
  | (_, d) =>
    let s := { s with dev := d }
    match s.h2dBytes x n with
    | none =>
      let d := { s.dev with sec := { s.dev.sec with refused := s.dev.sec.refused + 1 } }
      (({ s with dev := d.setEvt .secEvt 0x10 }).xferSpoil x).xferOver x 0x81 0
    | some (bs, d) =>
      let y := { x with done := x.done + n }
      let s := { s with dev := (d.memWrite x.dev x.done bs).xferPut x y }
      if y.done = y.len then s.xferOver y stDONE 0 else s
/-- One piece moved from device to host. -/
def State.d2hPiece (s : State) (x : Xfer) : State :=
  let n := min 4096 (x.len - x.done)
  match s.dev.access [(x.dev + x.done, n)] [] with
  | (.waits, d) => { s with dev := d }
  | (.damaged _ _, d) => (({ s with dev := d }).xferSpoil x).xferOver x stUNCORR 0
  | (.ready, d) =>
    let bs := (d.memRead x.dev x.done n).1
    let p := d.part x.part
    let y := { x with done := x.done + n }
    let s :=
      if !p.conf then { s with dev := d.xferPut x y, host := Memory.writeN s.host (x.host + x.done) bs }
      else
        let nonce : List Byte := 0x01 :: natLe 11 p.d2h
        let c := sized (n + 16) (Config.gcmSeal (p.keyHost.getD 0) nonce (xferAad x n) bs)
        let h := Memory.writeN s.host x.unit (c.take n)
        let h := Memory.writeN h (x.unit + 4096) (nonce ++ c.drop n ++ List.replicate 36 0)
        { s with dev := (d.setPart x.part { p with d2h := (p.d2h + 1) % 2 ^ 88 }).xferPut x y, host := h }
    if y.done = y.len then s.xferOver y stDONE 0 else s
/-- The oldest running transfer of a queue with an XID and a direction. -/
def Dev.xferOf (d : Dev) (q : QueueNo) (xid : BitVec 16) (toDev : Bool) : Option Xfer :=
  d.hif.xfers.find? fun x => x.q == q && x.xid == xid && x.toDev == toDev
def State.h2d (s : State) (q : QueueNo) (xid : BitVec 16) : State :=
  match s.dev.xferOf q xid true with
  | some x => s.h2dPiece x
  | none => s
def execH2d (q : QueueNo) (xid : BitVec 16) (s : State) : Host.Outcome State Fault Refusal := .next (s.h2d q xid)
def State.d2h (s : State) (q : QueueNo) (xid : BitVec 16) : State :=
  match s.dev.xferOf q xid false with
  | some x => s.d2hPiece x
  | none => s
def execD2h (q : QueueNo) (xid : BitVec 16) (s : State) : Host.Outcome State Fault Refusal := .next (s.d2h q xid)
/-- A host completion comes back in error. -/
def State.xfHostFault (s : State) (q : QueueNo) (xid : BitVec 16) : State :=
  match s.dev.hif.xfers.find? fun x => x.q == q && x.xid == xid with
  | some x => (s.xferSpoil x).xferOver x 0x80 0
  | none => s
def execXfHostFault (q : QueueNo) (xid : BitVec 16) (s : State) : Host.Outcome State Fault Refusal := .next (s.xfHostFault q xid)

/-! Enable, disable, fault (R375, R383). -/

/-- What R375 finds against a queue; one of a confidential partition is no queue of the PF's (R453), and one of a partition restored at boot waits
for feature bit [3] (R439). -/
def Dev.enableErr (d : Dev) (f : Func) (q : QueueNo) : Nat :=
  let k := d.queue q
  if (d.lease f.val).st ≠ .live then 1
  else if !d.feature 1 then 2
  else if f.val ≠ 0 ∧ d.bound f ≠ some k.part then 3
  else if (f.val = 0 ∧ (d.part k.part).conf) ∨ (k.part ≠ 0 ∧ !d.feature 3) then 3
  else if k.sqLog < 4 ∨ 12 < k.sqLog ∨ k.cqLog < 4 ∨ 16 < k.cqLog ∨ k.kind = 3 then 4
  else 0
/-- EN written 1. -/
def doQueueEnable (f : Func) (q : QueueNo) (d : Dev) : Dev :=
  let k := d.queue q
  if !d.ownsQ f q || k.en then d
  else
    let e := d.enableErr f q
    if e ≠ 0 then d.setQueue q { k with err := BitVec.ofNat 5 e }
    else d.setQueue q { k with en := true, fault := false, draining := false, err := 0, sqHead := 0, sqTail := 0, cqHead := 0, cqTail := 0,
                               phase := true, due := [], irqDue := false }
def execQueueEnable (f : Func) (q : QueueNo) (s : State) : Host.Outcome State Fault Refusal := s.onDev (doQueueEnable f q)
/-- EN written 0. -/
def doQueueDisable (f : Func) (q : QueueNo) (d : Dev) : Dev :=
  let k := d.queue q
  if !d.ownsQ f q || !k.en then d else (d.setQueue q { k with draining := true }).drained q
def execQueueDisable (f : Func) (q : QueueNo) (s : State) : Host.Outcome State Fault Refusal := s.onDev (doQueueDisable f q)
/-- A host error on a fetch or a completion write. -/
def doQueueFault (q : QueueNo) (d : Dev) : Dev :=
  let k := d.queue q
  if !k.en || k.fault then d
  else
    let d := d.setQueue q { k with fault := true, err := 5, due := [], irqDue := false }
    let d := { d with hif := { d.hif with backlog := d.hif.backlog.filter (·.q != some q) } }
    let d := { d with hif := { d.hif with aer := d.hif.aer + 1 } }
    (d.setEvt k.evt 8).drained q
def execQueueFault (q : QueueNo) (s : State) : Host.Outcome State Fault Refusal := s.onDev (doQueueFault q)

/-! Doorbells (R376, R387). -/

/-- HIF_SQ_TAIL written. -/
def State.sqDoorbell (s : State) (f : Func) (q : QueueNo) (tail : BitVec 12) : State :=
  let k := s.dev.queue q
  if !s.dev.ownsQ f q then s
  else if !k.en || k.draining || decide (k.sqSize ≤ tail.toNat) then { s with dev := s.dev.setEvt (.hifEvt f) 0x20 }
  else
    let s := { s with dev := s.dev.setQueue q { k with sqTail := tail.toNat } }
    State.pumpXfer 4096 (State.pumpCmd 4096 s q) q
def execSqDoorbell (f : Func) (q : QueueNo) (tail : BitVec 12) (s : State) : Host.Outcome State Fault Refusal := .next (s.sqDoorbell f q tail)
/-- HIF_CQ_HEAD written. -/
def doCqDoorbell (f : Func) (q : QueueNo) (head : BitVec 16) (d : Dev) : Dev :=
  let k := d.queue q
  if !d.ownsQ f q then d
  else if !k.en || k.draining || decide (k.cqSize ≤ head.toNat) then d.setEvt (.hifEvt f) 0x20
  else d.setQueue q { k with cqHead := head.toNat }
def execCqDoorbell (f : Func) (q : QueueNo) (head : BitVec 16) (s : State) : Host.Outcome State Fault Refusal := s.onDev (doCqDoorbell f q head)

/-! MSI-X (R361, R382). -/

def msixKey (f v : Nat) : Nat := f * 64 + v
def Dev.msixEnabled (d : Dev) (f : Nat) : Bool := Tbl.get false d.hif.msixEn f
/-- A message of a vector of a function with MSI-X enabled: written to host memory, or left pending where it is masked (log entry 56). -/
def State.msix (s : State) (f v : Nat) : State :=
  let h := s.dev.hif
  let k := msixKey f v
  if Tbl.get false h.msixMask f || !Tbl.get false h.msixOn k then
    { s with dev := { s.dev with hif := { h with msixPend := Tbl.set false h.msixPend k true } } }
  else
    { s with
      dev := { s.dev with hif := { h with msixPend := Tbl.set false h.msixPend k false } }
      host := Memory.writeLe s.host (Tbl.get (0 : W64) h.msixAddr k).toNat 4 (Tbl.get (0 : W32) h.msixData k).toNat }
/-- Pending messages that nothing masks any longer leave. -/
def State.msixFlush (s : State) : State :=
  (s.dev.hif.msixPend.map (·.1)).foldl (fun s k =>
    if s.dev.msixEnabled (k / 64) && !Tbl.get false s.dev.hif.msixMask (k / 64) && Tbl.get false s.dev.hif.msixOn k then s.msix (k / 64) (k % 64)
    else s) s
/-- Hold-off time of a queue in ns (R392). -/
def QueueSt.holdNs (k : QueueSt) : Nat := if k.holdoff = 0 then 0 else 2 ^ (k.holdoff - 1) * 1000
/-- QUEUE_INTERRUPT: one message covers what was written since the last. -/
def State.queueIrq (s : State) (q : QueueNo) : State :=
  let k := s.dev.queue q
  let f := k.func.toNat
  let due := match k.irqLast with
    | none => true
    | some t => decide (t.toNat + k.holdNs ≤ s.dev.now)
  if k.irqDue && due && s.dev.msixEnabled f then
    ({ s with dev := s.dev.setQueue q { k with irqDue := false, irqLast := some s.dev.hif.devTime } }).msix f k.vector
  else s
def execQueueInterrupt (q : QueueNo) (s : State) : Host.Outcome State Fault Refusal := .next (s.queueIrq q)

end Sys2Proof.Machine
end

