-- ==== Sys2Proof/Machine/Lease.lean ====
section
/-! DEFINITION. Attach, the accepted feature word, leases and DEV_TIME's alignment (spec/13 R368 to R373; spec/11 R305; spec/01 R27 to R29). -/

namespace Sys2Proof.Machine

/-! Feature words (R27 to R29, R371). -/

/-- Bit [14] follows the strap (R38). -/
def Dev.offered (d : Dev) : BitVec 128 :=
  if d.pins.tickPrsntN then d.fw.offered &&& (~~~ (0x4000 : BitVec 128)) else d.fw.offered
/-- Feature bits an admitted sequence uses. -/
def Seq.features (e : Seq) (conf : Bool) : List Nat :=
  (if e.vine then [8] else []) ++ (if e.prune then [10] else []) ++ (if e.grammar then [11] else []) ++ (if e.adapter then [12] else []) ++
  (if e.soft && !e.mbox then [13] else []) ++ (if conf then [4] else [])
/-- An accepted bit is in use. -/
def Dev.bitInUse (d : Dev) (i : Nat) : Bool :=
  if i = 1 then d.hif.queue.any fun k => k.2.en
  else if i = 2 then decide (d.hif.numVfs ≠ 0)
  else if i = 3 then d.sec.part.any fun p => p.1 != 0 && p.2.st != .absent
  else if i = 5 then d.links.group != .solo
  else
    (d.srv.plan.any fun p => p.2.runs && (planFeatures p.2.hdr p.2.tmpl p.2.tick).contains i) ||
    (d.srv.seq.any fun e => e.2.alive && (e.2.features (d.part e.2.part).conf).contains i)
/-- The word an ATTACH of the PF asks for. -/
def Dev.wanted (d : Dev) : BitVec 128 := d.hif.req &&& d.offered
/-- It would clear a bit in use. -/
def Dev.clearsUsed (d : Dev) : Bool :=
  (upFrom 1 127).any fun i => d.feature i && !d.wanted.getLsbD i && d.bitInUse i
/-- The accepted word set: bit [0] reads 1 until the last mailbox sequence has ended; set again, it brings the default plan back. -/
def State.setAccepted (s : State) : State :=
  let d := s.dev
  let w := d.wanted
  let had := d.feature 0
  if w.getLsbD 0 then
    let d := { d with hif := { d.hif with accepted := w, drain := false } }
    { s with dev := if had then d else d.loadDefault }
  else if had then
    ({ s with dev := { d with hif := { d.hif with accepted := w ||| 1, drain := true } } }).mboxDrained
  else { s with dev := { d with hif := { d.hif with accepted := w } } }

/-! A lease leaves LIVE, returns, or ends (R305, R373). -/

/-- Queues of a function. -/
def Dev.queuesOf (d : Dev) (f : Nat) : List QueueNo :=
  (d.hif.queue.filter fun e => e.2.func.toNat == f).map fun e => BitVec.ofNat 6 e.1
/-- A queue stopped: EN cleared, what waits to be written to it discarded. -/
def QueueSt.stop (k : QueueSt) : QueueSt := { k with en := false, draining := false, due := [], irqDue := false }
/-- Commands of a stopped queue: those not running abort; every record is discarded, the tag returning to FREE without one. -/
def Dev.orphan (d : Dev) (qs : List QueueNo) : Dev :=
  let mine (e : TagE) : Bool := match e.iss with
    | .queue q => qs.contains q
    | _ => false
  let d := d.abortWhere (fun e => mine e && (e.st == .waiting || e.st == .ready)) 0x000A
  { d with cores := { d.cores with tag := Tbl.mapAll TagE.reset (fun _ e =>
      if e.inFlight && mine e then { e with iss := .firmware } else e) d.cores.tag } }
/-- Transfers of stopped queues stop, with no record. -/
def State.dropXfers (s : State) (qs : List QueueNo) : State :=
  (s.dev.hif.xfers.filter fun x => qs.contains x.q).foldl (fun s x =>
    let s := s.xferSpoil x
    { s with dev := { (s.dev.dropRefs [urObj x.dev]) with hif := { s.dev.hif with xfers := s.dev.hif.xfers.filter (· ≠ x) } } }) s
/-- Sequences of a function are held. -/
def Dev.holdSeqs (d : Dev) (f : Nat) : Dev :=
  (d.seqsWhere fun e => !e.mbox && e.func == f && (e.active || e.st == .parked)).foldl (fun d x =>
    d.setSeq x.1 { x.2 with st := .held, was := x.2.st }) d
/-- A LIVE lease leaves LIVE with a hold end. -/
def State.leaveLive (s : State) (f : Func) (holdEnd : Nat) : State :=
  let d := s.dev
  let qs := d.queuesOf f.val
  let d := qs.foldl (fun d q => d.setQueue q (d.queue q).stop) d
  let s := ({ s with dev := d.orphan qs }).dropXfers qs
  let s := s.heldOff (fun x => x.q.isSome && x.func == f.val) (rej stADMISSION 0x0007) fun x => some x.func
  let d := s.dev.holdSeqs f.val
  let d := d.setLease f.val { d.lease f.val with st := .hold, due := holdEnd }
  { s with dev := d.setEvt (.hifEvt f) 1 }
/-- The hold ends: the function's backlog events are discarded and its HELD sequences end. -/
def State.endHold (s : State) (f : Func) : State :=
  let d := s.dev
  let d := { d with hif := { d.hif with backlog := d.hif.backlog.filter fun e => e.func != some f.val } }
  let d := d.setLease f.val { d.lease f.val with st := .none, due := 0, ident := 0 }
  let s := { s with dev := d.setEvt (.hifEvt f) 2 }
  (s.dev.seqsWhere fun e => e.st == .held && !e.mbox && e.func == f.val).foldl (fun s x => s.decideEnd x.1 stABORTED 0x000A) s
/-- A held sequence returns to the state it was held in; a first token promised for a time that has passed is missed, or late. -/
def State.unhold (s : State) (q : SeqNo) : State :=
  let d := s.dev
  let e := d.seq q
  let k := (d.plan e.plan).firstK (d.now + d.admitLead)
  let e := { e with st := e.was, k0 := max e.k0 k }
  let past := decide (e.firstDue ≠ 0 ∧ e.firstDue < d.now) && e.st != .parked
  if past && !e.soft then ({ s with dev := d.setSeq q e }).decideEnd q stMISSED 0
  else { s with dev := d.setSeq q { e with lateFirst := past } }
/-- A lease becomes LIVE under the registers' identity and configuration. -/
def Dev.goLive (d : Dev) (f : Func) (result : Nat) (anew : Bool) : Dev :=
  let l := d.lease f.val
  let p := fld l.regCfg.toNat 15 0
  let d := d.setLease f.val { l with st := .live, ident := l.regId, periodMs := p, holdS := fld l.regCfg.toNat 31 16,
                                     due := d.now + p * 1000000, result := BitVec.ofNat 8 result }
  if anew then d.setEvt (.hifEvt f) 0x80 else d
/-- The hold end of a lease that leaves LIVE at `t`. -/
def Lease.holdEnd (l : Lease) (t : Nat) : Nat := t + l.holdS * 1000000000
/-- A due that has passed takes effect before what arrives after it. -/
def State.leasePast (s : State) (f : Func) : State :=
  let l := s.dev.lease f.val
  if l.st = .live ∧ l.due < s.dev.now then s.leaveLive f (l.holdEnd l.due) else s

/-! ATTACH, RENEW, DETACH (R370, R372, R390). -/

def Dev.leaseResult (d : Dev) (f : Func) (r : Nat) : Dev := d.setLease f.val { d.lease f.val with result := BitVec.ofNat 8 r }
/-- The RESULT of an ATTACH that fails. -/
def Dev.attachNo (d : Dev) (f : Func) (force : Bool) : Option Nat :=
  let l := d.lease f.val
  let p := fld l.regCfg.toNat 15 0
  let h := fld l.regCfg.toNat 31 16
  if !d.hif.ready then some 0x02
  else if d.links.group = .satellite then some 0x03
  else if l.regId = 0 ∨ l.regId = BitVec.allOnes 64 then some 0x04
  else if p < 10 ∨ 10000 < p ∨ h < 1 ∨ 3600 < h then some 0x05
  else if l.st ≠ .none ∧ l.ident ≠ l.regId ∧ force = false then some 0x06
  else if f.val = 0 ∧ d.clearsUsed then some 0x09
  else if f.val ≠ 0 ∧ d.feature 2 = false then some 0x0A
  else if f.val ≠ 0 ∧ d.bound f = none then some 0x0B
  else none
/-- ATTACH. -/
def State.attach (s : State) (f : Func) (force : Bool) : State :=
  let s := s.leasePast f
  match s.dev.attachNo f force with
  | some r => { s with dev := s.dev.leaseResult f r }
  | none =>
    let l := s.dev.lease f.val
    let s :=
      match l.st, decide (l.ident = l.regId) with
      | .none, _ => { s with dev := s.dev.goLive f 0 true }
      | .live, true => { s with dev := s.dev.goLive f 0 false }
      | .live, false =>
        let s := (s.leaveLive f (l.holdEnd s.dev.now)).endHold f
        { s with dev := s.dev.goLive f 0 true }
      | .hold, true =>
        let s := { s with dev := s.dev.goLive f 1 true }
        (s.dev.seqsWhere fun e => e.st == .held && !e.mbox && e.func == f.val).foldl (fun s x => s.unhold x.1) s
      | .hold, false =>
        let s := s.endHold f
        { s with dev := s.dev.goLive f 0 true }
    if f.val = 0 then s.setAccepted else s
def execAttach (f : Func) (force : Bool) (s : State) : Host.Outcome State Fault Refusal := .next (s.attach f force)
/-- RENEW. -/
def State.renew (s : State) (f : Func) : State :=
  let s := s.leasePast f
  let l := s.dev.lease f.val
  match l.st with
  | .none => { s with dev := s.dev.leaseResult f 0x07 }
  | .hold => { s with dev := s.dev.leaseResult f 0x08 }
  | .live =>
    if l.ident ≠ l.regId then { s with dev := s.dev.leaseResult f 0x06 }
    else { s with dev := s.dev.setLease f.val { l with due := s.dev.now + l.periodMs * 1000000, result := 0 } }
def execRenew (f : Func) (s : State) : Host.Outcome State Fault Refusal := .next (s.renew f)
/-- DETACH. -/
def State.detach (s : State) (f : Func) : State :=
  let s := s.leasePast f
  let l := s.dev.lease f.val
  match l.st with
  | .live =>
    let s := s.leaveLive f (l.holdEnd s.dev.now)
    { s with dev := s.dev.leaseResult f 0 }
  | _ => { s with dev := s.dev.leaseResult f 0x07 }
def execDetach (f : Func) (s : State) : Host.Outcome State Fault Refusal := .next (s.detach f)
/-- LEASE_EXPIRY. -/
def execLeaseExpiry (f : Func) (s : State) : Host.Outcome State Fault Refusal := .next (s.leasePast f)
/-- HOLD_END. -/
def State.holdEndPast (s : State) (f : Func) : State :=
  let l := s.dev.lease f.val
  if l.st = .hold ∧ l.due ≤ s.dev.now then s.endHold f else s
def execHoldEnd (f : Func) (s : State) : Host.Outcome State Fault Refusal := .next (s.holdEndPast f)
/-- The concentrator at a reset of the PF: delivery settings reset, everything else kept (R407). -/
def EvcCore.pfReset (e : EvcCore) : EvcCore :=
  { e with enable := 0, gdis := false, msiEn := 0, vector := [], holdoff := [], armed := 0 }
def Dev.evcPfReset (d : Dev) : Dev := { d with evc := { d.evc with core := d.evc.core.pfReset } }
/-- A function's lease left by a reset. -/
def State.flrOne (s : State) (f : Func) : State :=
  let s := s.leasePast f
  let l := s.dev.lease f.val
  if l.st = .live then s.leaveLive f (l.holdEnd s.dev.now) else s
/-- FUNCTION_LEVEL_RESET (R372, R407, R513). -/
def State.flr (s : State) (f : Func) : State :=
  if f.val = 0 then
    let s := (List.finRange 9).foldl State.flrOne s
    let d := s.dev.evcPfReset
    { s with dev := { d with od := { d.od with wpVdm := false, wpSide := false } } }
  else s.flrOne f
def execFunctionLevelReset (f : Func) (s : State) : Host.Outcome State Fault Refusal := .next (s.flr f)
/-- HOT_RESET of the PF (R407). -/
def doHotReset (d : Dev) : Dev := d.evcPfReset
def execHotReset (s : State) : Host.Outcome State Fault Refusal := s.onDev doHotReset

/-! DEV_TIME (R368). -/

/-- A time moved by the first alignment: it keeps its distance from the present. -/
def shiftTime (old new t : Nat) : Nat := t + new - old
def shiftW (old new : Nat) (t : W64) : W64 := BitVec.ofNat 64 (shiftTime old new t.toNat)
/-- A due of a sequence, 0 where there is none. -/
def shiftDue (old new t : Nat) : Nat := if t = 0 then 0 else shiftTime old new t
def Plan.shift (old new : Nat) (p : Plan) : Plan :=
  let g := shiftTime old new
  if p.st = .free then p
  else
    { p with anchor := p.anchor + new - old, sched := g p.sched, due := g p.due, edge := p.edge.map g,
             edges := p.edges.map fun e => (e.1, g e.2), lastEdge := p.lastEdge.map g,
             rerun := p.rerun.map fun r => { r with sched := g r.sched, due := g r.due } }
/-- A held admission's FIRST_DL moved with DEV_TIME. -/
def HeldReq.shift (old new : Nat) : HeldReq → HeldReq
  | .sub x => .sub { x with firstDl := shiftDue old new x.firstDl }
  | .resume q w => .resume q (w.set 3 (shiftDue old new (w.getD 3 0)))
def Seq.shift (old new : Nat) (e : Seq) : Seq :=
  { e with firstDl := shiftDue old new e.firstDl, firstDue := shiftDue old new e.firstDue, heldAt := shiftDue old new e.heldAt }
def Lease.shift (old new : Nat) (l : Lease) : Lease := { l with due := if l.st = .none then l.due else shiftTime old new l.due }
def Bar.shift (old new : Nat) (b : Bar) : Bar := { b with limit := b.limit.map (shiftTime old new) }
def TagE.shift (old new : Nat) (e : TagE) : TagE := if e.st = .running then { e with started := shiftW old new e.started } else e
def QueueSt.shift (old new : Nat) (k : QueueSt) : QueueSt := { k with irqLast := k.irqLast.map (shiftW old new) }
def Port.shift (old new : Nat) (p : Port) : Port := { p with trains := p.trains.map (shiftTime old new) }
def DieSt.shift (old new : Nat) (x : DieSt) : DieSt :=
  let g (o : DieOp) : DieOp := { o with since := shiftTime old new o.since }
  { x with run := x.run.map g, susp := x.susp.map g }
/-- Every schedule point, deadline, lease due and running timer shifted with DEV_TIME. -/
def Dev.shiftAll (d : Dev) (new : Nat) : Dev :=
  let old := d.now
  let g := shiftTime old new
  let d := { d with hif := { d.hif with devTime := BitVec.ofNat 64 new } }
  { d with
    cores := { d.cores with
      tag := Tbl.mapAll TagE.reset (fun _ => TagE.shift old new) d.cores.tag
      bar := Tbl.mapAll Bar.reset (fun _ => Bar.shift old new) d.cores.bar }
    srv := { d.srv with
      plan := Tbl.mapAll Plan.reset (fun _ => Plan.shift old new) d.srv.plan
      seq := Tbl.mapAll Seq.reset (fun _ => Seq.shift old new) d.srv.seq
      ticks := d.srv.ticks.map g
      heldReq := d.srv.heldReq.map (HeldReq.shift old new) }
    hif := { d.hif with
      queue := Tbl.mapAll QueueSt.reset (fun _ => QueueSt.shift old new) d.hif.queue
      lease := Tbl.mapAll Lease.reset (fun _ => Lease.shift old new) d.hif.lease }
    cellar := { d.cellar with die := Tbl.mapAll DieSt.reset (fun _ => DieSt.shift old new) d.cellar.die, lastWrite := shiftW old new d.cellar.lastWrite }
    links := { d.links with
      port := Tbl.mapAll Port.reset (fun _ => Port.shift old new) d.links.port
      members := Tbl.mapAll Member.reset (fun _ m => { m with beat := if m.present then g m.beat else m.beat }) d.links.members }
    pwr := { d.pwr with
      idleAt := g d.pwr.idleAt, capAt := d.pwr.capAt.map g, emergAt := g d.pwr.emergAt, coolAt := d.pwr.coolAt.map g, limitAt := d.pwr.limitAt.map g,
      limited := d.pwr.limited.map g, tempLog := d.pwr.tempLog.map fun e => (g e.1, e.2), uncorr := d.pwr.uncorr.map fun e => (e.1, e.2.map g),
      corr := d.pwr.corr.map fun e => (e.1, e.2.map g), parity := d.pwr.parity.map fun e => (e.1, e.2.map g) }
    evc := { d.evc with core := { d.evc.core with
      hoFrom := (List.range 16).foldl (fun t n => if d.evc.core.hoRun.getLsbD n then Tbl.mod 0 t n g else t) d.evc.core.hoFrom } }
    fw := { d.fw with
      lastAt := g d.fw.lastAt, actFrom := d.fw.actFrom.map g, trialEnd := if d.fw.trialEnd = 0 then 0 else g d.fw.trialEnd }
    sec := { d.sec with reseedAt := shiftW old new d.sec.reseedAt, samplerAt := shiftW old new d.sec.samplerAt } }
/-- The rate after a dialogue that found the offset `off`: towards the host's time by at most 1,000 ppm, by how much the manual does not say
(log entry 57). -/
def ptmRateFor (off : Int) (free : Nat) : Int := if 0 ≤ off then (free % 1001 : Nat) else -((free % 1001 : Nat) : Int)
/-- PTM_DIALOGUE, with PTM Enable set: the first aligns DEV_TIME at once; later ones correct its rate only. A satellite takes its time from the
head. -/
def doPtmDialogue (hostTime : W64) (d : Dev) : Dev :=
  if d.links.group = .satellite ∨ d.hif.ptmEn = false then d
  else
    let off := hostTime - d.hif.devTime
    let d :=
      if d.hif.aligned then
        { d with hif := { d.hif with ptmRate := ptmRateFor off.toInt (Config.freeWord d.draws).toNat }, draws := d.draws + 1 }
      else d.shiftAll hostTime.toNat
    { d with hif := { d.hif with aligned := true, ptmLock := true, ptmLast := d.hif.devTime, ptmOffset := off.truncate 32 } }
def execPtmDialogue (hostTime : W64) (s : State) : Host.Outcome State Fault Refusal := s.onDev (doPtmDialogue hostTime)
/-- PTM_LOST: 10 periods without a dialogue. -/
def doPtmLost (d : Dev) : Dev :=
  let h := d.hif
  if h.ptmLock && decide (h.ptmLast.toNat + 10 * h.ptmPeriod.toNat * 1000 ≤ d.now) then
    ({ d with hif := { h with ptmLock := false } }).setEvt (.hifEvt 0) 4
  else d
def execPtmLost (s : State) : Host.Outcome State Fault Refusal := s.onDev doPtmLost

end Sys2Proof.Machine
end

