-- ==== Sys2Proof/Machine/Hold.lean ====
section
/-! DEFINITION. Safe Hold at its three scopes, its release, and the cause of FAULT_N (spec/17 R482 to R485, R492; spec/02 R37). -/

namespace Sys2Proof.Machine

/-- CLASS of the fault record of a partition's or the device's Safe Hold, by its CAUSE (R485). -/
def holdClass (cause : Nat) (device : Bool) : Nat :=
  if cause = 0x08 ∨ cause = 0x0A then 7 else if device ∨ cause = 0x09 then 6 else 10

/-- FAULT_N asserted; PWR_FAULT names the cause that asserted it (R492). -/
def Dev.assertFault (d : Dev) (cause cls unit : Nat) : Dev :=
  { d with
    pins := { d.pins with faultDrv := true }
    pwr := if d.pwr.fault.getLsbD 31 then d.pwr else
      { d.pwr with fault := BitVec.ofNat 32 (2 ^ 31 + cause % 256 * 65536 + cls % 256 * 256 + unit % 256) } }

/-- Sequences placed in Safe Hold by a wider scope. -/
def State.holdSeqsOf (s : State) (f : Seq → Bool) : State :=
  (s.dev.seqsWhere fun e => e.alive && f e).foldl (fun s x => s.seqHold x.1 0 0 s.dev.now) s
/-- Host transfers ended by Safe Hold. -/
def State.holdXfers (s : State) (f : Xfer → Bool) : State :=
  (s.dev.hif.xfers.filter f).foldl (fun s x => (s.xferSpoil x).xferOver x stABORTED 0x0009) s

/-- Safe Hold of a partition: its commands and transfers end ABORTED, its sequences end, its link transfers stop (R483). -/
def State.partHold (s : State) (p : PartNo) (cause : Nat) : State :=
  if s.dev.pwr.partHold.getLsbD p.toNat then s
  else
    let s := s.logFault ⟨2, holdClass cause false, 0, cause, some p, none, 0, 0⟩
    let d := { s.dev with pwr := { s.dev.pwr with partHold := s.dev.pwr.partHold ||| BitVec.ofNat 8 (2 ^ p.toNat) } }
    let d := (d.setEvt .pwrEvt 0x800000).abortWhere (fun e => e.desc.part == p) 0x0009
    let s := ({ s with dev := d }).heldOff (fun x => x.part == p) (rej stABORTED 0x0009) fun _ => none
    (s.holdSeqsOf fun e => e.part == p).holdXfers fun x => x.part == p

/-- Safe Hold of the device: every command, transfer and sequence, and FAULT_N (R483). -/
def State.devHold (s : State) (cause cls unit : Nat) : State :=
  if s.dev.pwr.devHold then s
  else
    let s := (s.logFault ⟨3, cls, unit, cause, none, none, 0, 0⟩).actDrop 0xFF
    let d := { s.dev with pwr := { s.dev.pwr with devHold := true } }
    let d := ((d.setEvt .pwrEvt 0x1000000).assertFault cause cls unit).abortWhere (fun _ => true) 0x0009
    let s := ({ s with dev := d }).heldOff (fun _ => true) (rej stABORTED 0x0009) fun _ => none
    (s.holdSeqsOf fun _ => true).holdXfers fun _ => true

/-- Safe Hold of a scope. -/
def State.enterHold (s : State) (sc : HoldScope) (cause : Nat) : State :=
  match sc with
  | .seq q => s.seqHold q cause 0 s.dev.now
  | .part p => s.partHold p cause
  | .device => s.devHold cause (holdClass cause true) 0

def execSafeHold (sc : HoldScope) (cause : BitVec 8) (s : State) : Host.Outcome State Fault Refusal := .next (s.enterHold sc cause.toNat)

/-- The release of a partition, once the firmware has rechecked its maps, plans and pools (R482). -/
def doSafeHoldRelease (p : BitVec 8) (recheckOk : Bool) (d : Dev) : Dev :=
  if p.toNat < 8 ∧ d.pwr.partHold.getLsbD p.toNat = true ∧ recheckOk = true then
    { d with pwr := { d.pwr with partHold := d.pwr.partHold &&& ~~~ (BitVec.ofNat 8 (2 ^ p.toNat)) } }
  else d

def execSafeHoldRelease (p : BitVec 8) (recheckOk : Bool) (s : State) : Host.Outcome State Fault Refusal :=
  s.onDev (doSafeHoldRelease p recheckOk)

end Sys2Proof.Machine
end

