-- ==== Sys2Proof/Machine/Events.lean ====
section
/-! DEFINITION. The event concentrator: firings, enables, the global disable and delivery (spec/14 R395 to R406). -/

namespace Sys2Proof.Machine

/-! Sources (R396). -/

/-- Source `n` can fire: a source of R396 whose unit bit is defined. -/
def sourceDefined (n : Nat) : Bool :=
  let at' := fun base r => decide (base ≤ n) && bitN (evtMask r) (n - base)
  decide (n < 0x40) || (decide (n < 0x45) && at' 0x40 .tierEvt) || (decide (n < 0x48) && at' 0x45 .attChipEvt) ||
  (decide (n < 0x60) && at' 0x50 .flcEvt) || (decide (n < 0x70) && at' 0x60 .srvEvt) || decide (0x70 ≤ n ∧ n < 0x78) ||
  (decide (n < 0x80) && at' 0x78 .elkGevt) || (decide (n < 0x90) && at' 0x80 (.hifEvt 0)) || (decide (n < 0xB0) && at' 0x90 .pwrEvt) ||
  (decide (n < 0xC0) && at' 0xB0 .fwEvt) || (decide (n < 0xD0) && at' 0xC0 .secEvt) || decide (0xD0 ≤ n ∧ n < 0xE0)
/-- The enables that can be set. -/
def sourceMask : BitVec 256 := BitVec.ofNat 256 ((List.range 224).foldl (fun m n => if sourceDefined n then m + 2 ^ n else m) 0)

/-- The groups that request delivery. -/
def EvcCore.reqs (e : EvcCore) : BitVec 16 := BitVec.ofNat 16 ((List.range 16).foldl (fun m g => if e.req g then m + 2 ^ g else m) 0)
/-- A group that no longer requests delivery stops being armed (R399). -/
def EvcCore.settle (e : EvcCore) : EvcCore := { e with armed := e.armed &&& e.reqs }
/-- The concentrator's working state changed, and its retained copy while it stands (R405). -/
def Dev.modEvc (d : Dev) (f : EvcCore → EvcCore) : Dev :=
  { d with evc := { d.evc with core := f d.evc.core, retained := d.evc.retained.map f } }

/-- A unit sets one of its event bits (R395). -/
def doSourceFire (r : EvtReg) (bit : BitVec 5) (d : Dev) : Dev := d.setEvt r (2 ^ bit.toNat)

def execSourceFire (r : EvtReg) (bit : BitVec 5) (s : State) : Host.Outcome State Fault Refusal := s.onDev (doSourceFire r bit)

/-! Register actions (R397 to R399, R403, R408 to R410). -/

/-- Counters cleared: one, or with bit [8] all. -/
def EvcCore.cntClear (v : Nat) (e : EvcCore) : EvcCore :=
  { e with count := if bitN v 8 then [] else Tbl.set (0 : BitVec 8) e.count (fld v 7 0) 0 }
def doEvcCntclr (v : W32) (d : Dev) : Dev := d.modEvc (EvcCore.cntClear v.toNat)

def execEvcCntclr (v : W32) (s : State) : Host.Outcome State Fault Refusal := s.onDev (doEvcCntclr v)

/-- Software sources fire. -/
def doEvcSwset (v : W32) (d : Dev) : Dev :=
  { d with evc := ((setBits v.toNat 16).map (0xD0 + ·)).foldl Evc.fire d.evc }

def execEvcSwset (v : W32) (s : State) : Host.Outcome State Fault Refusal := s.onDev (doEvcSwset v)

/-- Enables of sources 32j to 32j + 31 written; an enable written 1 for a pending source arms its group. -/
def EvcCore.writeEn (j : Nat) (v : W32) (e : EvcCore) : EvcCore :=
  let field : BitVec 256 := BitVec.ofNat 256 (0xFFFFFFFF * 2 ^ (32 * j))
  let w := (BitVec.ofNat 256 (v.toNat * 2 ^ (32 * j))) &&& sourceMask
  let hit := w &&& e.pend
  let gs := (List.range 16).foldl (fun m g => if fld hit.toNat (16 * g + 15) (16 * g) ≠ 0 then m + 2 ^ g else m) 0
  { e with enable := (e.enable &&& ~~~ field) ||| w, armed := e.armed ||| BitVec.ofNat 16 gs }.settle
def doEvcEnWrite (j : BitVec 3) (v : W32) (d : Dev) : Dev := d.modEvc (EvcCore.writeEn j.toNat v)

def execEvcEnWrite (j : BitVec 3) (v : W32) (s : State) : Host.Outcome State Fault Refusal := s.onDev (doEvcEnWrite j v)

/-- Pending bits of sources 32j to 32j + 31 cleared where 1 is written. -/
def EvcCore.clearPend (j : Nat) (v : W32) (e : EvcCore) : EvcCore :=
  { e with pend := e.pend &&& ~~~ (BitVec.ofNat 256 (v.toNat * 2 ^ (32 * j))) }.settle

/-- GDIS written: 0 arms every group that requests delivery. -/
def EvcCore.writeGdis (b : Bool) (e : EvcCore) : EvcCore := { e with gdis := b, armed := if b then e.armed else e.armed ||| e.reqs }
def doEvcGdisWrite (v : W32) (d : Dev) : Dev := d.modEvc (EvcCore.writeGdis (v.getLsbD 0))

def execEvcGdisWrite (v : W32) (s : State) : Host.Outcome State Fault Refusal := s.onDev (doEvcGdisWrite v)

/-! Delivery (R400 to R403). -/

/-- The host takes the message of a group: MSI_EN, MSI-X Enable, no Function Mask, and not on a satellite. -/
def Dev.msiTakes (d : Dev) (g : Nat) : Bool :=
  d.evc.core.msiEn.getLsbD g && d.msixEnabled 0 && !Tbl.get false d.hif.msixMask 0 && d.links.group != .satellite
/-- A control processor takes it. -/
def Dev.cpTakes (d : Dev) (g : Nat) : Bool := d.evc.core.cpEn.getLsbD g
/-- A group delivers now. -/
def Dev.delivers (d : Dev) (g : Nat) : Bool :=
  let e := d.evc.core
  d.evc.retained.isNone && e.armed.getLsbD g && e.req g && !e.gdis && !e.hoRun.getLsbD g && (d.msiTakes g || d.cpTakes g)
/-- The hold-off of a group starts, where its HOLDOFF is not 0 (R400, R401). -/
def EvcCore.holdOff (g now : Nat) (e : EvcCore) : EvcCore :=
  let n := Tbl.get (0 : BitVec 4) e.holdoff g
  if n = 0 then e
  else { e with hoRun := e.hoRun ||| BitVec.ofNat 16 (2 ^ g), hoFrom := Tbl.set 0 e.hoFrom g now, hoLen := Tbl.set (0 : BitVec 4) e.hoLen g n }
/-- One delivery: the message, the interrupt line, the hold-off; the group is no longer armed. -/
def State.deliver (s : State) (g : Nat) : State :=
  let d := s.dev
  if !d.delivers g then s
  else
    let e := d.evc.core
    let b : BitVec 16 := BitVec.ofNat 16 (2 ^ g)
    let c := EvcCore.holdOff g d.now { e with armed := e.armed &&& ~~~ b }
    let v := { d.evc with core := c }
    let v := if d.cpTakes g then
        { v with cpInts := v.cpInts + 1, cpLine := v.cpLine ||| BitVec.ofNat 4 (2 ^ (Tbl.get (0 : BitVec 2) e.cp g).toNat) } else v
    let v := if d.msiTakes g then { v with sent := v.sent + 1 } else v
    let s' := { s with dev := { d with evc := v } }
    if d.msiTakes g then s'.msix 0 (Tbl.get (0 : BitVec 6) e.vector g).toNat else s'
/-- Every group that can deliver does, in ascending order. -/
def State.deliverAll (s : State) : State := (List.range 16).foldl State.deliver s

def execGroupDelivery (g : BitVec 4) (s : State) : Host.Outcome State Fault Refusal := .next (s.deliver g.toNat)

/-- DEV_TIME at which a group's hold-off timer ends: HOLDOFF n is 2^(n - 1) µs (R401). -/
def EvcCore.hoEnd (e : EvcCore) (g : Nat) : Nat := Tbl.get 0 e.hoFrom g + 1000 * 2 ^ ((Tbl.get (0 : BitVec 4) e.hoLen g).toNat - 1)
/-- The timer of a group runs and has run its time; in NAP and DEEP none runs (R405, R406). -/
def Dev.hoOver (d : Dev) (g : Nat) : Bool :=
  d.evc.retained.isNone && d.evc.core.hoRun.getLsbD g && decide (d.evc.core.hoEnd g ≤ d.now)
/-- A hold-off timer ends, once its time is over. -/
def doGroupHoldoffExpiry (g : BitVec 4) (d : Dev) : Dev :=
  if d.hoOver g.toNat then
    { d with evc := { d.evc with core := { d.evc.core with hoRun := d.evc.core.hoRun &&& ~~~ (BitVec.ofNat 16 (2 ^ g.toNat)) } } }
  else d

def execGroupHoldoffExpiry (g : BitVec 4) (s : State) : Host.Outcome State Fault Refusal := s.onDev (doGroupHoldoffExpiry g)

/-- MSI-X Enable and Function Mask of a function: pending messages leave, and armed groups of the PF deliver (R402). -/
def State.msixCtl (s : State) (f : Func) (enable mask : Bool) : State :=
  let h := s.dev.hif
  let s := { s with dev := { s.dev with hif := { h with
    msixEn := Tbl.set false h.msixEn f.val enable, msixMask := Tbl.set false h.msixMask f.val mask } } }
  let s := s.msixFlush
  if f.val = 0 then s.deliverAll else s

def execMsixEnableWrite (f : Func) (enable mask : Bool) (s : State) : Host.Outcome State Fault Refusal := .next (s.msixCtl f enable mask)

end Sys2Proof.Machine
end

