-- ==== Sys2Proof/Machine/Flash.lean ====
section
/-! DEFINITION. The Cellar: channel queues, dies, journal, blocks, lost granules and channel retirement (spec/09 R223 to R237, R246). -/

namespace Sys2Proof.Machine

/-! Channel queues and dies (R226, R227, R236, R237). -/

def Dev.die (d : Dev) (ch die : Nat) : DieSt := Tbl.get DieSt.reset d.cellar.die (ch * 8 + die)
def Dev.setDie (d : Dev) (ch die : Nat) (v : DieSt) : Dev :=
  { d with cellar := { d.cellar with die := Tbl.set DieSt.reset d.cellar.die (ch * 8 + die) v } }
def Dev.flcQueue (d : Dev) (ch : Nat) : List DieOp := Tbl.get [] d.cellar.queue ch
def Dev.setFlcQueue (d : Dev) (ch : Nat) (q : List DieOp) : Dev :=
  { d with cellar := { d.cellar with queue := Tbl.set [] d.cellar.queue ch q } }
def Dev.journal (d : Dev) (ch : Nat) : List JEnt := Tbl.get [] d.cellar.journal ch
/-- A journal record committed in journal block `jb` (R233). -/
def Dev.journalPut (d : Dev) (ch jb : Nat) (r : JRec) : Dev :=
  { d with cellar := { d.cellar with journal := Tbl.set [] d.cellar.journal ch (d.journal ch ++ [⟨r, jb⟩]) } }
/-- The last journal record of a block. -/
def Dev.journalLast (d : Dev) (ch b : Nat) : Option JRec := (((d.journal ch).map (·.jr)).filter fun r => r.block.toNat == b).getLast?
/-- The next sequence number of a channel's journal. -/
def Dev.journalSeq (d : Dev) (ch : Nat) : Nat := (d.journal ch).foldl (fun m r => max m r.jr.seqNo.toNat) 0 + 1
/-- A record of block `b` with the next sequence number, in a code word of its own of the channel's journal ring (R221, R233). -/
def Dev.journalNext (d : Dev) (ch b : Nat) (start : Bool) : Dev :=
  let r : JRec := ⟨start, BitVec.ofNat 16 b, BitVec.ofNat 32 (d.blk ch b).erases, BitVec.ofNat 64 (d.journalSeq ch)⟩
  let m := d.metaRoom ch 0 4 1 (((d.journal ch).getLast?.map (·.blk)).getD 0)
  let bs := (List.range 64).map (Config.journalByte start ch b r.eraseCount.toNat r.seqNo.toNat)
  (m.2.metaProg ch m.1 1 bs).journalPut ch m.1 r
/-- Data bytes a block has programmed. -/
def Blk.bytes (b : Blk) : Nat := b.wp * 16384
/-- What a block holds becomes undefined: an unfinished program harms the code words before it too (R232). -/
def Dev.undefBlk (d : Dev) (ch b n : Nat) : Dev :=
  let p := d.freeBytes n
  { p.2 with cellar := { p.2.cellar with mem := Memory.writeN p.2.cellar.mem (cwKey ch b 0) p.1 } }

/-- Reads go ahead of programs and erases (R237). -/
def FlcOp.isRead : FlcOp → Bool
  | .readG | .readCal | .readCw | .readId => true
  | .progG | .erase | .progCw | .dieReset => false
/-- Programs. -/
def FlcOp.isProg : FlcOp → Bool
  | .progG | .progCw => true
  | .readG | .readCal | .readCw | .readId | .erase | .dieReset => false
/-- The die of an operation. -/
def DieOp.die (o : DieOp) : Nat := o.desc.block.toNat % 8
def DieOp.blk (o : DieOp) : Nat := o.desc.block.toNat
def DieOp.cw (o : DieOp) : Nat := o.desc.cw.toNat
/-- Code words an operation covers. -/
def DieOp.cws (o : DieOp) : Nat := if o.op = .readG ∨ (o.op = .progG ∧ o.reg = false) then 4 else 1
/-- The next operation of a die's queue: the oldest read, a register command's last (R240), else the oldest other operation, a program giving way to one of the same block
at a lower code word. -/
def pickOp (q : List DieOp) (die : Nat) (readsOnly : Bool) : Option DieOp :=
  let q := q.filter fun o => o.die == die
  match q.find? fun o => o.op.isRead && !o.reg, q.find? fun o => o.op.isRead with
  | some o, _ => some o
  | none, some o => some o
  | none, none =>
    if readsOnly then none
    else match q.head? with
      | none => none
      | some o =>
        if o.op.isProg then
          (q.filter fun p => p.op.isProg && p.blk == o.blk).foldl (fun best p => match best with
            | none => some p
            | some r => if p.cw < r.cw then some p else some r) none
        else some o
/-- A program may go to this code word of a block: the codes of R237 and R242, 0 where it may. -/
def progCode (k : Blk) (cw : Nat) : Nat := if cw < k.wp then 5 else if k.wp < cw then 6 else 0
/-- A data block that may be programmed (R224). -/
def Blk.mayProg (k : Blk) : Bool := k.st == .test || (k.st == .allocated && !k.committed)
/-- A descriptor field has a bit where R236 has zero: FLAGS above bit 1, FLAGS bit 0 of a data block, REF of no ERASE. -/
def DieOp.stray (o : DieOp) : Bool :=
  decide (o.desc.flags.toNat / 4 ≠ 0) || (bitN o.desc.flags.toNat 0 && dataBlk o.blk) || (o.op != .erase && o.desc.ref != 0)
/-- The result of an operation that does not start; 0 where it starts (R236, R237, R242). A bit that must be zero gives FLC_BAD_ADDR (log entry 106). -/
def Dev.flcCheck (d : Dev) (ch : Nat) (o : DieOp) : Nat :=
  let k := d.blk ch o.blk
  if !d.cellar.chmap.getLsbD ch || decide (5472 ≤ o.blk) || decide (3072 ≤ o.cw) || o.stray then 3
  else if o.cws = 4 ∧ o.cw % 4 ≠ 0 then 3
  else match o.op with
    | .readG | .readCal | .readCw | .readId | .dieReset => 0
    | .progG => if !k.mayProg || !dataBlk o.blk then 4 else progCode k o.cw
    | .progCw => if dataBlk o.blk then 4 else progCode k o.cw
    | .erase =>
      match d.journalLast ch o.blk with
      | some r => if r.start && (o.reg || decide (r.seqNo = o.desc.ref)) then 0 else 4
      | none => 4
/-- The completion of an operation (R236), or the result of a register command (R241). -/
def Dev.flcEnd (d : Dev) (ch : Nat) (o : DieOp) (code : Nat) (r : FlashOutcome) : Dev :=
  let d := if code = 5 ∨ code = 6 then d.setEvt .flcEvt 0x20 else d
  if o.reg then
    { d with cellar := { d.cellar with busy := false, result := BitVec.ofNat 8 code,
                                       rlvl := if o.op.isRead then r.rlvl else d.cellar.rlvl,
                                       cbits := if o.op.isRead then r.cbits else d.cellar.cbits } }
  else
    let c : FlcDone := ⟨o.desc.qtag, BitVec.ofNat 8 code, r.cbits, r.rlvl, r.loops⟩
    { d with cellar := { d.cellar with done := Tbl.set [] d.cellar.done ch (Tbl.get [] d.cellar.done ch ++ [c]) } }
/-- No correction, no retry. -/
def FlashOutcome.none : FlashOutcome := ⟨0, 0, 0, false⟩
/-- A DIE_RESET: what runs on the die is aborted; an unfinished program of a data block leaves the block undefined. -/
def Dev.flcAbort (d : Dev) (ch die : Nat) : Dev :=
  let s := d.die ch die
  let ops := s.run.toList ++ s.susp.toList
  let d := d.setDie ch die DieSt.reset
  ops.foldl (fun d o =>
    let d := if o.op = .progG then d.undefBlk ch o.blk ((d.blk ch o.blk).bytes + o.cws * 16384) else d
    if o.reg then { d with cellar := { d.cellar with busy := false } } else d) d
/-- A block found INTERRUPTED at boot still waits for its erase. -/
def Dev.interrupted (d : Dev) : Bool := d.countBlks (fun b => b.st == .interrupted) != 0
/-- An ERASE of the register interface waits while a block is INTERRUPTED (R233). -/
def Dev.eraseHeld (d : Dev) (o : DieOp) : Bool := o.op == .erase && o.reg && d.interrupted
/-- An idle die takes its next operation; operations that cannot start complete at once. A suspended operation resumes when 8 reads have
been served or none is left (R227). At most `fuel` operations are looked at. -/
def Dev.flcPump (ch die : Nat) : Nat → Dev → Dev
  | 0, d => d
  | fuel + 1, d =>
    let s := d.die ch die
    if s.run.isSome then d
    else
      let o := if s.susp.isSome ∧ 8 ≤ s.served then Option.none else pickOp ((d.flcQueue ch).filter fun o => !d.eraseHeld o) die s.susp.isSome
      match o, s.susp with
      | Option.none, some p => d.setDie ch die ⟨some { p with since := d.now }, Option.none, 0⟩
      | Option.none, Option.none => d
      | some o, _ =>
        let d := d.setFlcQueue ch ((d.flcQueue ch).erase o)
        let code := d.flcCheck ch o
        if code ≠ 0 then Dev.flcPump ch die fuel (d.flcEnd ch o code FlashOutcome.none)
        else if o.op = .dieReset then Dev.flcPump ch die fuel ((d.flcAbort ch die).flcEnd ch o 0 FlashOutcome.none)
        else d.setDie ch die { s with run := some { o with since := d.now } }
/-- A descriptor put on a channel's queue of 64 entries; a full queue takes none. -/
def Dev.flcPut (d : Dev) (ch : Nat) (o : DieOp) : Dev :=
  if 64 ≤ (d.flcQueue ch).length then d
  else Dev.flcPump ch o.die 65 (d.setFlcQueue ch (d.flcQueue ch ++ [o]))
def doReadG (ch : ChanNo) (f : FlcDesc) (d : Dev) : Dev := d.flcPut ch.toNat ⟨.readG, f, none, false, 0⟩
def execReadG (ch : ChanNo) (d : FlcDesc) (s : State) : Host.Outcome State Fault Refusal := s.onDev (doReadG ch d)
def doProgG (ch : ChanNo) (f : FlcDesc) (d : Dev) : Dev := d.flcPut ch.toNat ⟨.progG, f, none, false, 0⟩
def execProgG (ch : ChanNo) (d : FlcDesc) (s : State) : Host.Outcome State Fault Refusal := s.onDev (doProgG ch d)
def doEraseBlk (ch : ChanNo) (f : FlcDesc) (d : Dev) : Dev := d.flcPut ch.toNat ⟨.erase, f, none, false, 0⟩
def execEraseBlk (ch : ChanNo) (d : FlcDesc) (s : State) : Host.Outcome State Fault Refusal := s.onDev (doEraseBlk ch d)
def doReadCal (ch : ChanNo) (f : FlcDesc) (d : Dev) : Dev := d.flcPut ch.toNat ⟨.readCal, f, none, false, 0⟩
def execReadCal (ch : ChanNo) (d : FlcDesc) (s : State) : Host.Outcome State Fault Refusal := s.onDev (doReadCal ch d)
def doReadCw (ch : ChanNo) (f : FlcDesc) (d : Dev) : Dev := d.flcPut ch.toNat ⟨.readCw, f, none, false, 0⟩
def execReadCw (ch : ChanNo) (d : FlcDesc) (s : State) : Host.Outcome State Fault Refusal := s.onDev (doReadCw ch d)
/-- The firmware commits no START of another block while a block is INTERRUPTED (R233). -/
def Dev.startHeld (d : Dev) (ch : Nat) (jr : Option JRec) : Bool :=
  match jr with
  | some j => j.start && d.interrupted && (d.blk ch j.block.toNat).st != .interrupted
  | none => false
def doProgCw (ch : ChanNo) (f : FlcDesc) (jr : Option JRec) (d : Dev) : Dev :=
  if d.startHeld ch.toNat jr then d else d.flcPut ch.toNat ⟨.progCw, f, jr, false, 0⟩
def execProgCw (ch : ChanNo) (d : FlcDesc) (rec : Option JRec) (s : State) : Host.Outcome State Fault Refusal := s.onDev (doProgCw ch d rec)
def doDieReset (ch : ChanNo) (f : FlcDesc) (d : Dev) : Dev :=
  if 64 ≤ (d.flcQueue ch.toNat).length then d
  else
    let o : DieOp := ⟨.dieReset, f, none, false, 0⟩
    let code := d.flcCheck ch.toNat o
    let d := if code = 0 then d.flcAbort ch.toNat o.die else d
    Dev.flcPump ch.toNat o.die 65 (d.flcEnd ch.toNat o code FlashOutcome.none)
def execDieReset (ch : ChanNo) (d : FlcDesc) (s : State) : Host.Outcome State Fault Refusal := s.onDev (doDieReset ch d)

/-! What an operation does when it finishes. -/

/-- The granule stored at a place, with its entry: a committed entry's, or that of a seal under way. -/
def Dev.granAt (d : Dev) (ch b slot : Nat) : Option (CatE × Nat) :=
  let es := (d.cellar.cat.map (·.2)) ++ d.cellar.changes.filterMap fun c => match c with
    | .seal _ _ _ pr e => if pr then some e else none
    | .delete _ => none
  es.findSome? fun e => if e.used then (e.places.find? fun p => p.2.ch == ch && p.2.blk == b && p.2.slot == slot).map fun p => (e, p.1) else none
/-- The key a code word of a block is stored under: of the granule there, or of the one that has left (R444, R446); the outer none where it holds
no granule, the inner where its key is destroyed. -/
def Dev.cwKeyNo (d : Dev) (ch b cw : Nat) : Option (Option Nat) :=
  match d.granAt ch b (cw / 4) with
  | some x => some (d.granKey x.1 x.2)
  | none => (lookupKey (cw / 4) (Tbl.get [] d.cellar.old (ch * 5472 + b))).map some
/-- User data of a code word exactly as stored (R240, R444): ciphertext of an object's granule, open where its key is destroyed, the bytes themselves
of any other code word; 0xFF at and above the write pointer. -/
def Dev.cwRaw (d : Dev) (ch b cw : Nat) : List Byte × Dev :=
  let bs := Memory.readN d.cellar.mem (cwKey ch b cw) 16384
  if (d.blk ch b).wp ≤ cw then (List.replicate 16384 0xFF, d)
  else match d.cwKeyNo ch b cw with
    | none => (bs, d)
    | some none => d.freeBytes 16384
    | some (some key) =>
      ((List.range 16384).map fun i =>
        Config.xtsByte key (3 * 2 ^ 120 + (cwKey ch b cw + i) / 64) (i % 64) (bs.getD i 0), d)
/-- User data of `n` code words as the controller decrypts it for the tier engine. -/
def Dev.cwData (d : Dev) (ch b cw n : Nat) : List Byte × Dev :=
  if (d.blk ch b).st = .interrupted then d.freeBytes (n * 16384)
  else if (d.blk ch b).wp ≤ cw then (List.replicate (n * 16384) 0xFF, d)
  else (Memory.readN d.cellar.mem (cwKey ch b cw) (n * 16384), d)
/-- A block leaves service for good (R231): T3 capacity falls. -/
def Dev.markRetired (d : Dev) (ch b : Nat) : Dev :=
  (d.setBlk ch b { d.blk ch b with st := .retired, entry := 0, committed := false, verified := false }).setEvt .flcEvt 4
/-- Bytes into a controller buffer. -/
def Dev.flcBuf (d : Dev) (a : Nat) (bs : List Byte) : Dev :=
  { d with cellar := { d.cellar with buf := Memory.writeN d.cellar.buf a bs } }
/-- Bytes into FLC_DATA. -/
def Dev.flcData (d : Dev) (bs : List Byte) : Dev :=
  { d with cellar := { d.cellar with data := Memory.writeN d.cellar.data 0 bs } }
/-- A block worn, or no longer (R230). -/
def Dev.markWorn (d : Dev) (ch b : Nat) (v : Bool) : Dev :=
  { d with cellar := { d.cellar with worn := Tbl.set false d.cellar.worn (ch * 5472 + b) v } }
/-- What a read counts: senses at read-retry levels, corrections in place, and the failed accesses of one that fails after every retry
(R229, R243, R479); how many of its code words were corrected is open. -/
def Dev.flcTally (d : Dev) (o : DieOp) (r : FlashOutcome) : Dev :=
  let d := if o.op = .readG then d.addCnt (flcReg 0x20) 1 else d
  if r.fail then
    let n := d.retryLimit + 1
    (d.addCnt (flcReg 0x38) (7 * n)).count (pwrReg 0x30) (0x7000 * 256 + 2) n
  else
    let d := d.addCnt (flcReg 0x38) (min 7 r.rlvl.toNat)
    if r.cbits = 0 ∧ r.rlvl = 0 then d
    else
      let p := d.freeNat
      p.2.count (pwrReg 0x28) (0x7000 * 256 + 1) (1 + p.1 % o.cws)
/-- A finished read. -/
def Dev.flcRead (d : Dev) (ch : Nat) (o : DieOp) (r : FlashOutcome) : Dev :=
  let k := d.blk ch o.blk
  let d := d.flcTally o r
  let d := { d with cellar := { d.cellar with chBits := Tbl.set 0 d.cellar.chBits ch (max (Tbl.get 0 d.cellar.chBits ch) r.cbits.toNat) } }
  let d := if k.st = .allocated ∧ k.committed = true ∧ k.entry ≠ 0 ∧ (d.cellar.weak < r.cbits.toNat ∨ 4 ≤ r.rlvl.toNat) then d.markWorn ch o.blk true else d
  if o.op = .readId then (d.flcData ((List.range 64).map (Config.dieIdentity (ch * 8 + o.die)))).flcEnd ch o 0 r
  else if o.op = .readCal then
    let bs := (List.range 4096).map (Config.calibration (ch * 8 + o.die))
    (if o.reg then d.flcData bs else d.flcBuf o.desc.buf.toNat bs).flcEnd ch o 0 r
  else if r.fail then d.flcEnd ch o 7 r
  else
    let p := if o.reg then (if k.st = .interrupted then d.freeBytes 16384 else d.cwRaw ch o.blk o.cw) else d.cwData ch o.blk o.cw o.cws
    let d := if o.reg then p.2.flcData p.1 else p.2.flcBuf o.desc.buf.toNat p.1
    let code := if k.st = .interrupted then 8 else if o.op = .readG ∧ k.wp < o.cw + 4 then 0x0D else 0
    d.flcEnd ch o code r
/-- A finished program (R224, R231, R233). -/
def Dev.flcProg (d : Dev) (ch : Nat) (o : DieOp) (r : FlashOutcome) : Dev :=
  let k := d.blk ch o.blk
  let d := d.addTot (0x3001 * 256 + 6) (r.loops.toNat - Config.nominalLoops (ch * 8 + o.die))
  if r.fail then
    let d := d.setBlk ch o.blk { k with fails := 3 }
    let d := if k.st = .test then d.markRetired ch o.blk else d
    d.flcEnd ch o 9 r
  else
    let bs := if o.reg then Memory.readN d.cellar.data 0 16384 else Memory.readN d.cellar.buf o.desc.buf.toNat (o.cws * 16384)
    let d := { d with cellar := { d.cellar with mem := Memory.writeN d.cellar.mem (cwKey ch o.blk o.cw) bs } }
    let d := (d.setBlk ch o.blk { k with wp := o.cw + o.cws }).addCnt (flcReg 0x28) 1
    let d := match o.jrec with
      | none => d
      | some j =>
        let d := d.journalPut ch o.blk j
        let b := d.blk ch j.block.toNat
        if j.start && (b.st == BlkState.erasePending || b.st == BlkState.interrupted) then d.setBlk ch j.block.toNat { b with st := .erasing } else d
    d.flcEnd ch o 0 r
/-- A finished erase: verified, to be tried again, or failed for the third time (R223, R231, R233, R240). -/
def Dev.flcErased (d : Dev) (ch die : Nat) (o : DieOp) (r : FlashOutcome) : Dev :=
  let k := d.blk ch o.blk
  if r.fail then
    if k.fails < 2 then (d.setBlk ch o.blk { k with fails := k.fails + 1 }).setDie ch die { d.die ch die with run := some { o with since := d.now } }
    else
      let d := d.setBlk ch o.blk { k with fails := 3 }
      (if k.st = .test then d.markRetired ch o.blk else d).flcEnd ch o 0x0A r
  else
    let d := { d with cellar := { d.cellar with mem := Memory.clear d.cellar.mem (cwKey ch o.blk 0) blkBytes
                                                old := Tbl.del (ch * 5472 + o.blk) d.cellar.old } }
    if !dataBlk o.blk then ((d.metaErased ch o.blk).addCnt (flcReg 0x30) 1).flcEnd ch o 0 r
    else if k.st = .test then
      let d := (d.journalNext ch o.blk false).addCnt (flcReg 0x30) 1
      (d.setBlk ch o.blk { k with wp := 0, erases := k.erases + 1, fails := 0 }).flcEnd ch o 0 r
    else (d.setBlk ch o.blk { k with wp := 0, fails := 0, verified := decide (k.st = .erasing) }).flcEnd ch o 0 r
/-- What runs on a die finishes with an outcome, and the die goes on. -/
def doCellarOpComplete (ch : ChanNo) (die : DieNo) (r : FlashOutcome) (d : Dev) : Dev :=
  let s := d.die ch.toNat die.toNat
  match s.run with
  | none => d
  | some o =>
    let d := d.setDie ch.toNat die.toNat { s with run := none, served := if s.susp.isSome then s.served + 1 else 0 }
    let d := match o.op with
      | .readG | .readCal | .readCw | .readId => d.flcRead ch.toNat o r
      | .progG | .progCw => d.flcProg ch.toNat o r
      | .erase => d.flcErased ch.toNat die.toNat o r
      | .dieReset => d
    Dev.flcPump ch.toNat die.toNat 65 d
def execCellarOpComplete (ch : ChanNo) (die : DieNo) (r : FlashOutcome) (s : State) : Host.Outcome State Fault Refusal :=
  s.onDev (doCellarOpComplete ch die r)
/-- A program or erase of a data block that has run its minimum time gives way to reads queued on its die (R227). -/
def doSuspend (ch : ChanNo) (die : DieNo) (d : Dev) : Dev :=
  let s := d.die ch.toNat die.toNat
  match s.run with
  | none => d
  | some o =>
    let least := if o.op = .progG then 200000 else 1000000
    if (o.op = .progG ∨ o.op = .erase) ∧ dataBlk o.blk ∧ s.susp.isNone ∧ !bitN o.desc.flags.toNat 1 ∧ o.since + least ≤ d.now ∧
       (pickOp (d.flcQueue ch.toNat) die.toNat true).isSome
    then Dev.flcPump ch.toNat die.toNat 65 ((d.setDie ch.toNat die.toNat ⟨none, some o, 0⟩).addCnt (flcReg 0x40) 1)
    else d
def execSuspend (ch : ChanNo) (die : DieNo) (s : State) : Host.Outcome State Fault Refusal := s.onDev (doSuspend ch die)
/-- A waiting ERASE of the register interface starts on its idle die once no block is INTERRUPTED (R233). -/
def Dev.eraseGo (d : Dev) : Dev :=
  if d.interrupted then d
  else match d.cellar.queue.findSome? fun e => (e.2.find? fun o => o.op == .erase && o.reg).map fun o => (e.1, o) with
    | some (ch, o) =>
      if (d.die ch o.die).run.isSome || (d.die ch o.die).susp.isSome || (pickOp (d.flcQueue ch) o.die false != some o) then d
      else
        let d := d.setFlcQueue ch ((d.flcQueue ch).erase o)
        let code := d.flcCheck ch o
        if code ≠ 0 then d.flcEnd ch o code FlashOutcome.none
        else d.setDie ch o.die { d.die ch o.die with run := some { o with since := d.now } }
    | none => d
/-- The DONE record of a verified erase is committed, and the block becomes FREE, or ALLOCATED where a seal waits for it (R224, R233). -/
def doEraseDone (ch : ChanNo) (b : BlockNo) (d : Dev) : Dev :=
  let k := d.blk ch.toNat b.toNat
  if k.st = .erasing ∧ k.verified then
    let d := match d.journalLast ch.toNat b.toNat with
      | some r => if r.start then d.journalNext ch.toNat b.toNat false else d
      | none => d.journalNext ch.toNat b.toNat false
    Dev.eraseGo ((d.setBlk ch.toNat b.toNat { Blk.reset with st := if k.entry = 0 then .free else .allocated, entry := k.entry, erases := k.erases + 1 }).addCnt
      (flcReg 0x30) 1)
  else d
def execEraseDone (ch : ChanNo) (b : BlockNo) (s : State) : Host.Outcome State Fault Refusal := s.onDev (doEraseDone ch b)

/-! Lost granules, relocation and retirement (R229 to R231, R235; spec/08 R212, R213). -/

/-- A granule of an object is damaged: it holds no copy (R212). -/
def Dev.damage (d : Dev) (o : ObjNo) (g : Nat) : Dev :=
  (d.setGran o g { (((d.gran o g).drop .t1).drop .t2) with damaged := true }).setEvt .tierEvt 8
/-- Objects over a catalogue entry. -/
def Dev.objsOver (d : Dev) (n : Nat) : List ObjNo :=
  (d.tier.obj.filter fun e => e.2.st != .free && e.2.eff == .sealed && e.2.cat.toNat == n).map fun e => BitVec.ofNat 16 e.1
/-- The best FREE block of a channel, not above a number of erases. -/
def Dev.freeBlk (d : Dev) (c lim : Nat) : Option Nat := d.bestBlk c fun b => (d.blk c b).st == .free && decide ((d.blk c b).erases ≤ lim)
/-- A number of erases no block exceeds: the highest of all. -/
def Dev.anyErases (d : Dev) : Nat := d.cellar.blk.foldl (fun m e => max m e.2.erases) 0
/-- The first of some channels that has a FREE block, with its best FREE block; one above 3,000 erase cycles only where none below is left (R230). -/
def Dev.freeOn (d : Dev) (cs : List Nat) (lim : Nat) : Option (Nat × Nat) := cs.findSome? fun c => (d.freeBlk c lim).map fun b => (c, b)
/-- The FREE block of a channel in service other than `ch`. -/
def Dev.otherFree (d : Dev) (ch : Nat) : Option (Nat × Nat) :=
  let cs := d.chans.filter (· ≠ ch)
  (d.freeOn cs 3000).or (d.freeOn cs d.anyErases)
/-- Granule `g` of entry `n` is lost in T3: re-homed from a T1 or T2 copy into a FREE block of another channel, or marked damaged with its
entry degraded (R229). -/
def Dev.loseGran (d : Dev) (n g : Nat) : Dev :=
  let e := d.cat n
  let p := Tbl.get Place.none e.places g
  let d := (d.count (flcReg 0x48) (0x3001 * 256 + 8) 1).setEvt .flcEvt 0x10
  let src := (d.objsOver n).find? fun o => (d.gran o g).t1.isSome || (d.gran o g).t2.isSome
  match src, d.otherFree p.ch with
  | some o, some (c, b) =>
    let q : Place := ⟨c, b, 0⟩
    let d := { d with cellar := { d.cellar with mem := Memory.writeN d.cellar.mem (placeKey q 0) (d.granRead o g 0 granSize) } }
    let d := d.setBlk c b { d.blk c b with st := .allocated, entry := BitVec.ofNat 12 n, committed := true, wp := 4 }
    ((d.setCat n { e with places := Tbl.put g q e.places, blocks := e.blocks + 1 }).addCnt (flcReg 0x28) 1).progLoops
  | _, _ =>
    let d := (d.noteKeys e (e.places.filter fun x => x.1 == g)).setCat n { e with places := Tbl.del g e.places, degraded := true }
    let d := if e.degraded then d else d.catChange
    (d.objsOver n).foldl (fun d o => d.damage o g) d
def doGranuleLost (entry : BitVec 12) (g : GranNo) (d : Dev) : Dev :=
  let e := d.cat entry.toNat
  if e.used ∧ Tbl.get Place.none e.places g.toNat ≠ Place.none then d.loseGran entry.toNat g.toNat else d
def execGranuleLost (entry : BitVec 12) (g : GranNo) (s : State) : Host.Outcome State Fault Refusal := s.onDev (doGranuleLost entry g)

/-- Places of one block moved to another. -/
def movePlaces (ch b c a : Nat) (ps : Tbl Place) : Tbl Place :=
  ps.map fun p => if p.2.ch = ch ∧ p.2.blk = b then (p.1, ⟨c, a, p.2.slot⟩) else p
/-- The data of block `b` of channel `ch` copied to FREE block `a` of channel `c`, and the new place committed (R230). -/
def Dev.copyBlk (d : Dev) (ch b c a : Nat) : Dev :=
  let k := d.blk ch b
  let n := k.entry.toNat
  let e := d.cat n
  let mem := Memory.writeN d.cellar.mem (cwKey c a 0) (Memory.readN d.cellar.mem (cwKey ch b 0) k.bytes)
  let d := { d with cellar := { d.cellar with
    mem := mem
    changes := d.cellar.changes.map fun (x : CatChange) => match x with
      | .seal t o m pr f => CatChange.seal t o m pr { f with places := movePlaces ch b c a f.places }
      | .delete m => CatChange.delete m } }
  let d := if e.used then (d.noteKeys e (e.places.filter fun p => p.2.ch == ch && p.2.blk == b)).setCat n { e with places := movePlaces ch b c a e.places }
    else d
  (((d.setBlk c a { d.blk c a with st := .allocated, entry := k.entry, committed := k.committed, wp := k.wp }).addCnt (flcReg 0x28) (k.wp / 4)).addCnt
    (flcReg 0x20) (k.wp / 4)).progLoops
/-- Where a block's granules go: a FREE block of the same channel, otherwise of any channel; of another one while the channel is being
evacuated (R230, R235). -/
def Dev.relocTo (d : Dev) (ch : Nat) : Option (Nat × Nat) :=
  if d.cellar.retiring.toNat = ch then d.otherFree ch
  else
    let cs := ch :: d.chans.filter (· ≠ ch)
    (d.freeOn cs 3000).or (d.freeOn cs d.anyErases)
/-- A worn block, or a block of a channel being evacuated, is relocated; with no FREE block anywhere it stays, and WEAK is set of a worn one. Each move
of an evacuation is committed to the catalogue, too (R235). -/
def doBlockRelocate (ch : ChanNo) (b : BlockNo) (d : Dev) : Dev :=
  let k := d.blk ch.toNat b.toNat
  let worn := Tbl.get false d.cellar.worn (ch.toNat * 5472 + b.toNat)
  let out := d.cellar.retiring.toNat == ch.toNat
  if k.st ≠ .allocated ∨ !k.committed ∨ !dataBlk b.toNat ∨ !(worn || out) then d
  else match d.relocTo ch.toNat with
    | none => if worn then d.setEvt .flcEvt 2 else d
    | some (c, a) =>
      let d := ((d.copyBlk ch.toNat b.toNat c a).addTot (0x3001 * 256 + 7) 1).markWorn ch.toNat b.toNat false
      let d := d.setBlk ch.toNat b.toNat { k with st := .erasePending, entry := 0, committed := false }
      if out then d.catChange else d
def execBlockRelocate (ch : ChanNo) (b : BlockNo) (s : State) : Host.Outcome State Fault Refusal := s.onDev (doBlockRelocate ch b)

/-- Partitions in the order in which floors are lowered: lowest class first, highest number first within a class (R213). -/
def Dev.floorOrder (d : Dev) : List Nat :=
  (sortCands ((List.range 8).map fun p => ⟨Tbl.get 0 d.srv.cls p * 8 + (7 - p), 0, p⟩)).map (·.g)
/-- Floors of a tier lowered until they fit its capacity (R213). -/
def Dev.lowerFloors (d : Dev) (t : Tier) : Dev :=
  d.floorOrder.foldl (fun d p =>
    let excess := d.floorSum t - d.capacity t
    d.setFloor t p (d.floor t p - excess)) d
/-- The record of a partition as R445 keeps it. -/
def Dev.partRec (d : Dev) (p : PartNo) : PartRec :=
  let q := d.part p
  { zero := q.zero, epoch := q.epoch, vintCur := q.vintCur, vintOld := q.vintOld, live2 := q.live2, keyCur := q.keyCur, keyOld := q.keyOld,
    floor1 := d.floor .t1 p.toNat, floor2 := d.floor .t2 p.toNat, floor3 := d.floor .t3 p.toNat, cls := Tbl.get 0 d.srv.cls p.toNat,
    removing := q.st == .retiring || q.st == .scrubbing }
/-- The record of a non-confidential partition written; an ABSENT one, and a confidential one, has none (R445, R451). -/
def State.recordPart (s : State) (p : PartNo) : State :=
  let q := s.dev.part p
  let v := if q.conf || q.st == .absent || q.st == .scrubbing then none else some (s.dev.partRec p)
  { s with nv := { s.nv with part := Tbl.set none s.nv.part p.toNat v } }
/-- Every recorded partition's floors brought up to date (R445). -/
def State.recordFloors (s : State) : State :=
  (List.range 8).foldl (fun s n => if (Tbl.get none s.nv.part n).isSome then s.recordPart (BitVec.ofNat 3 n) else s) s
/-- Seals under way with a granule on a block. -/
def Dev.sealsAt (d : Dev) (ch b : Nat) : List Tag :=
  d.cellar.changes.filterMap fun c => match c with
    | .seal t _ _ _ e => if e.places.any fun p => p.2.ch == ch && p.2.blk == b then some t else none
    | .delete _ => none
/-- A block of which a queued operation has failed (R231), or one that a seal, a relocation or a re-homing programs or is to program: that a program
of it fails, the row alone says (log entry 106). -/
def Blk.mayFail (k : Blk) : Bool := decide (3 ≤ k.fails) || k.st == .free || (k.st == .allocated && !k.committed)
/-- A block that failed a program verify or three erases is retired, its granules relocated first (R231); a seal whose granules find no FREE block
ends. -/
def doBlockRetire (ch : ChanNo) (b : BlockNo) (d : Dev) : Dev :=
  let k := d.blk ch.toNat b.toNat
  if !k.mayFail ∨ k.st = .retired ∨ !dataBlk b.toNat then d
  else
    let d := if k.st ≠ .allocated then d
      else match d.relocTo ch.toNat with
        | some (c, a) => (d.copyBlk ch.toNat b.toNat c a).addTot (0x3001 * 256 + 7) 1
        | none =>
          let d := (d.sealsAt ch.toNat b.toNat).foldl (fun d t => d.uncorrectable t 0x000D 0) d
          ((d.cat k.entry.toNat).places.filter fun p => p.2.ch == ch.toNat && p.2.blk == b.toNat).foldl
            (fun d p => d.loseGran k.entry.toNat p.1) d
    ((d.markRetired ch.toNat b.toNat).setEvt .tierEvt 0x10).lowerFloors .t3
/-- ALLOCATED data blocks of a channel. -/
def Dev.allocBlks (d : Dev) (ch : Nat) : Nat :=
  (d.cellar.blk.filter fun e => e.1 / 5472 == ch && dataBlk (e.1 % 5472) && e.2.st == .allocated).length
/-- A planned retirement of channel `ch` may start (R246). -/
def Dev.mayRetire (d : Dev) (ch : Nat) : Bool :=
  decide (ch < 64) && d.cellar.chmap.getLsbD ch && d.cellar.retiring == 0xFF && decide (1 < d.chans.length) &&
  decide (d.allocBlks ch ≤ sumNat ((d.chans.filter (· ≠ ch)).map d.freeBlks))
/-- PLANNED_RETIREMENT: the channel's blocks are evacuated by BLOCK_RELOCATE, then CHANNEL_RETIRE retires it. -/
def doPlannedRetirement (ch : BitVec 8) (d : Dev) : Dev :=
  if d.mayRetire ch.toNat then { d with cellar := { d.cellar with retiring := ch } } else d
def execPlannedRetirement (ch : BitVec 8) (s : State) : Host.Outcome State Fault Refusal := s.onDev (doPlannedRetirement ch)
/-- Granules of committed entries on a channel. -/
def Dev.onChannel (d : Dev) (ch : Nat) : List (Nat × Nat) :=
  d.cellar.cat.flatMap fun e => (e.2.places.filter fun p => e.2.used && p.2.ch == ch).map fun p => (e.1, p.1)
/-- Seals under way that use a channel. -/
def Dev.sealsOn (d : Dev) (ch : Nat) : List Tag :=
  d.cellar.changes.filterMap fun c => match c with
    | .seal t _ _ _ e => if e.places.any fun p => p.2.ch == ch then some t else none
    | .delete _ => none
/-- Every data block of a channel that has failed is RETIRED (R223, log entry 107). -/
def Dev.retireBlks (d : Dev) (ch : Nat) : Dev :=
  let blk := d.cellar.blk
  let mid := (upFrom (ch * 5472 + 11) 5461).map fun i =>
    (i, { Tbl.get Blk.reset blk i with st := BlkState.retired, entry := 0, committed := false, verified := false })
  let d := { d with cellar := { d.cellar with
    blk := (blk.filter fun (e : Nat × Blk) => e.1 < ch * 5472 + 11) ++ mid ++ blk.filter fun (e : Nat × Blk) => ch * 5472 + 5472 ≤ e.1 } }
  d.setEvt .flcEvt 4
/-- A channel leaves service: its granules are lost, seals on it fail, its operations end, capacity falls (R235). A planned retirement
waits until the channel holds no ALLOCATED block; one from any other cause is a failure, and the channel's data blocks are RETIRED. -/
def doChannelRetire (ch : ChanNo) (d : Dev) : Dev :=
  let c := ch.toNat
  if !d.cellar.chmap.getLsbD c || (d.cellar.retiring.toNat == c && d.allocBlks c != 0) then d
  else
    let planned := d.cellar.retiring.toNat == c
    let d := { d with cellar := { d.cellar with chmap := d.cellar.chmap &&& ~~~(BitVec.ofNat 64 (2 ^ c)),
                                                retiring := if d.cellar.retiring.toNat = c then 0xFF else d.cellar.retiring } }
    let d := (d.sealsOn c).foldl (fun d t => d.uncorrectable t 0x000D 0) d
    let d := (d.onChannel c).foldl (fun d e => d.loseGran e.1 e.2) d
    let d := if (d.flcQueue c).any (·.reg) then { d with cellar := { d.cellar with busy := false, result := 3 } } else d
    let d := (List.range 8).foldl (fun d die => d.flcAbort c die) (d.setFlcQueue c [])
    let d := if planned then d else d.retireBlks c
    ((d.setEvt .flcEvt 8).setEvt .tierEvt 0x10).lowerFloors .t3

/-- A catalogue entry may be deleted (R246). -/
def Dev.mayDelete (d : Dev) (n : Nat) : Bool :=
  decide (n < 4096) && (d.cat n).used && !d.attached n && d.odNat (0x3010 * 256 + 1) 1 != n &&
  !d.cellar.changes.contains (.delete (BitVec.ofNat 12 n))
/-- CATALOGUE_DELETE: the deletion waits for its commit. -/
def doCatalogueDelete (entry : W32) (d : Dev) : Dev :=
  if d.mayDelete entry.toNat then { d with cellar := { d.cellar with changes := d.cellar.changes ++ [.delete (BitVec.ofNat 12 entry.toNat)] } } else d
def execCatalogueDelete (entry : W32) (s : State) : Host.Outcome State Fault Refusal := s.onDev (doCatalogueDelete entry)

end Sys2Proof.Machine
end

