-- ==== Sys2Proof/Machine/Ports.lean ====
section
/-! DEFINITION. Elvor ports: training, link-level retry and the live lane retune (spec/12 R326 to R329, R360). -/

namespace Sys2Proof.Machine

/-! Entries to TRAIN and FAULT (R326, R329, R354). -/

/-- Another way to a member: its route entry names a port that is UP. -/
def Dev.reaches (d : Dev) (m : MemberNo) : Bool :=
  let r := d.routeTo m
  r.valid && (setBits r.ports.toNat 8).any fun n => (d.port (BitVec.ofNat 3 n)).st == .up
/-- The ports a transfer's packets take first (R339). -/
def Dev.putPorts (d : Dev) (x : SrcXfer) : Nat :=
  let w := lkPorts (d.tagE x.t).desc
  if w = 0 then (d.routeTo x.member).ports.toNat else w
/-- A source's transfer is gone: its slot use returns with its command. -/
def Dev.dropSrc (d : Dev) (t : Tag) : Dev := { d with links := { d.links with src := d.links.src.filter (·.t != t) } }
/-- A port FAULT meets a transfer that runs over it: no other way is LK_UNREACHABLE; an ADD is UNCORRECTABLE; a WRITE restarts from
block 0 as a transient retry, until its retries run out (R105, R354). -/
def Dev.putFault (d : Dev) (x : SrcXfer) : Dev :=
  let e := d.tagE x.t
  if !d.reaches x.member then (d.dropSrc x.t).fails x.t 0x80 0 0
  else if lkOp e.desc = 1 then d.uncorrectable x.t 0x000D 0
  else
    let d := d.count (pwrReg 0x30) (0x7000 * 256 + 2) 1
    if d.retryLimit ≤ e.retries.toNat then d.uncorrectable x.t 0x000D 0
    else
      let d := d.setTag x.t { e with retries := e.retries + 1 }
      { d with links := { d.links with src := d.links.src.map fun (y : SrcXfer) =>
          if y.t = x.t then { y with next := 0, coded := 0, busy := !y.opened } else y } }
/-- A port's stripe and retune as it leaves UP or comes back to it. -/
def Port.noRetune (q : Port) : Port :=
  { q with active := 0, retuning := none, retuneMine := false, rejoin := false, agreed := false, rejoinPt := none, asked := false, left := 0 }
/-- The group-protocol version (0x5000:0x07). -/
def groupVersion : BitVec 16 := 0x0001
/-- What this end's INIT carries: its serial, the port, one credit for each flit of each buffer, the group-protocol version (R326, R330, R331). -/
def ownInit (p : PortNo) : InitMsg :=
  ⟨Config.serial, p, BitVec.ofNat 11 (vcFlits 0), BitVec.ofNat 11 (vcFlits 1), BitVec.ofNat 11 (vcFlits 2), groupVersion⟩
/-- TRAIN entered, with INIT due, which grants the whole of each buffer. -/
def Dev.enterTrain (d : Dev) (p : PortNo) : Dev :=
  let q := (d.port p).noRetune
  d.setPort p { q with st := .train, ctrl := [.init (ownInit p)], owed := [], trains := (d.now :: q.trains).take 3 }
/-- A port enters FAULT: what its retry buffer holds is lost; packets that wait for it go another way where there is one. -/
def Dev.portFault (d : Dev) (p : PortNo) : Dev :=
  let q := d.port p
  let d := d.setPort p { q.noRetune with st := .fault, retry := [], out := [], rx := none, ctrl := [] }
  let d := d.setEvt (.elkEvt p) 0x20
  let d := q.out.foldl (fun d k => d.sendFrom 0 k.1 k.2) d
  (d.links.src.filter fun x => bitN (d.putPorts x) p.toNat).foldl Dev.putFault d
/-- Entries to TRAIN within the last 10 s. -/
def Dev.recentTrains (d : Dev) (p : PortNo) : Nat := ((d.port p).trains.filter fun t => decide (d.now < t + 10000000000)).length
/-- A port leaves UP: to TRAIN, keeping its retry buffer and what it has received, or to FAULT where that would be the third entry within 10 s. -/
def Dev.retrain (d : Dev) (p : PortNo) : Dev :=
  if 2 ≤ d.recentTrains p then d.portFault p
  else ((d.enterTrain p).count (elkReg p 0x30) (0x5002 * 256 + 4) 1).setEvt (.elkEvt p) 4

/-- A partner's signal in DETECT; a port with no lane left stays there until a reset. What a failed retrain left in the port is still there:
packets are lost only at FAULT (R329). -/
def doPartnerDetect (p : PortNo) (d : Dev) : Dev :=
  let q := d.port p
  if q.st = .detect ∧ q.retired ≠ 0xF then d.enterTrain p else d

def execPartnerDetect (p : PortNo) (s : State) : Host.Outcome State Fault Refusal := s.onDev (doPartnerDetect p)

/-- One more failed training or retune of a lane; the third in a row retires it (R326). -/
def Dev.laneFail (d : Dev) (p : PortNo) (l : LaneNo) : Dev :=
  let q := d.port p
  let n := Tbl.get 0 q.fails l.toNat + 1
  let d := d.setPort p { q with fails := Tbl.set 0 q.fails l.toNat n }
  if 3 ≤ n ∧ q.retired.getLsbD l.toNat = false then
    let q := d.port p
    let d := d.setPort p { q with retired := q.retired ||| laneBit l, active := q.active &&& ~~~ (laneBit l) }
    { d with pwr := { d.pwr with retiredUnits := d.pwr.retiredUnits + 1 } }.setEvt (.elkEvt p) 8
  else d
/-- Flits of the retry buffer sent again as they stand there; each counts as replayed (R329, R356). -/
def Dev.replayAll (d : Dev) (p : PortNo) (fl : List TxFlit) : Dev :=
  let q := d.port p
  let d := d.setPort p { q with wire := fl.map fun f => q.onLanes (flitBytes f.hdr f.payload) }
  (d.count (elkReg p 0x28) (0x5002 * 256 + 3) fl.length).addCnt (elkReg p 0x08) fl.length

/-- The end of training, with the lanes that passed; a lane that received another lane's number faults the port. -/
def doTrainDone (p : PortNo) (passed : BitVec 4) (order : Bool) (d : Dev) : Dev :=
  let q := d.port p
  if q.st ≠ .train then d
  else if order then (d.portFault p).setEvt (.elkEvt p) 0x10
  else
    let bad := (List.range 4).filter fun l => !passed.getLsbD l && !q.retired.getLsbD l
    let d := bad.foldl (fun d l => d.laneFail p (BitVec.ofNat 2 l)) d
    let q := d.port p
    let act := passed &&& ~~~ q.retired
    let q := { q with fails := (List.range 4).foldl (fun t l => if act.getLsbD l then Tbl.set 0 t l 0 else t) q.fails }
    if act = 0 then d.setPort p { q with st := .detect, active := 0 }
    else
      let d := d.setPort p { q with st := .up, active := act, retry := q.retry.map fun f => { f with replays := 1 } }
      let d := (d.replayAll p q.retry).setEvt (.elkEvt p) 1
      Dev.drainPort (q.out.length + 1) d p

/-- A record of each lane of a port that is retired now and was not before (spec/17 R485); lane m of port n is 8n + m (log entry 64). -/
def State.laneRecords (s : State) (p : PortNo) (was : BitVec 4) : State :=
  ((List.range 4).filter fun l => (s.dev.port p).retired.getLsbD l && !was.getLsbD l).foldl
    (fun s l => s.logFault ⟨4, 5, 8 * p.toNat + l, 0x04, none, none, 0, 0⟩) s
def execTrainDone (p : PortNo) (passed : BitVec 4) (order : Bool) (s : State) : Host.Outcome State Fault Refusal :=
  .next (({ s with dev := doTrainDone p passed order s.dev }).laneRecords p (s.dev.port p).retired)

/-- INIT: the partner's serial, port and version, and the credits it grants (R326, R331). -/
def doInitMsg (p : PortNo) (m : InitMsg) (d : Dev) : Dev :=
  let q := d.port p
  if q.st = .train then
    d.setPort p { q with partner := m.serial, pport := m.port, pversion := m.version,
                         credit := ((Tbl.set 0 [] 0 m.credits0.toNat |> fun t => Tbl.set 0 t 1 m.credits1.toNat) |> fun t =>
                           Tbl.set 0 t 2 m.credits2.toNat) }
  else d

def execInitMsg (p : PortNo) (m : InitMsg) (s : State) : Host.Outcome State Fault Refusal := s.onDev (doInitMsg p m)

def doPortRetrain (p : PortNo) (d : Dev) : Dev := if (d.port p).st = .up then d.retrain p else d

def execPortRetrain (p : PortNo) (s : State) : Host.Outcome State Fault Refusal := s.onDev (doPortRetrain p)

/-- The space of forwarded packets that are dropped from a port's queue is free (R331). -/
def Dev.freeOut (d : Dev) (ks : List (Pkt × Option PortNo)) : Dev :=
  ks.foldl (fun d k => match k.2 with
    | none => d
    | some i => d.setPort i ((d.port i).freeFlits (pktVc k.1.typ.toNat) (pktFlits k.1))) d
/-- DISABLED while the port's bit is set; DETECT once it is cleared (R326). What the port held is dropped. -/
def Dev.setDisable (d : Dev) (v : BitVec 8) : Dev :=
  let d := { d with links := { d.links with disable := v } }
  (List.range 8).foldl (fun d n =>
    let p : PortNo := BitVec.ofNat 3 n
    let q := d.port p
    let keep := { Port.reset with retired := q.retired, fails := q.fails, hwm := q.hwm, trains := q.trains }
    if v.getLsbD n then (if q.st = .disabled then d else (d.freeOut q.out).setPort p { keep with st := .disabled })
    else if q.st = .disabled then d.setPort p { keep with st := .detect } else d) d

/-! Link-level retry (R328, R329). -/

/-- Flits of the retry buffer from the one after `last`; all of them where it is not among them. -/
def afterFseq (last : Nat) (fl : List TxFlit) : List TxFlit :=
  if fl.any (·.fseq == last) then (fl.dropWhile (·.fseq != last)).drop 1 else fl
/-- Flits an ACK of `a` covers leave the buffer. -/
def ackFlits (a : Nat) (fl : List TxFlit) : List TxFlit :=
  if fl.any (·.fseq == a) then (fl.dropWhile (·.fseq != a)).drop 1 else fl
/-- A replay of flits, or a retrain where it would exceed the limit. -/
def Dev.replay (d : Dev) (p : PortNo) (fl : List TxFlit) : Dev :=
  let q := d.port p
  if fl.isEmpty then d
  else if fl.any fun f => decide (d.links.replayLimit < f.replays + 1) then d.retrain p
  else
    let d := d.setPort p { q with retry := q.retry.map fun f => if fl.contains f then { f with replays := f.replays + 1 } else f }
    d.replayAll p fl

def doNak (p : PortNo) (lastGood : BitVec 10) (d : Dev) : Dev :=
  if (d.port p).st = .up then d.replay p (afterFseq lastGood.toNat (d.port p).retry) else d

def execNak (p : PortNo) (lastGood : BitVec 10) (s : State) : Host.Outcome State Fault Refusal := s.onDev (doNak p lastGood)

def doReplayTimeout (p : PortNo) (d : Dev) : Dev := if (d.port p).st = .up then d.replay p (d.port p).retry else d

def execReplayTimeout (p : PortNo) (s : State) : Host.Outcome State Fault Refusal := s.onDev (doReplayTimeout p)

/-- A packet has been processed: the flits it held are free (R331). -/
def Dev.processed (d : Dev) (k : Pkt) : Dev :=
  match ((List.range 8).map fun n => (BitVec.ofNat 3 n : PortNo)).find? fun p => (d.port p).inq.contains k with
  | none => d
  | some p =>
    let q := d.port p
    d.setPort p ({ q with inq := q.inq.erase k }.freeFlits (pktVc k.typ.toNat) (pktFlits k))

/-! Live lane retune (R327, R360). -/

/-- A lane may retune: the port UP, the lane active and not the last one, none retuning. -/
def Port.mayRetune (q : Port) (l : LaneNo) : Bool :=
  q.st == .up && q.active.getLsbD l.toNat && q.active != laneBit l && q.retuning.isNone
/-- A lane that a failed retune left out may be retuned again, so that it rejoins (log entry 111). -/
def Port.mayRejoin (q : Port) (l : LaneNo) : Bool :=
  q.st == .up && q.left.getLsbD l.toNat && !q.active.getLsbD l.toNat && !q.retired.getLsbD l.toNat && q.retuning.isNone
/-- A retune of a lane started from this end, `asked` by a write; its switch point lies at least 64 FSEQ ahead, how far is free. -/
def Dev.startRetune (d : Dev) (p : PortNo) (l : LaneNo) (asked : Bool) : Dev :=
  let q := d.port p
  if q.mayRetune l || q.mayRejoin l then
    let r := d.freeNat
    let sp := q.txSeq + BitVec.ofNat 10 (64 + r.1 % 448)
    r.2.setPort p { q with retuning := some l, retuneMine := true, rejoin := false, switchPt := sp, agreed := false, rejoinPt := none,
                           asked := asked, ctrl := q.ctrl ++ [.retuneReq l sp] }
  else d

/-- The partner's retune: accepted, its switch point is one of the FSEQ that come in. -/
def doRetuneReq (p : PortNo) (l : LaneNo) (switchPoint : BitVec 10) (d : Dev) : Dev :=
  let q := d.port p
  if q.mayRetune l || q.mayRejoin l then
    (d.setPort p { q with retuning := some l, retuneMine := false, rejoin := false, switchPt := switchPoint, agreed := true, rejoinPt := none,
                          asked := false, ctrl := q.ctrl ++ [.retuneAck] }).retunePoint p
  else d

def execRetuneReq (p : PortNo) (l : LaneNo) (switchPoint : BitVec 10) (s : State) : Host.Outcome State Fault Refusal :=
  s.onDev (doRetuneReq p l switchPoint)

def doRetuneAck (p : PortNo) (d : Dev) : Dev :=
  let q := d.port p
  if q.st = .up ∧ q.retuning.isSome = true ∧ q.retuneMine = true then (d.setPort p { q with agreed := true }).retunePoint p else d

def execRetuneAck (p : PortNo) (s : State) : Host.Outcome State Fault Refusal := s.onDev (doRetuneAck p)

/-- The re-equalisation of the lane that is out ends: it may rejoin, or it stays out and the failure counts. The end that started the
retune sends RETUNE_DONE, and WIDTH with the rejoin point, which lies ahead by a free count. -/
def doRetuneDone (p : PortNo) (ok : Bool) (d : Dev) : Dev :=
  let q := d.port p
  match q.retuning with
  | none => d
  | some l =>
    if q.st ≠ .up ∨ q.active.getLsbD l.toNat = true then d
    else if ok then
      let r := d.freeNat
      let pt := q.txSeq + BitVec.ofNat 10 (1 + r.1 % 511)
      r.2.setPort p { q with
        rejoin := true, rejoinPt := if q.retuneMine then some pt else none, fails := Tbl.set 0 q.fails l.toNat 0,
        ctrl := q.ctrl ++ (if q.retuneMine then [.retuneDone true, .width pt] else []) }
    else
      let c := if q.retuneMine then [.retuneDone false] else []
      ((d.setPort p { q with retuning := none, retuneMine := false, rejoin := false, agreed := false, rejoinPt := none, asked := false,
                             left := q.left ||| laneBit l, ctrl := q.ctrl ++ c }).laneFail p l).setEvt (.elkEvt p) 2

def execRetuneDone (p : PortNo) (ok : Bool) (s : State) : Host.Outcome State Fault Refusal :=
  .next (({ s with dev := doRetuneDone p ok s.dev }).laneRecords p (s.dev.port p).retired)

/-- WIDTH from the end that started the retune: the lane that has re-equalised here returns at that FSEQ. -/
def doWidth (p : PortNo) (rejoinPt : BitVec 10) (d : Dev) : Dev :=
  let q := d.port p
  if q.st = .up ∧ q.retuning.isSome = true ∧ q.retuneMine = false ∧ q.rejoin = true then
    (d.setPort p { q with rejoinPt := some rejoinPt }).retunePoint p
  else d

def execWidth (p : PortNo) (rejoinPt : BitVec 10) (s : State) : Host.Outcome State Fault Refusal := s.onDev (doWidth p rejoinPt)

/-- The count of a lane's last second is judged and begins anew; or a lane that a failed retune left out is tried again. -/
def doRetuneCheck (p : PortNo) (l : LaneNo) (why : RetuneCase) (d : Dev) : Dev :=
  let q := d.port p
  match why with
  | .symbols =>
    let e := d.setPort p { q with fixed := Tbl.set 0 q.fixed l.toNat 0 }
    if d.links.retuneAt < Tbl.get 0 q.fixed l.toNat ∧ q.mayRetune l = true then e.startRetune p l false else e
  | .rejoin => if q.mayRejoin l then d.startRetune p l false else d

def execRetuneCheck (p : PortNo) (l : LaneNo) (why : RetuneCase) (s : State) : Host.Outcome State Fault Refusal := s.onDev (doRetuneCheck p l why)

/-- A write of 8n + m to 0x5013:0x01; R360 denies a lane that is inactive, the last active one, or on a port that is retuning. -/
def laneReqOk (d : Dev) (v : BitVec 8) : Bool :=
  decide (v.toNat < 64 ∧ v.toNat % 8 < 4) && (d.port (BitVec.ofNat 3 (v.toNat / 8))).mayRetune (BitVec.ofNat 2 (v.toNat % 8))
def doLaneRetuneRequest (v : BitVec 8) (d : Dev) : Dev :=
  if laneReqOk d v then d.startRetune (BitVec.ofNat 3 (v.toNat / 8)) (BitVec.ofNat 2 (v.toNat % 8)) true else d

def execLaneRetuneRequest (v : BitVec 8) (s : State) : Host.Outcome State Fault Refusal := s.onDev (doLaneRetuneRequest v)

end Sys2Proof.Machine
end

