-- ==== Sys2Proof/Machine/Faults.lean ====
section
/-! DEFINITION. Retests, retired units and patrol reading (spec/17 R479 to R485; spec/08 R194, R211 to R213; spec/04 R106). -/

namespace Sys2Proof.Machine

/-! Units. -/

/-- CLASS of a unit's fault records (R485). -/
def UnitId.cls : UnitId → Nat
  | .core _ => 0
  | .quad _ => 1
  | .rack _ => 2
  | .channel _ => 4
  | .lane _ _ => 5
/-- Number of a unit; lane m of port n is 8n + m (log entry 64). -/
def UnitId.num : UnitId → Nat
  | .core c => c.toNat
  | .quad q => q.toNat
  | .rack r => r.toNat
  | .channel c => c.toNat
  | .lane p l => 8 * p.toNat + l.toNat
/-- Key of a unit in the tables of its failures. -/
def UnitId.key (u : UnitId) : Nat := UnitId.cls u * 256 + UnitId.num u
/-- A unit in service. -/
def Dev.unitIn (d : Dev) : UnitId → Bool
  | .core c => (d.core c).inService
  | .quad q => d.tier.quads.getLsbD q.toNat
  | .rack r => d.tier.rack.getLsbD r.toNat
  | .channel c => d.cellar.chmap.getLsbD c.toNat
  | .lane p l => !(d.port p).retired.getLsbD l.toNat
/-- An hour and a day in ns. -/
def hourNs : Nat := 3600000000000
def dayNs : Nat := 24 * hourNs
/-- How many of a unit's failures lie within the last `w` ns. -/
def Dev.within (d : Dev) (t : Tbl (List Nat)) (u : UnitId) (w : Nat) : Nat :=
  ((Tbl.get [] t (UnitId.key u)).filter fun a => decide (d.now < a + w)).length
def Dev.corrLimit (d : Dev) : Nat := d.odNat (0x7003 * 256 + 1) 1000
def Dev.uncorrLimit (d : Dev) : Nat := d.odNat (0x7003 * 256 + 2) 3
/-- CAUSE of a retirement by what is on record for the unit: a failed test where nothing else is. -/
def Dev.retireCause (d : Dev) (u : UnitId) : Nat :=
  match u with
  | .core _ => if 2 ≤ d.within d.pwr.parity u dayNs then 0x05 else 0x04
  | .quad _ | .rack _ =>
    if d.uncorrLimit ≤ d.within d.pwr.uncorr u dayNs then 0x02
    else if d.corrLimit < d.within d.pwr.corr u hourNs then 0x03 else 0x04
  | .channel _ | .lane _ _ => 0x04
/-- A failed access of a unit noted (R479, R481). -/
def Dev.noteUncorr (d : Dev) (u : UnitId) : Dev :=
  let d := { d with pwr := { d.pwr with uncorr := Tbl.mod [] d.pwr.uncorr (UnitId.key u) fun l => d.now :: l } }
  (d.count (pwrReg 0x30) (0x7000 * 256 + 2) 1).setEvt .pwrEvt 0x20000
/-- A correction in place noted; CORR_RATE once the unit passes half its limit within an hour. -/
def Dev.noteCorr (d : Dev) (u : UnitId) : Dev :=
  let before := d.within d.pwr.corr u hourNs
  let d := { d with pwr := { d.pwr with corr := Tbl.mod [] d.pwr.corr (UnitId.key u) fun l => d.now :: l } }
  let d := d.count (pwrReg 0x28) (0x7000 * 256 + 1) 1
  if 2 * before ≤ d.corrLimit ∧ d.corrLimit < 2 * (before + 1) then d.setEvt .pwrEvt 0x10000 else d

/-! Damage in what serving keeps (R482). -/

/-- The partition whose KV map, Vine object, plan object or automaton object an object is. -/
def Dev.metaOf (d : Dev) (o : ObjNo) : Option PartNo :=
  let inSeq := (d.seqsWhere fun e => e.st != .free).any fun x => x.2.kvObj == o || (x.2.grammar && urObj x.2.automaton.toNat == o)
  let inPlan := d.srv.plan.any fun e => e.2.st != .free && e.2.obj == o
  let inVine := d.srv.vineObj.any fun e => e.2 == o
  if o ≠ 0 ∧ (inSeq || inPlan || inVine) = true then some (d.obj o).part else none
/-- A granule is damaged: a page that a Vine node names takes the node and its descendants with it (spec/10 R272), and in an object that serving
relies on it is Safe Hold of its partition. -/
def State.damageGran (s : State) (o : ObjNo) (g cause : Nat) : State :=
  let s := { s with dev := (s.dev.damage o g).evictPage (s.dev.obj o).part o g }
  match s.dev.metaOf o with
  | some p => s.partHold p cause
  | none => s

/-! Retirement (R106, R211 to R213, R302, R481). -/

/-- Commands of a retired core end UNCORRECTABLE. -/
def Dev.coreGone (d : Dev) (c : CoreNo) : Dev :=
  (d.liveOf c.toNat).foldl (fun d t =>
    if (d.tagE t).st = .running then d.uncorrectable t 0x000B 0
    else if (d.tagE t).live then d.complete t stUNCORR 0x000B 0 else d) d
def State.retireCore (s : State) (c : CoreNo) : State :=
  let d := ((s.dev.coreGone c).spClear c).setCore c { CoreSt.reset with inService := false }
  let s := State.coreLost { s with dev := d.setEvt .pwrEvt 0x100000 } c
  s.pumpRest
/-- A quad of another stack than `other` that can hold a copy of the map region (R194). -/
def Dev.mapQuad (d : Dev) (other : Nat) : Option Nat := (d.tierUnits .t1).find? fun q => q / 8 != other / 8
/-- The copies of the map region a quad held are rebuilt elsewhere. -/
def Dev.moveMap (d : Dev) (q : Nat) : Dev :=
  let t := d.tier
  if t.map0 = q then { d with tier := { t with map0 := (d.mapQuad t.map1).getD t.map0 } }
  else if t.map1 = q then { d with tier := { t with map1 := (d.mapQuad t.map0).getD t.map1 } }
  else d
/-- What a granule held in a retired frame: a read-only copy is dropped, a working granule or OPEN staging is damaged (R212). -/
def State.loseFrame (s : State) (t : Tier) (o : ObjNo) (g : Nat) : State :=
  if (s.dev.obj o).eff = .sealed then { s with dev := s.dev.dropCopy o g t } else s.damageGran o g 0x0B
/-- Granules with a frame in a unit of a tier. -/
def Dev.framesOf (d : Dev) (t : Tier) (u : Nat) : List (ObjNo × Nat) :=
  d.tier.obj.flatMap fun (e : Nat × Obj) =>
    (e.2.gran.filter fun (g : Nat × Gran) => (g.2.at t).any fun f => f.unit == u).map fun (g : Nat × Gran) => ((BitVec.ofNat 16 e.1 : ObjNo), g.1)
/-- Moves into a retired unit start over with a frame chosen among those in service. -/
def Dev.reframe (d : Dev) (t : Tier) (u : Nat) : Dev :=
  { d with tier := { d.tier with moves := d.tier.moves.map fun (m : Mv) =>
      if m.dst = t ∧ m.frame.unit = u then { m with frame := { d.frameFor m.obj t m.g with vint := m.frame.vint } } else m } }
/-- A Cask quad or a Rack channel leaves service: its tier shrinks, floors are lowered, and admission is recomputed. -/
def State.retireMem (s : State) (t : Tier) (u : Nat) : State :=
  let d := s.dev
  let d := match t with
    | .t1 => ({ d with tier := { d.tier with quads := d.tier.quads &&& ~~~(BitVec.ofNat 64 (2 ^ u)) } }).moveMap u
    | .t2 => { d with tier := { d.tier with rack := d.tier.rack &&& ~~~(BitVec.ofNat 12 (2 ^ u)) } }
    | .t3 => d
  let d := ((d.reframe t u).setEvt .pwrEvt 0x200000).setEvt .tierEvt 0x10
  let s := (d.framesOf t u).foldl (fun s (x : ObjNo × Nat) => s.loseFrame t x.1 x.2) { s with dev := d }
  ({ s with dev := s.dev.lowerFloors t }.recordFloors).refitTiers d
/-- A lane leaves service for good (spec/12 R326). -/
def Dev.retireLane (d : Dev) (p : PortNo) (l : LaneNo) : Dev :=
  let q := d.port p
  let d := d.setPort p { q with retired := q.retired ||| laneBit l, active := q.active &&& ~~~ (laneBit l) }
  d.setEvt (.elkEvt p) 8
/-- A unit in service retired: its record, the count of retired units, and what follows. -/
def State.retireUnit (s : State) (u : UnitId) (cause : Nat) : State :=
  if !s.dev.unitIn u then s
  else
    let s := s.logFault ⟨4, UnitId.cls u, UnitId.num u, cause, none, none, 0, 0⟩
    let s := { s with dev := { s.dev with pwr := { s.dev.pwr with retiredUnits := s.dev.pwr.retiredUnits + 1 } } }
    match u with
    | .core c => s.retireCore c
    | .quad q => s.retireMem .t1 q.toNat
    | .rack r => s.retireMem .t2 r.toNat
    | .channel c => ({ s with dev := doChannelRetire c s.dev }).recordFloors
    | .lane p l => { s with dev := s.dev.retireLane p l }

def execUnitRetire (u : UnitId) (s : State) : Host.Outcome State Fault Refusal := .next (s.retireUnit u (s.dev.retireCause u))

/-- RETIRED data blocks of a channel. -/
def Dev.retiredOn (d : Dev) (ch : Nat) : Nat :=
  (d.cellar.blk.filter fun e => e.1 / 5472 == ch && dataBlk (e.1 % 5472) && e.2.st == .retired).length
/-- CHANNEL_RETIRE: a planned retirement waits until no block of the channel is ALLOCATED (spec/09 R235; causes: log entry 64). -/
def State.retireChannel (s : State) (ch : ChanNo) : State :=
  let planned := s.dev.cellar.retiring.toNat == ch.toNat
  if planned && s.dev.allocBlks ch.toNat != 0 then s
  else s.retireUnit (.channel ch) (if planned then 0x00 else if 273 ≤ s.dev.retiredOn ch.toNat then 0x02 else 0x01)
def execChannelRetire (ch : ChanNo) (s : State) : Host.Outcome State Fault Refusal := .next (s.retireChannel ch)
/-- BLOCK_RETIRE: a block that failed is retired and recorded (spec/09 R231). -/
def State.retireBlock (s : State) (ch : ChanNo) (b : BlockNo) : State :=
  let k := s.dev.blk ch.toNat b.toNat
  if k.mayFail = false ∨ k.st = .retired ∨ dataBlk b.toNat = false then s
  else
    let s := s.logFault ⟨4, 3, b.toNat, 0x01, none, none, 0, 0⟩
    let d := { s.dev with pwr := { s.dev.pwr with retiredUnits := s.dev.pwr.retiredUnits + 1 } }
    ({ s with dev := doBlockRetire ch b d }).recordFloors
def execBlockRetire (ch : ChanNo) (b : BlockNo) (s : State) : Host.Outcome State Fault Refusal := .next (s.retireBlock ch b)

/-- A retest: recorded; a unit that fails it is retired (R479, R481). -/
def State.retestUnit (s : State) (u : UnitId) (passed : Bool) : State :=
  if !s.dev.unitIn u then s
  else
    let s := s.logFault ⟨0, UnitId.cls u, UnitId.num u, if passed then 0x12 else 0x04, none, none, 0, 0⟩
    let s := { s with dev := s.dev.setEvt .pwrEvt 0x40000 }
    if passed then s else s.retireUnit u 0x04

def execRetest (u : UnitId) (passed : Bool) (s : State) : Host.Outcome State Fault Refusal := .next (s.retestUnit u passed)

/-! Patrol (R484). -/

/-- Bytes patrol has read. -/
def Dev.patrolled (d : Dev) (n : Nat) : Dev := d.count (pwrReg 0x38) (0x7000 * 256 + 3) n
/-- The unit of a frame. -/
def frameUnit (t : Tier) (f : Frame) : UnitId := if t = .t2 then .rack (BitVec.ofNat 4 f.unit) else .quad (BitVec.ofNat 6 f.unit)
/-- The frame a granule has in the Rack, or in the Cask. -/
def Gran.frame (v : Gran) (rack : Bool) : Option (Tier × Frame) := if rack then v.t2.map fun f => (.t2, f) else v.t1.map fun f => (.t1, f)
def State.patrolFrame (s : State) (o : ObjNo) (g : Nat) (rack : Bool) (r : EccOutcome) : State :=
  match Gran.frame (s.dev.gran o g) rack with
  | none => s
  | some (t, f) =>
    let d := s.dev.patrolled granSize
    match r with
    | .clean => { s with dev := d }
    | .corrected => { s with dev := d.noteCorr (frameUnit t f) }
    | .uncorrectable =>
      let d := (d.noteUncorr (frameUnit t f)).setEvt .pwrEvt 0x80000
      if (d.obj o).eff = .sealed then { s with dev := d.dropCopy o g t } else State.damageGran { s with dev := d } o g 0x11
/-- A granule of a sealed entry read by patrol. Whether a corrected one passed the WEAK threshold or needed read-retry level 4, which the row does not
say, is open (R230). -/
def State.patrolGran (s : State) (n g : Nat) (r : EccOutcome) : State :=
  let e := s.dev.cat n
  if !e.used ∨ Tbl.get Place.none e.places g = Place.none then s
  else
    let d := (s.dev.patrolled granSize).addCnt (flcReg 0x20) 1
    match r with
    | .clean => { s with dev := d }
    | .corrected =>
      let pl := Tbl.get Place.none e.places g
      let p := (d.count (pwrReg 0x28) (0x7000 * 256 + 1) 1).freeNat
      { s with dev := if p.1 % 2 = 1 then p.2.markWorn pl.ch pl.blk true else p.2 }
    | .uncorrectable =>
      let d := ((d.count (pwrReg 0x30) (0x7000 * 256 + 2) 1).setEvt .pwrEvt 0x20000).setEvt .pwrEvt 0x80000
      { s with dev := d.loseGran n g }
/-- Patrol reads in ACTIVE and IDLE. -/
def State.patrol (s : State) (x : PatrolTarget) (r : EccOutcome) : State :=
  if s.dev.pwr.st = .nap ∨ s.dev.pwr.st = .deep then s
  else match x with
    | .frame o g rack => s.patrolFrame o g.toNat rack r
    | .sealedGran n g => s.patrolGran n.toNat g.toNat r

def execPatrolRead (x : PatrolTarget) (r : EccOutcome) (s : State) : Host.Outcome State Fault Refusal := .next (s.patrol x r)

end Sys2Proof.Machine
end

