-- ==== Sys2Proof/Machine/Firmware.lean ====
section
/-! DEFINITION. Staging, activation, commit and faults of firmware components (spec/15 R417, R425 to R430, R433). -/

namespace Sys2Proof.Machine

/-! Results (R432, R433). -/

/-- RESULT and COMP of a command of one path. -/
def Dev.fwResult (d : Dev) (path : CmdPath) (c res : Nat) : Dev :=
  let w : W32 := BitVec.ofNat 32 (c * 256 + res)
  match path with
  | .host => { d with fw := { d.fw with result := w } }
  | .mgmt => { d with fw := { d.fw with resultMgmt := w } }
/-- A staging or an activation runs: BUSY of FW_RESULT. -/
def Fw.busy (f : Fw) : Bool := f.stageComp.isSome || (List.range 8).any fun c => (Tbl.get Comp.reset f.comp c).st == .pending
/-- The path of the running activation. -/
def Dev.actPath (d : Dev) : CmdPath := if d.fw.actMgmt then .mgmt else .host
/-- Lowest component of a mask. -/
def lowComp (mask : Nat) : Nat := ((setBits mask 8).head?).getD 0
/-- A host command without a LIVE lease of the PF (R433). -/
def Dev.noLease (d : Dev) (path : CmdPath) : Bool := path == .host && (d.lease 0).st != .live
def Dev.trialTime (d : Dev) : Nat := d.odNat (0xA012 * 256 + 1) 600
def Dev.autoCommit (d : Dev) : Bool := d.odNat (0xA012 * 256 + 2) 1 == 1
def Dev.actWait (d : Dev) : Nat := d.odNat (0xA012 * 256 + 3) 10000
/-- An emergency is in force (spec/17 R475, R473). -/
def Dev.emergency (d : Dev) : Bool := d.pwr.therm || d.pwr.power
/-- Components in a state. -/
def Dev.compsIn (d : Dev) (st : UpState) : List Nat := (List.range 8).filter fun c => (d.comp c).st == st
/-- FW_TRIAL_END reads 0 once no component is in TRIAL. -/
def Dev.trialOver (d : Dev) : Dev := if (d.compsIn .trial).isEmpty then { d with fw := { d.fw with trialEnd := 0 } } else d
/-- The TRIAL clock starts. -/
def Dev.trialStart (d : Dev) : Dev :=
  { d with fw := { d.fw with trialEnd := if d.autoCommit then d.now + d.trialTime * 1000000000 else 0 } }
/-- The offered word of what runs; a recovery image offers bit [0] alone (R424, R430). -/
def Dev.reoffer (d : Dev) : Dev :=
  { d with fw := { d.fw with offered := if d.fw.recovery then 1 else setFeatures fun c => (d.comp c).run } }

/-! Staging (R427). -/

/-- The stager's lock and object given back. -/
def Dev.stageOver (d : Dev) : Dev :=
  let d := match d.fw.stageObj with
    | none => d
    | some o => d.dropRefs [o]
  { d with fw := { d.fw with stager := 0, stageComp := none, stageObj := none } }
/-- Why a STAGE is turned away. -/
def Dev.stageNo (d : Dev) (path : CmdPath) (mask : Nat) : Option Nat :=
  let c := lowComp mask
  let o := urObj d.fw.regAddr.toNat
  let b := d.obj o
  if d.noLease path then some 0x0C
  else if d.fw.stageComp.isSome || (path == .host && d.fw.stager == 2) then some 0x01
  else if 1 < (setBits mask 8).length then some 0x05
  else if (setBits mask 8).isEmpty || [UpState.pending, .armed, .trial].contains (d.comp c).st then some 0x06
  else match path with
    | .mgmt => if areaBytes c < d.fw.len then some 0x05 else none
    | .host =>
      if isSp d.fw.regAddr.toNat || decide (o = 0) || !(b.st == .live || b.st == .sealed) || b.part != 0 ||
          decide (b.size < urOff d.fw.regAddr.toNat + d.fw.regLen.toNat) then some 0x0D
      else if areaBytes c < d.fw.regLen.toNat then some 0x05 else none
def State.fwStage (s : State) (path : CmdPath) (mask : Nat) : State :=
  let d := s.dev
  let c := lowComp mask
  match d.stageNo path mask with
  | some r => { s with dev := d.fwResult path c r }
  | none =>
    let o := urObj d.fw.regAddr.toNat
    let k := d.comp c
    let d := d.setComp c { k with st := .writing }
    let d := match path with
      | .host => { (d.takeRefs [o]) with fw := { d.fw with stager := 1, stageObj := some o } }
      | .mgmt => { d with fw := { d.fw with stager := 2 } }
    let d := { d with fw := { d.fw with stageComp := some (BitVec.ofNat 3 c), lastAt := d.now } }
    { s with dev := d.fwResult path c 0, nv := s.nv.setCopy k.other c FwCopy.blank }

def execFwStage (path : CmdPath) (mask : BitVec 8) (s : State) : Host.Outcome State Fault Refusal := .next (s.fwStage path mask.toNat)

/-- The path of the stager. -/
def Dev.stagePath (d : Dev) : CmdPath := if d.fw.stager = 2 then .mgmt else .host
/-- The staged image's bytes. -/
def Dev.stageBytes (d : Dev) : List Byte :=
  match d.fw.stageObj with
  | some o => d.objRead o (urOff d.fw.regAddr.toNat) d.fw.regLen.toNat
  | none => Memory.readN d.fw.buf 0 d.fw.len
/-- The image has been programmed, read back and checked. -/
def State.stagingDone (s : State) : State :=
  match s.dev.fw.stageComp with
  | none => s
  | some n =>
    let c := n.toNat
    let d := s.dev
    let k := d.comp c
    let v := FwCopy.ofBytes c d.stageBytes
    let p := d.stagePath
    match s.nv.invalid c v with
    | none => { s with dev := ((d.setComp c { k with st := .staged }).stageOver.fwResult p c 0).setEvt .fwEvt 1, nv := s.nv.setCopy k.other c v }
    | some r => { s with dev := ((d.setComp c { k with st := .idle }).stageOver.fwResult p c r).setEvt .fwEvt 2,
                         nv := s.nv.setCopy k.other c FwCopy.blank }

def execStagingDone (s : State) : Host.Outcome State Fault Refusal := .next s.stagingDone

/-- A lock with no command or piece for 60 s. -/
def doStagingLockTimeout (d : Dev) : Dev :=
  if d.fw.stager ≠ 0 ∧ d.fw.stageComp = none ∧ d.fw.lastAt + 60000000000 ≤ d.now then d.stageOver else d

def execStagingLockTimeout (s : State) : Host.Outcome State Fault Refusal := s.onDev doStagingLockTimeout

/-! Activation (R428). -/

/-- The running copies with the staged ones in place of those of a mask. -/
def State.candidate (s : State) (mask : Nat) (c : Nat) : FwCopy :=
  let k := s.dev.comp c
  if bitN mask c then s.nv.copy k.other c else k.run
/-- The conditions of a LIVE activation on its candidate set. -/
def State.liveOk (s : State) (mask : Nat) : Bool :=
  let d := s.dev
  setCompatible (s.candidate mask) && (d.hif.accepted &&& ~~~ (setFeatures (s.candidate mask))) == 0 &&
  (!bitN mask 5 || d.links.group == .solo || (s.candidate mask 5).gpv == (d.comp 5).run.gpv)
/-- Why an ACTIVATE is turned away. -/
def State.actNo (s : State) (path : CmdPath) (mask : Nat) (resetMode : Bool) : Option Nat :=
  let d := s.dev
  if d.noLease path then some 0x0C
  else if !resetMode && d.held then some 0x0A
  else if (setBits mask 8).any (fun c => (d.comp c).st == .pending) || (!resetMode && !(d.compsIn .pending).isEmpty) then some 0x01
  else if (setBits mask 8).isEmpty || (setBits mask 8).any (fun c => (d.comp c).st != .staged) then some 0x06
  else if !resetMode && !s.liveOk mask then some 0x07
  else none
def State.fwActivate (s : State) (path : CmdPath) (mask : Nat) (resetMode : Bool) : State :=
  let d := s.dev
  let c := lowComp mask
  match s.actNo path mask resetMode with
  | some r => { s with dev := d.fwResult path c r }
  | none =>
    if resetMode then
      let r := s.nv.recordNow
      let m : BitVec 8 := BitVec.ofNat 8 mask
      { s with dev := (d.modComps mask fun _ k => { k with st := .armed }).fwResult path c 0,
               nv := s.nv.append { r with next := r.next ||| m, tried := r.tried &&& ~~~ m } }
    else
      let em := d.emergency
      let d := d.modComps mask fun _ k => { k with st := .pending, reason := if em then 1 else 0, switched := false, insts := 0 }
      let d := { d with fw := { d.fw with actMgmt := path == CmdPath.mgmt, actFrom := if em then none else some d.now } }
      { s with dev := if em then (d.fwResult path c 0x08).setEvt .fwEvt 4 else d.fwResult path c 0 }

def execFwActivate (path : CmdPath) (mask : BitVec 8) (resetMode : Bool) (s : State) : Host.Outcome State Fault Refusal :=
  .next (s.fwActivate path mask.toNat resetMode)

/-- An emergency begins: an activation not yet done waits for its end. -/
def Dev.actHold (d : Dev) : Dev :=
  match d.compsIn .pending with
  | [] => d
  | c :: _ =>
    let d := d.modComps 0xFF fun _ k => if k.st = .pending then { k with reason := 1 } else k
    ({ d with fw := { d.fw with actFrom := none } }.fwResult d.actPath c 0x08).setEvt .fwEvt 4
/-- The emergency ends: ACT_WAIT counts from now. -/
def Dev.actResume (d : Dev) : Dev :=
  if (d.compsIn .pending).isEmpty || d.fw.actFrom.isSome then d
  else
    let d := d.modComps 0xFF fun _ k => if k.st = .pending then { k with reason := 0 } else k
    { d with fw := { d.fw with actFrom := some d.now } }

/-- Pause of a switch in ns (R414). -/
def switchPause (c : Nat) : Nat := [400000, 10000, 150000, 300000, 100000, 200000, 50000, 15000].getD c 0
/-- Control processors that run a component (R414): HIF's instance A runs on CP0 and B on CP1 (log entry 114); MGMT runs on the management controller. -/
def compCps (c : Nat) : List Nat := [[0, 1, 2, 3], [0, 1], [1], [2], [2], [3], [3], []].getD c []
/-- Register blocks and queues a component may write (R414). -/
def compBlocks (c : Nat) : List FwBlock :=
  [[.mpu], [.hif, .fwImages], [.srv, .requestTable], [.tier, .cellarQueues], [.sec, .keySlots], [.elk], [.pwr], [.od]].getD c []
/-- Accesses that R415 gives a component: its code, its data and its own rings, the rings of others, and its blocks. -/
def compRegions (c : Nat) : List MpuRegion :=
  let n : CompNo := BitVec.ofNat 3 c
  [⟨n, .code n, [.read, .execute]⟩, ⟨n, .data n, [.read, .write]⟩, ⟨n, .rings n, [.read, .write]⟩] ++
  (compBlocks c).map fun b => ⟨n, .block b, [.read, .write]⟩
/-- The 16 regions at most that SUPV programs for a CP (R415). -/
def mpuRegions (cp : Nat) : List MpuRegion :=
  ((List.range 8).filter fun c => (compCps c).contains cp).flatMap compRegions
/-- The MPUs programmed at boot, before the CPs are released (R422). -/
def Dev.setMpus (d : Dev) : Dev := { d with fw := { d.fw with mpu := (List.range 4).map fun cp => (cp, mpuRegions cp) } }
/-- An access of component `c` is allowed by these regions; it may write the message rings of any other component (R415). -/
def regionsAllow (rs : List MpuRegion) (c : Nat) (r : FwRegion) (a : FwAccess) : Bool :=
  rs.any (fun m => m.comp.toNat == c && m.region == r && m.allow.contains a) || (match r with
    | .rings o => o.toNat != c && a == .write
    | _ => false)
/-- CP of a component's instance; HIF's is the active one or the standby. -/
def Dev.instCp (d : Dev) (c : Nat) (standby : Bool) : Option Nat :=
  if c = 1 then some (if d.fw.hifB != standby then 1 else 0) else (compCps c).head?
/-- The access is outside what the component is given. -/
def Dev.accessFault (d : Dev) (c : Nat) (standby : Bool) (r : FwRegion) (a : FwAccess) : Bool :=
  !regionsAllow (match d.instCp c standby with
    | some cp => Tbl.get [] d.fw.mpu cp
    | none => compRegions c) c r a
/-- Where a component's next switch takes place: SUPV's instances one after another, CP3 first and CP0 last; HIF's standby (R414, R428). -/
def Dev.switchCp (d : Dev) (c : Nat) : Option Nat :=
  if c = 0 then [3, 2, 1, 0].find? fun cp => !(d.comp 0).insts.getLsbD cp
  else if c = 1 then d.instCp 1 true
  else (compCps c).head?
/-- Instances switched once the next one is. -/
def Dev.nextInsts (d : Dev) (c : Nat) : BitVec 4 :=
  match d.switchCp c with
  | some cp => (d.comp c).insts ||| BitVec.ofNat 4 (2 ^ cp)
  | none => (d.comp c).insts
/-- That is the last switch of the component. -/
def Dev.lastInst (d : Dev) (c : Nat) : Bool := (compCps c).all fun cp => (d.nextInsts c).getLsbD cp
/-- The next schedule point of every plan with a sequence to serve lies past `t`. -/
def Dev.pointsAfter (d : Dev) (t : Nat) : Bool :=
  d.srv.plan.all fun p => !p.2.runs || (d.planSeqs (BitVec.ofNat 4 p.1)).isEmpty || !p.2.hasPoint p.2.nextK || decide (t < p.2.schedAt p.2.nextK)
/-- A quiet window for a component's next switch; CP1 hosts SERVE. -/
def Dev.quiet (d : Dev) (c : Nat) : Bool :=
  !(c == 4 && d.sec.part.any fun p => p.2.st == .retiring || p.2.st == .scrubbing) &&
  (d.switchCp c != some 1 || (d.srv.plan.all (fun p => !p.2.running) && d.pointsAfter (d.now + switchPause c + 50000)))

/-- A running copy committed: the record names its slot, and the floor rises to its SVN (R426, R429). -/
def State.commitComps (s : State) (cs : List Nat) : State :=
  let mask := cs.foldl (fun m c => m + 2 ^ c) 0
  let m : BitVec 8 := BitVec.ofNat 8 mask
  let b : BitVec 8 := BitVec.ofNat 8 (cs.foldl (fun x c => if (s.dev.comp c).runB then x + 2 ^ c else x) 0)
  let r := s.nv.recordNow
  let nv := s.nv.append { r with slotB := (r.slotB &&& ~~~ m) ||| b, next := r.next &&& ~~~ m, tried := r.tried &&& ~~~ m }
  let nv := cs.foldl (fun (n : Nv) c => n.raiseFloor c (s.dev.comp c).run.svn) nv
  let d := s.dev.modComps mask fun _ k => { k with st := .idle, fromReset := false }
  { s with nv := nv, dev := d.trialOver.reoffer.setEvt .fwEvt 0x10 }

/-- The last switch of an activation: every component of it enters TRIAL; a TRIAL_TIME of 0 commits at once (R429, R436). -/
def State.actDone (s : State) : State :=
  let cs := s.dev.compsIn .pending
  if cs.isEmpty || cs.any (fun c => !(s.dev.comp c).switched) then s
  else
    let d := s.dev.modComps 0xFF fun _ k =>
      if k.st = .pending then { k with st := .trial, reason := 0, fromReset := false, switched := false, insts := 0 } else k
    let d := ({ d with fw := { d.fw with actFrom := none } }.setEvt .fwEvt 8).trialStart
    let s := { s with dev := d }
    if d.autoCommit && d.trialTime == 0 then s.commitComps cs else s
/-- A component, or the next of its instances, switches to its staged copy: in ascending ID, in a quiet window, with the copy checked again. After its
standby, HIF swaps roles. -/
def State.componentSwitch (s : State) (c : Nat) : State :=
  let d := s.dev
  let k := d.comp c
  if k.st ≠ .pending ∨ k.switched = true ∨ d.emergency = true ∨ d.fw.actFrom = none ∨
      ((List.range c).any fun i => (d.comp i).st == .pending && !(d.comp i).switched) = true then s
  else if !d.quiet c then { s with dev := d.setComp c { k with reason := 2 } }
  else match s.nv.invalid c (s.nv.copy k.other c) with
    | some r =>
      let s := s.actDrop 0xFF
      { s with dev := s.dev.fwResult d.actPath c r }
    | none =>
      if d.lastInst c then
        ({ s with dev := d.setComp c { k with run := s.nv.copy k.other c, runB := k.other, switched := true, insts := d.nextInsts c } }).actDone
      else
        let e := d.setComp c { k with insts := d.nextInsts c, reason := 0 }
        { s with dev := if c = 1 then { e with fw := { e.fw with hifB := !d.fw.hifB } } else e }

def execComponentSwitch (c : CompNo) (s : State) : Host.Outcome State Fault Refusal := .next (s.componentSwitch c.toNat)

/-- ACT_WAIT expires before the last switch. -/
def State.actWaitExpiry (s : State) : State :=
  let d := s.dev
  match d.fw.actFrom, d.compsIn .pending with
  | some t, c :: _ =>
    if t + d.actWait * 1000000 ≤ d.now then
      let s := s.actDrop 0xFF
      { s with dev := (s.dev.fwResult d.actPath c 0x09).setEvt .fwEvt 0x40 }
    else s
  | _, _ => s

def execActWaitExpiry (s : State) : Host.Outcome State Fault Refusal := .next s.actWaitExpiry

/-! Commit, cancel, abort (R429, R430). -/

def State.fwCommit (s : State) (path : CmdPath) (mask : Nat) : State :=
  let d := s.dev
  let c := lowComp mask
  let cs := setBits mask 8
  let no := fun r => { s with dev := d.fwResult path c r }
  if d.noLease path then no 0x0C
  else if cs.isEmpty || cs.any (fun c => (d.comp c).st != .trial) then no 0x06
  else if d.held then no 0x0A
  else
    let s := s.commitComps cs
    { s with dev := s.dev.fwResult path c 0 }

def execFwCommit (path : CmdPath) (mask : BitVec 8) (s : State) : Host.Outcome State Fault Refusal := .next (s.fwCommit path mask.toNat)

/-- TRIAL_TIME passes with auto-commit on; a device-scope Safe Hold keeps it from committing. -/
def State.trialTimeExpiry (s : State) : State :=
  let d := s.dev
  if d.fw.trialEnd ≠ 0 ∧ d.fw.trialEnd ≤ d.now ∧ d.autoCommit = true ∧ d.held = false then s.commitComps (d.compsIn .trial) else s

def execTrialTimeExpiry (s : State) : Host.Outcome State Fault Refusal := .next s.trialTimeExpiry

def State.fwCancel (s : State) (path : CmdPath) (mask : Nat) : State :=
  let d := s.dev
  let c := lowComp mask
  let cs := setBits mask 8
  let no := fun r => { s with dev := d.fwResult path c r }
  let armed := cs.filter fun c => (d.comp c).st == .armed
  if d.noLease path then no 0x0C
  else if cs.isEmpty || cs.any (fun c => (d.comp c).st != .pending && (d.comp c).st != .armed) then no 0x06
  else
    let m : BitVec 8 := BitVec.ofNat 8 (armed.foldl (fun m c => m + 2 ^ c) 0)
    let r := s.nv.recordNow
    let s := if armed.isEmpty then s else { s with nv := s.nv.append { r with next := r.next &&& ~~~ m } }
    let s := { s with dev := s.dev.modComps m.toNat fun _ k => { k with st := .staged } }
    let s := (s.actDrop mask).actDone
    { s with dev := s.dev.fwResult path c 0 }

def execFwCancel (path : CmdPath) (mask : BitVec 8) (s : State) : Host.Outcome State Fault Refusal := .next (s.fwCancel path mask.toNat)

/-- A component in TRIAL back on its old copy. -/
def State.rollBack (s : State) (c : Nat) : State :=
  let k := s.dev.comp c
  let d := s.dev.setComp c { (k.back s.nv c) with st := .idle, fromReset := false }
  { s with dev := d.trialOver.setEvt .fwEvt 0x20 }
/-- A staging given up: the area is not valid. -/
def State.stageAbort (s : State) (c : Nat) : State :=
  let k := s.dev.comp c
  { s with dev := (s.dev.setComp c { k with st := .idle }).stageOver.setEvt .fwEvt 2, nv := s.nv.setCopy k.other c FwCopy.blank }
def State.fwAbort (s : State) (path : CmdPath) (mask : Nat) : State :=
  let d := s.dev
  let c := lowComp mask
  let cs := setBits mask 8
  let no := fun r => { s with dev := d.fwResult path c r }
  let trial := cs.any fun c => (d.comp c).st == .trial
  if d.noLease path then no 0x0C
  else if cs.isEmpty || cs.any (fun c => (d.comp c).st != .writing && (d.comp c).st != .trial) then no 0x06
  else
    let s := cs.foldl (fun s c => if (d.comp c).st = .writing then s.stageAbort c else s.rollBack c) s
    { s with dev := s.dev.fwResult path c (if trial then 0x0B else 0) }

def execFwAbort (path : CmdPath) (mask : BitVec 8) (s : State) : Host.Outcome State Fault Refusal := .next (s.fwAbort path mask.toNat)

/-! Faults of a component (R417, R429). -/

/-- R417: the active HIF instance hands its role to the standby; any other fault, that of the standby too, is Safe Hold of the device. -/
def State.compDoubt (s : State) (c : Nat) (standby : Bool) : State :=
  if c = 1 ∧ standby = false then { s with dev := { s.dev with fw := { s.dev.fw with hifB := !s.dev.fw.hifB } }.setEvt .fwEvt 0x400 }
  else s.devHold 0x09 6 c
/-- The cause is a fault: an access the component is given is none. -/
def Dev.isFault (d : Dev) (c : Nat) (standby : Bool) : FwFault → Bool
  | .access r a => d.accessFault c standby r a
  | .watchdog => true
  | .assertion => true
def State.faultComp (s : State) (c : Nat) (standby : Bool) (stateOk : Bool) : State :=
  let k := s.dev.comp c
  let s := { s with dev := s.dev.setEvt .fwEvt 0x200 }
  if k.st = .trial ∧ k.fromReset = false ∧ stateOk = true then
    let s := s.rollBack c
    { s with dev := s.dev.fwResult s.dev.actPath c 0x0B }
  else s.compDoubt c standby
def State.componentFault (s : State) (c : Nat) (x : CompFault) : State :=
  if s.dev.isFault c x.standby x.why then s.faultComp c x.standby x.stateOk else s

def execComponentFault (c : CompNo) (x : CompFault) (s : State) : Host.Outcome State Fault Refusal := .next (s.componentFault c.toNat x)

end Sys2Proof.Machine
end

