-- ==== Sys2Proof/Machine/FlashRegs.lean ====
section
/-! DEFINITION. The Cellar's register interface: lock and commands (spec/09 R238 to R242). -/

namespace Sys2Proof.Machine

/-- SEC_STAT.CONF_ACTIVE: a confidential partition is not ABSENT (R453). -/
def Dev.confActive (d : Dev) : Bool := d.sec.part.any fun e => e.2.conf && e.2.st != .absent
/-- An FLC_ write happened: the lock's time starts again, and a first key no longer counts unless the write was to FLC_UNLOCK. -/
def Dev.flcTouch (d : Dev) : Dev := { d with cellar := { d.cellar with lastWrite := d.hif.devTime, half := false } }
/-- A key written to FLC_UNLOCK (R238). -/
def doFlcUnlock (key : BitVec 16) (d : Dev) : Dev :=
  let c := d.cellar
  let d := d.flcTouch
  let set (lock : Nat) (half : Bool) : Dev := { d with cellar := { d.cellar with lock := lock, half := half } }
  if c.lock = 0 ∧ !c.half ∧ key = 0xA55A then set 0 true
  else if c.lock = 0 ∧ c.half ∧ key = 0x5AA5 then set 1 false
  else if c.lock = 1 ∧ !c.half ∧ key = 0xC3E1 then set 1 true
  else if c.lock = 1 ∧ c.half ∧ key = 0x1E3C then
    (if d.confActive then { d with cellar := { d.cellar with result := 0x0C } } else set 2 false)
  else { d with cellar := { d.cellar with lock := 0, half := false, result := 2 } }
def execFlcUnlock (key : BitVec 16) (s : State) : Host.Outcome State Fault Refusal := s.onDev (doFlcUnlock key)
/-- 100 ms without an FLC_ write: the lock falls to level 0. -/
def doFlcLockTimeout (d : Dev) : Dev :=
  if d.cellar.lastWrite.toNat + 100000000 ≤ d.now then { d with cellar := { d.cellar with lock := 0, half := false } } else d
def execFlcLockTimeout (s : State) : Host.Outcome State Fault Refusal := s.onDev doFlcLockTimeout

/-! FLC_ADDR fields (R239). -/
def Dev.faCh (d : Dev) : Nat := fld d.cellar.addr.toNat 30 25
def Dev.faBlk (d : Dev) : Nat := fld d.cellar.addr.toNat 24 12
def Dev.faCw (d : Dev) : Nat := fld d.cellar.addr.toNat 11 0
/-- FLC_STS.RESULT set. -/
def Dev.flcResult (d : Dev) (code : Nat) : Dev := { d with cellar := { d.cellar with result := BitVec.ofNat 8 code } }
/-- A write of OP to FLC_CMD (R238, R240): ignored while BUSY; refused below its level, at a bad address or in a block state the command
does not allow; else `f` runs. Level 2 lasts for one command of level 2. -/
def Dev.flcCommand (d : Dev) (level : Nat) (ok : Blk → Bool) (f : Dev → Dev) : Dev :=
  if d.cellar.busy then d.flcTouch.setEvt .flcEvt 0x40
  else
    let lock := d.cellar.lock
    let d := d.flcTouch
    let d := if level = 2 ∧ lock = 2 then { d with cellar := { d.cellar with lock := 1 } } else d
    if lock < level then d.flcResult 1
    else if !d.cellar.chmap.getLsbD d.faCh || decide (5472 ≤ d.faBlk) || decide (3072 ≤ d.faCw) || bitN d.cellar.addr.toNat 31 then d.flcResult 3
    else if !ok (d.blk d.faCh d.faBlk) then d.flcResult 4
    else f d
/-- A register operation on the die of BLOCK, behind what is queued there. -/
def Dev.flcIssue (op : FlcOp) (d : Dev) : Dev :=
  let o : DieOp := ⟨op, ⟨0, BitVec.ofNat 16 d.faBlk, BitVec.ofNat 16 d.faCw, 0, 0, 0⟩, none, true, 0⟩
  let d := { d with cellar := { d.cellar with busy := true } }
  Dev.flcPump d.faCh o.die 65 (d.setFlcQueue d.faCh (d.flcQueue d.faCh ++ [o]))
def anyState (_ : Blk) : Bool := true
def Blk.isTest (k : Blk) : Bool := k.st == .test

def doFlcReadId (d : Dev) : Dev := d.flcCommand 1 anyState (Dev.flcIssue .readId)
def execFlcReadId (s : State) : Host.Outcome State Fault Refusal := s.onDev doFlcReadId
def doFlcReadCal (d : Dev) : Dev := d.flcCommand 1 anyState (Dev.flcIssue .readCal)
def execFlcReadCal (s : State) : Host.Outcome State Fault Refusal := s.onDev doFlcReadCal
def doFlcReadCw (d : Dev) : Dev := d.flcCommand 1 (fun k => k.st != .retired) (Dev.flcIssue .readCw)
def execFlcReadCw (s : State) : Host.Outcome State Fault Refusal := s.onDev doFlcReadCw
/-- Number of a block state, in the order of R223. -/
def BlkState.num : BlkState → Nat
  | .retired => 0
  | .free => 1
  | .allocated => 2
  | .test => 3
  | .erasePending => 4
  | .erasing => 5
  | .interrupted => 6
def doFlcReadBlk (d : Dev) : Dev :=
  d.flcCommand 1 anyState fun d =>
    let k := d.blk d.faCh d.faBlk
    (d.flcData ((List.range 64).map (Config.blkRecord k.st.num k.erases k.wp k.entry.toNat))).flcResult 0
def execFlcReadBlk (s : State) : Host.Outcome State Fault Refusal := s.onDev doFlcReadBlk
/-- Blocks in state TEST. -/
def Dev.testBlks (d : Dev) : Nat := (d.cellar.blk.filter fun e => e.2.st == .test).length
/-- CLAIM is refused (R240). -/
def Dev.claimRefused (d : Dev) : Bool :=
  decide (4 ≤ d.testBlks) || decide (d.capacity .t3 - blkBytes < d.floorSum .t3) ||
  decide (d.capacity .t3 - blkBytes < sumNat ((List.range 8).map fun p => d.t3Usage (BitVec.ofNat 3 p)))
def doFlcClaim (d : Dev) : Dev :=
  d.flcCommand 2 (fun k => k.st == .free) fun d =>
    if !dataBlk d.faBlk then d.flcResult 4
    else if d.claimRefused then d.flcResult 0x0B
    else (d.setBlk d.faCh d.faBlk { d.blk d.faCh d.faBlk with st := .test }).flcResult 0
def execFlcClaim (s : State) : Host.Outcome State Fault Refusal := s.onDev doFlcClaim
def doFlcRelease (d : Dev) : Dev :=
  d.flcCommand 2 Blk.isTest fun d => (d.setBlk d.faCh d.faBlk { d.blk d.faCh d.faBlk with st := .erasePending }).flcResult 0
def execFlcRelease (s : State) : Host.Outcome State Fault Refusal := s.onDev doFlcRelease
/-- ERASE: the firmware commits START first (R233). -/
def doFlcErase (d : Dev) : Dev := d.flcCommand 2 Blk.isTest fun d => Dev.flcIssue .erase (d.journalNext d.faCh d.faBlk true)
def execFlcErase (s : State) : Host.Outcome State Fault Refusal := s.onDev doFlcErase
def doFlcProgram (d : Dev) : Dev := d.flcCommand 2 Blk.isTest (Dev.flcIssue .progG)
def execFlcProgram (s : State) : Host.Outcome State Fault Refusal := s.onDev doFlcProgram

end Sys2Proof.Machine
end

