-- ==== Sys2Proof/Machine/Codec.lean ====
section
/-! DEFINITION. The link codec: block headers, the lossless exponent code and the vector quantiser (spec/12 R345 to R347). -/

namespace Sys2Proof.Machine

/-- Plain bytes of one codec block (R341). -/
def blkPlain : Nat := 4096
/-- Codec modes (R345). -/
def modePLAIN : Nat := 0
def modeEXP : Nat := 1
def modeVQ : Nat := 2

/-- The 8-byte block header. -/
def codecHdr (ver codedLen plainLen slot mode : Nat) : List Byte :=
  natLe 8 (ver % 65536 * 2 ^ 48 + codedLen * 2 ^ 35 + plainLen * 2 ^ 22 + slot * 2 ^ 16 + mode * 2 ^ 14)

/-- Bits packed into bytes, from bit [0] of each byte upward, zero-padded. -/
def bytesOf (bs : List Bool) : List Byte :=
  (List.range (ceilDiv bs.length 8)).map fun i => BitVec.ofNat 8 (ofBits ((bs.drop (8 * i)).take 8))

/-- BF16 elements of bytes. -/
def bf16s (bs : List Byte) : List Nat := unpackCodes .bf16 (bs.length / 2) bs

/-! EXP (R346): E = 8, ESC the last symbol. -/

/-- Codeword of `n` bits, most significant bit first. -/
def msbBits (n code : Nat) : List Bool := (List.range n).map fun i => bitN code (n - 1 - i)
/-- The bits of one exponent, and whether it needs an escape; none where the slot has no code for it and none for ESC. -/
def expBitsOf (tb : List (Nat × Nat × Nat)) (e : Nat) : Option (List Bool × Nat) :=
  match tb.find? fun c => c.2.2 == e with
  | some c => some (msbBits c.1 c.2.1, 0)
  | none => match tb.find? fun c => c.2.2 == 256 with
    | some c => some (msbBits c.1 c.2.1 ++ (List.range 8).map (bitN e), 1)
    | none => none
/-- The exponent stream, and the escapes in it. -/
def expStream (tb : List (Nat × Nat × Nat)) : List Nat → Option (List Bool × Nat)
  | [] => some ([], 0)
  | e :: es => match expBitsOf tb e, expStream tb es with
    | some a, some b => some (a.1 ++ b.1, a.2 + b.2)
    | _, _ => none
/-- The coded body of a block; none where it goes PLAIN (R345). -/
def expEncode (im plain : List Byte) : Option (List Byte) :=
  let xs := bf16s plain
  match expStream (canonCode (codeLengths im 8)) (xs.map fun x => fld x 14 7) with
  | none => none
  | some p =>
    let body := (xs.map fun x => BitVec.ofNat 8 (x / 32768 * 128 + x % 128)) ++ bytesOf p.1
    if 31 * plain.length < 32 * body.length ∨ 64 < p.2 then none else some body
/-- The plain bytes of a coded body; none where it is not the code of `n` elements. -/
def expDecode (im body : List Byte) (n : Nat) : Option (List Byte) :=
  match readExps (canonCode (codeLengths im 8)) 8 n (bitsOf (body.drop n)) with
  | none => none
  | some (es, _, r) =>
    if body.length < n ∨ padOk r = false then none
    else some (packCodes .bf16 (List.zipWith (joinExp .bf16) es ((body.take n).map (·.toNat))))

/-! VQ (R347). -/

/-- Entry `i` of the codebook as BF16 codes. -/
def vqEntry (im : List Byte) (i : Nat) : List Nat := unpackCodes .bf16 (imgV im) ((im.drop (64 + i * (2 * imgV im))).take (2 * imgV im))
def vqEntries (im : List Byte) : List (List Nat) := (List.range (2 ^ imgCbkW im)).map (vqEntry im)
/-- RNE(x ÷ y) in FP32; none where the divisor is zero or not finite. -/
def f32Div (x y : W32) : Option W32 :=
  match Fp.ofF32 x, Fp.ofF32 y with
  | .fin s m e, .fin t n f => if n = 0 then none else some (ratF32 (s != t) m n (e - f))
  | _, _ => none
/-- Squared distance of a vector to an entry, summed in FP32. -/
def vqDist (xs : List W32) (en : List Nat) : W32 :=
  (List.zipWith (fun x (c : Nat) => let t := f32Sub x (codeToF32 .bf16 c); f32Mul t t) xs en).foldl f32Add 0
/-- The entry of least distance, the lower index on ties. -/
def vqNearest (xs : List W32) (ens : List (List Nat)) : Nat :=
  ((List.range ens.length).foldl (fun (b : Option (Nat × W32)) i =>
    let v := vqDist xs (ens.getD i [])
    match b with
    | none => some (i, v)
    | some p => if f32Gt p.2 v then some (i, v) else b) none).elim 0 (·.1)
/-- Scale of one group of 256 elements: its largest magnitude over that of the codebook, 1.0 for a group of zeros; none where the
quotient has no FP32 value. -/
def vqScale (xs : List W32) (emax : W32) : Option W32 := if f32IsZero (rowAmax xs) then some oneF32 else f32Div (rowAmax xs) emax
/-- Split into pieces of `v`. -/
def chunks (v : Nat) : Nat → List α → List (List α)
  | 0, _ => []
  | n + 1, l => l.take v :: chunks v n (l.drop v)
/-- One group: its scale, and its indices, none where the formula gives none (log entry 60). -/
def vqGroup (im : List Byte) (xs : List W32) : W32 × List (Option Nat) :=
  let ens := vqEntries im
  let emax := rowAmax ((ens.flatMap id).map (codeToF32 .bf16))
  match vqScale xs emax with
  | none => (0, List.replicate (256 / imgV im) none)
  | some sc => (sc, (chunks (imgV im) (256 / imgV im) xs).map fun v =>
      let qs := v.map fun x => f32Div x sc
      if qs.any (·.isNone) then none else some (vqNearest (qs.map fun q => q.getD 0) ens))
/-- The coded body of a block, with `free` for the indices the formula leaves open; none where it goes PLAIN (R345). -/
def vqEncode (free : Nat → Nat) (im plain : List Byte) : Option (List Byte) :=
  let xs := (bf16s plain).map (codeToF32 .bf16)
  if xs.any fun x => f32IsNan x || f32IsInf x then none
  else
    let gs := (chunks 256 (plain.length / 512) xs).map (vqGroup im)
    let ix := gs.flatMap (·.2)
    let w := imgCbkW im
    let bits := (List.range ix.length).flatMap fun i => (List.range w).map (bitN (((ix.getD i none).getD (free i)) % 2 ^ w))
    some (gs.flatMap (fun g => natLe 4 g.1.toNat) ++ bytesOf bits)
/-- The plain bytes of a coded body of `n` plain bytes; none where its length is not that of its code. -/
def vqDecode (im body : List Byte) (n : Nat) : Option (List Byte) :=
  let g := n / 512
  let v := imgV im
  let w := imgCbkW im
  let k := n / (2 * v)
  if body.length ≠ 4 * g + ceilDiv (k * w) 8 then none
  else
    let bits := bitsOf (body.drop (4 * g))
    some (packCodes .bf16 ((List.range k).flatMap fun i =>
      let sc := Fp.ofF32 (BitVec.ofNat 32 (leNat ((body.drop (4 * (i * v / 256))).take 4)))
      (vqEntry im (ofBits ((bits.drop (i * w)).take w))).map fun c => ((Fp.ofBf16 c).mul sc).toBf16))

end Sys2Proof.Machine
end

