-- ==== Sys2Proof/Machine/Puts.lean ====
section
/-! DEFINITION. Link transfers at their source and their destination, and notify counters (spec/12 R339 to R344, R349, R350;
spec/16 R457). -/

namespace Sys2Proof.Machine

/-! Packets received (R350, R457). -/

/-- A packet received whole is for this device: not routed, or its DEST is this member. -/
def Dev.mine (d : Dev) (k : Pkt) : Bool := k.hdr.hop1 || k.hdr.dest == d.links.member
/-- The port a packet came in on: where it waits, else the first port toward its source. -/
def Dev.portOf (d : Dev) (k : Pkt) : PortNo :=
  match ((List.range 8).map fun n => (BitVec.ofNat 3 n : PortNo)).find? fun p => (d.port p).inq.contains k with
  | some p => p
  | none => ((d.upPorts (d.routeTo k.hdr.src).ports.toNat).head?).getD 0
/-- Key of a partition and a member in the XID tables. -/
def xidKey (p : PartNo) (m : MemberNo) : Nat := p.toNat * 64 + m.toNat
/-- An answer carries the XID of the message it answers. -/
def isAnswer (typ : Nat) : Bool := [0x02, 0x04, 0x06, 0x11].contains typ
/-- The extended XID nearest to a reference. -/
def nearestXid (ref x : Nat) : Nat :=
  let b := ref / 65536 * 65536 + x
  let far := fun y => if y ≤ ref then ref - y else y - ref
  let c := if far (b + 65536) < far b then b + 65536 else b
  if 65536 ≤ b ∧ far (b - 65536) < far c then b - 65536 else c
/-- The extended XID of a packet: nearest to the highest seen from its source, or to this device's own last one for an answer. -/
def Dev.extXid (d : Dev) (k : Pkt) : Nat :=
  let key := xidKey k.hdr.part k.hdr.src
  nearestXid (if isAnswer k.typ.toNat then Tbl.get 0 d.links.xid key else Tbl.get 0 d.links.xidSeen key) k.hdr.xid.toNat
/-- The plain body of a packet; none where its tag fails, or where a confidential partition's packet carries none. -/
def Dev.openBody (d : Dev) (k : Pkt) : Option (List Byte) :=
  let q := d.part k.hdr.part
  if k.hdr.enc then
    match q.keyLink with
    | none => none
    | some key =>
      Config.gcmOpen key (linkNonce k.typ.toNat k.hdr.src k.hdr.dest (d.extXid k) k.off.toNat)
        (pktHdrBytes k.hdr k.typ.toNat k.off.toNat (k.body.length - 16)) k.body
  else if q.conf then none else some k.body
/-- The highest extended XID seen, noted. -/
def Dev.seeXid (d : Dev) (k : Pkt) : Dev :=
  if isAnswer k.typ.toNat then d
  else { d with links := { d.links with xidSeen := Tbl.mod 0 d.links.xidSeen (xidKey k.hdr.part k.hdr.src) (max (d.extXid k)) } }
/-- A packet of a type, for this device, processed: its space is freed; one whose tag fails is dropped and counted, and its
partition enters Safe Hold. -/
def State.recv (s : State) (typ : Nat) (k : Pkt) (f : List Byte → State → State) : State :=
  if k.typ.toNat ≠ typ ∨ s.dev.mine k = false then s
  else
    let p := s.dev.portOf k
    let d := s.dev.processed k
    match s.dev.openBody k with
    | none =>
      let d := (d.count (elkReg p 0x60) (0x5002 * 256 + 7) 1).setEvt (.elkEvt p) 0x80
      ({ s with dev := d }).partHold k.hdr.part 0x08
    | some b => f b { s with dev := d.seeXid k }
/-- The same with an effect on the device alone. -/
def State.recvDev (s : State) (typ : Nat) (k : Pkt) (f : List Byte → Dev → Dev) : State :=
  s.recv typ k fun b s => { s with dev := f b s.dev }
/-- XIDs that have run out place their partition in Safe Hold (R457). -/
def State.xidGuard (s : State) : State :=
  (s.dev.links.xid.filter fun e => decide (2 ^ 52 ≤ e.2)).foldl (fun s e => s.partHold (BitVec.ofNat 3 (e.1 / 64)) 0x0B) s

/-! The source (R339 to R342, R345). -/

/-- A slot that a transfer's codec may use: owned, READY, of the right kind and ETYPE, at the expected version. -/
def Dev.codecOk (d : Dev) (p : PartNo) (codec slot : Nat) (ver : W32) : Bool :=
  let s := d.slot slot
  codec == 0 || (d.slotOwned p slot && s.st == .ready && s.version == ver &&
    (if codec = 1 then s.kind == 1 && Ty.ofCode s.etype.toNat == some .bf16 else s.kind == 3))
/-- OPEN: words W2 to W5 of the LINK_PUT, then the block count (log entry 58). -/
def Dev.sendOpen (d : Dev) (x : SrcXfer) : Dev :=
  let e := d.tagE x.t
  let body := (e.desc.bytes.drop 16).take 32 ++ natLe 4 x.blocks
  d.sendVia (lkPorts e.desc) (d.mkPkt 0x01 e.desc.part x.member (x.wraps * 65536 + x.xid.toNat) 0 body)
/-- A source's transfer replaced. -/
def Dev.setSrc (d : Dev) (x : SrcXfer) : Dev :=
  { d with links := { d.links with src := d.links.src.map fun (y : SrcXfer) => if y.t = x.t then x else y } }
/-- The code of one block: mode and coded body. -/
def Dev.encodeBlock (d : Dev) (x : Desc) (plain : List Byte) : Nat × List Byte × Dev :=
  let im := (d.slot (lkSlot x)).image
  if lkCodec x = 1 then
    match expEncode im plain with
    | some b => (modeEXP, b, d)
    | none => (modePLAIN, plain, d)
  else if lkCodec x = 2 then
    match vqEncode (fun i => (Config.freeWord (d.draws + i)).toNat) im plain with
    | some b => (modeVQ, b, { d with draws := d.draws + plain.length })
    | none => (modePLAIN, plain, d)
  else (modePLAIN, plain, d)
/-- DATA packets that wait at a port: the encoder stays at most four blocks ahead of it (R348). -/
def Port.ahead (q : Port) : Nat := (q.out.filter fun k => k.1.typ == 0x03 && k.2.isNone).length
/-- Blocks of an accepted transfer sent while its ports take them, by fuel (R341, R356). -/
def Dev.pumpPut : Nat → Dev → Tag → Dev
  | 0, d, _ => d
  | fuel + 1, d, t =>
    match d.links.src.find? (·.t == t) with
    | none => d
    | some x =>
      let e := d.tagE t
      let w := e.desc
      match d.viaPort (lkPorts w) x.member with
      | none => d
      | some p =>
        if !x.opened || decide (x.blocks ≤ x.next) || decide (4 ≤ (d.port p).ahead) then d
        else
          let off := urOff (w.w 1) + x.next * blkPlain
          let n := min blkPlain (lkLen w - x.next * blkPlain)
          match d.accessGrans ((gransOf off n).map fun g => (urObj (w.w 1), g)) [] with
          | (.damaged _ _, d) => d.uncorrectable t 0 0
          | (.waits, d) => d
          | (.ready, d) =>
            let r := d.encodeBlock w (d.objRead (urObj (w.w 1)) off n)
            let d := r.2.2
            let plain := r.1 == modePLAIN
            let body := codecHdr (if plain then 0 else (lkSlotVer w).toNat) r.2.1.length n (if plain then 0 else lkSlot w) r.1 ++ r.2.1
            let d := (d.count (elkReg p 0x48) (0x5002 * 256 + 1) n).count (elkReg p 0x50) (0x5002 * 256 + 2) r.2.1.length
            let d := d.setSrc { x with next := x.next + 1, coded := x.coded + r.2.1.length }
            let d := d.sendVia (lkPorts w) (d.mkPkt 0x03 w.part x.member (x.wraps * 65536 + x.xid.toNat) x.next body)
            Dev.pumpPut fuel d t
/-- Every accepted transfer goes on. -/
def Dev.pumpPuts (d : Dev) : Dev := (d.links.src.map (·.t)).foldl (fun d t => Dev.pumpPut 512 d t) d

/-- LINK_PUT opens its transfer, and goes on sending. -/
def doLinkPut (t : Tag) (d : Dev) : Dev :=
  let x := (d.tagE t).desc
  if !d.runs t 0x50 then d
  else if d.links.src.any (·.t == t) then Dev.pumpPut 512 d t
  else if !(d.routeTo (lkMember x)).valid then d.fails t 0x80 0 0
  else if !d.codecOk x.part (lkCodec x) (lkSlot x) (lkSlotVer x) then d.fails t 0x81 0 (d.slot (lkSlot x)).version.toNat
  else
    let d := if lkCodec x = 0 then d else d.takeUse t (lkSlot x)
    let r := d.nextXid x.part (lkMember x)
    let s : SrcXfer := ⟨t, BitVec.ofNat 16 r.1, r.1 / 65536, lkMember x, false, false, 0, ceilDiv (lkLen x) blkPlain, 0⟩
    { r.2 with links := { r.2.links with src := r.2.links.src ++ [s] } }.sendOpen s

def State.linkPut (s : State) (t : Tag) : State := ({ s with dev := doLinkPut t s.dev }).xidGuard

def execLinkPut (t : Tag) (s : State) : Host.Outcome State Fault Refusal := .next (s.linkPut t)

/-- The transfer of this device that an answer names. -/
def Dev.answered (d : Dev) (k : Pkt) : Option SrcXfer :=
  d.links.src.find? fun x => x.member == k.hdr.src && x.xid == k.hdr.xid && (d.tagE x.t).desc.part == k.hdr.part
/-- OPEN_ACK. -/
def Dev.openAcked (d : Dev) (k : Pkt) (b : List Byte) : Dev :=
  match d.answered k with
  | none => d
  | some x =>
    let t := x.t
    let no := fun (st : Byte) (detail : BitVec 16) (res : Nat) => (d.dropSrc t).fails t st detail res
    if x.opened || x.busy then d
    else match (b.getD 0 0).toNat with
    | 0 => Dev.pumpPut 512 (d.setSrc { x with opened := true }) t
    | 1 => no stRIGHTS (locator 2 0 4) 0
    | 2 => no stLENGTH (locator 2 0 2) 0
    | 3 => no stSTALE 0 0
    | 4 => no 0x81 0 (leNat ((b.drop 1).take 4))
    | 5 => (d.setSrc { x with busy := true }).addCnt (elkReg (d.portOf k) 0x68) 1
    | _ => d

def execOpenAck (k : Pkt) (s : State) : Host.Outcome State Fault Refusal := .next (s.recvDev 0x02 k fun b d => d.openAcked k b)

def doOpenRetry (t : Tag) (d : Dev) : Dev :=
  match d.links.src.find? (·.t == t) with
  | none => d
  | some x => if x.busy then (d.setSrc { x with busy := false }).sendOpen x else d

def execOpenRetry (t : Tag) (s : State) : Host.Outcome State Fault Refusal := s.onDev (doOpenRetry t)

/-- The status a DONE packet brings: a code of R14 or one of R342; any other is no status of a LINK_PUT, and the end of its transfer is not known
to be good (log entry 113). -/
def doneStatus (st : Byte) : Byte := if st.toNat ≤ 0x0C ∨ st = 0x80 ∨ st = 0x81 then st else stUNCORR
/-- DONE: the command completes with the destination's status; RESULT is the coded bytes in KiB, rounded up and saturated (R339). -/
def Dev.putDone (d : Dev) (k : Pkt) (b : List Byte) : Dev :=
  match d.answered k with
  | none => d
  | some x =>
    let d := d.dropSrc x.t
    let st := doneStatus (b.getD 0 0)
    if stSuccess st then d.completeOk x.t (min (ceilDiv x.coded 1024) (2 ^ 32 - 1))
    else d.fails x.t st (if st = stUNCORR then 0x000D else 0) 0

def execDonePkt (k : Pkt) (s : State) : Host.Outcome State Fault Refusal := .next (s.recvDev 0x04 k fun b d => d.putDone k b)

/-- NACK: the source learns that its packet named no open transfer; the manual gives it nothing more to do (log entry 59). -/
def execNack (k : Pkt) (s : State) : Host.Outcome State Fault Refusal := .next (s.recvDev 0x06 k fun _ d => d)

/-! The destination (R341, R343, R345, R349). -/

/-- The answer to an OPEN: code, and the slot's version. -/
def Dev.openCheck (d : Dev) (k : Pkt) (x : DstXfer) : Nat :=
  let o := urObj x.dst.toNat
  let b := d.obj o
  if k.hdr.pepoch ≠ (d.part k.hdr.part).epoch then 3
  else if isSp x.dst.toNat || !urFormed x.dst.toNat || decide (o = 0) || !(b.st == .live || b.st == .opened) || b.part != k.hdr.part then 1
  else if b.size < urOff x.dst.toNat + x.len then 2
  else if !d.codecOk k.hdr.part x.codec.toNat x.slot.toNat x.slotVer then 4
  else if 256 ≤ d.links.dst.length then 5
  else 0
/-- The transfer an OPEN asks for. -/
def openAsk (k : Pkt) (b : List Byte) : DstXfer :=
  let w := fun i => leNat ((b.drop (8 * i)).take 8)
  { src := k.hdr.src, xid := k.hdr.xid, part := k.hdr.part, epoch := k.hdr.pepoch, dst := BitVec.ofNat 64 (w 0), len := fld (w 1) 39 0,
    add := fld (w 2) 33 32 == 1, etype := BitVec.ofNat 4 (fld (w 2) 31 28), codec := BitVec.ofNat 2 (fld (w 2) 21 20),
    slot := BitVec.ofNat 6 (fld (w 2) 27 22), slotVer := BitVec.ofNat 32 (fld (w 3) 31 0),
    notify := if bitN (w 2) 41 then some (BitVec.ofNat 6 (fld (w 2) 47 42)) else none, blocks := leNat ((b.drop 32).take 4), got := [] }
/-- The open transfer a packet belongs to. -/
def Dev.openDst (d : Dev) (k : Pkt) : Option DstXfer :=
  d.links.dst.find? fun x => x.src == k.hdr.src && x.xid == k.hdr.xid && x.part == k.hdr.part && x.epoch == k.hdr.pepoch
/-- An answer to the source of a packet, under the XID it chose. -/
def Dev.answer (d : Dev) (typ : Nat) (k : Pkt) (body : List Byte) : Dev := d.send (d.mkPkt typ k.hdr.part k.hdr.src (d.extXid k) 0 body)
/-- OPEN: checked and answered; a transfer already open is accepted again. -/
def Dev.opened (d : Dev) (k : Pkt) (b : List Byte) : Dev :=
  let x := openAsk k b
  let c := if (d.openDst k).isSome then 0 else d.openCheck k x
  let v := (d.slot x.slot.toNat).version.toNat
  let p := d.portOf k
  let d := if c = 3 then (d.count (elkReg p 0x58) (0x5002 * 256 + 6) 1).setEvt (.elkEvt p) 0x40 else d
  let d := if c ≠ 0 ∨ (d.openDst k).isSome = true then d else
    let d := d.takeRefs [urObj x.dst.toNat]
    let d := if x.codec = 0 then d else d.setSlot x.slot.toNat { d.slot x.slot.toNat with uses := (d.slot x.slot.toNat).uses + 1 }
    { d with links := { d.links with dst := d.links.dst ++ [x] } }
  d.answer 0x02 k (BitVec.ofNat 8 c :: natLe 4 v)

def execOpenPkt (k : Pkt) (s : State) : Host.Outcome State Fault Refusal := .next (s.recvDev 0x01 k fun b d => d.opened k b)

/-- A destination's transfer closes: its references return. -/
def Dev.closeDst (d : Dev) (x : DstXfer) : Dev :=
  let d := { d with links := { d.links with dst := d.links.dst.filter (· ≠ x) } }
  let d := d.dropRefs [urObj x.dst.toNat]
  if x.codec = 0 then d else d.setSlot x.slot.toNat { d.slot x.slot.toNat with uses := (d.slot x.slot.toNat).uses - 1 }
/-- It closes with its region undefined (R342). -/
def Dev.spoilDst (d : Dev) (x : DstXfer) : Dev := (d.memFree x.dst.toNat 0 x.len).closeDst x

def execAbortPkt (k : Pkt) (s : State) : Host.Outcome State Fault Refusal :=
  .next (s.recvDev 0x05 k fun _ d => match d.openDst k with
    | none => d
    | some x => d.spoilDst x)

/-- A notify counter of a partition (R344). -/
def nctrKey (p : PartNo) (c : Nat) : Nat := p.toNat * 64 + c
def Dev.nctr (d : Dev) (p : PartNo) (c : Nat) : Nat := Tbl.get 0 d.links.nctr (nctrKey p c)
def Dev.setNctr (d : Dev) (p : PartNo) (c v : Nat) : Dev :=
  { d with links := { d.links with nctr := Tbl.set 0 d.links.nctr (nctrKey p c) v } }
/-- Every block is visible: NOTIFY's count is raised, DONE goes out, the transfer closes. -/
def Dev.dstDone (d : Dev) (k : Pkt) (x : DstXfer) : Dev :=
  let d := match x.notify with
    | none => d
    | some c => d.setNctr x.part c.toNat (min (d.nctr x.part c.toNat + 1) (2 ^ 32 - 1))
  (d.answer 0x04 k [stDONE]).closeDst x
/-- The plain bytes of a DATA body for its transfer; none where its header or code is inconsistent with it. -/
def Dev.decodeBlock (d : Dev) (x : DstXfer) (idx : Nat) (b : List Byte) : Option (List Byte) :=
  let h := leNat (b.take 8)
  let body := b.drop 8
  let n := min blkPlain (x.len - idx * blkPlain)
  let im := (d.slot x.slot.toNat).image
  let mode := fld h 15 14
  if b.length < 8 ∨ fld h 13 0 ≠ 0 ∨ x.blocks ≤ idx ∨ x.len ≤ idx * blkPlain ∨ fld h 34 22 ≠ n ∨ fld h 47 35 ≠ body.length then none
  else if mode = modePLAIN then (if fld h 63 48 ≠ 0 ∨ fld h 21 16 ≠ 0 ∨ body.length ≠ n then none else some body)
  else if mode ≠ x.codec.toNat ∨ fld h 63 48 ≠ x.slotVer.toNat % 65536 ∨ fld h 21 16 ≠ x.slot.toNat then none
  else if mode = modeEXP then expDecode im body (n / 2) else vqDecode im body n
/-- Elements added in FP32 and converted back (R343). -/
def addElems (t : Ty) (old new : List Byte) : List Byte :=
  let n := old.length / t.bytes
  packCodes t (List.zipWith (fun a b => (f32To t (f32Add (codeToF32 t a) (codeToF32 t b))).code) (unpackCodes t n old) (unpackCodes t n new))
/-- A transfer's block cannot be taken: retried as a failed access until its retries run out, then UNCORRECTABLE (R105, R345). -/
def Dev.dstFail (d : Dev) (k : Pkt) (x : DstXfer) : Dev :=
  let d := d.count (pwrReg 0x30) (0x7000 * 256 + 2) (d.retryLimit + 1)
  (d.answer 0x04 k [stUNCORR]).spoilDst x
/-- A block decoded and written, or added; the last one closes the transfer. -/
def Dev.landBlock (d : Dev) (k : Pkt) (x : DstXfer) (b : List Byte) : Dev :=
  let idx := k.off.toNat
  match d.decodeBlock x idx b with
  | none => d.dstFail k x
  | some plain =>
    let o := urObj x.dst.toNat
    let off := urOff x.dst.toNat + idx * blkPlain
    let out := if x.add then addElems (tyOr (Ty.ofCode x.etype.toNat)) (d.objRead o off plain.length) plain else plain
    let d := d.objWrite o off out
    let y := { x with got := if x.got.contains idx then x.got else x.got ++ [idx] }
    let d := { d with links := { d.links with dst := d.links.dst.map fun z => if z = x then y else z } }
    if y.got.length = y.blocks then d.dstDone k y else d
/-- DATA at its destination: a block for no open transfer is dropped and answered with NACK; one that meets a granule on the move
waits; a damaged granule under an ADD ends the transfer. -/
def State.dataIn (s : State) (k : Pkt) : State :=
  if k.typ ≠ 0x03 ∨ s.dev.mine k = false then s
  else match s.dev.openDst k with
    | none => s.recvDev 0x03 k fun _ d =>
        let r := d.freeBytes 1
        r.2.answer 0x06 k r.1
    | some x =>
      let o := urObj x.dst.toNat
      let gs := (gransOf (urOff x.dst.toNat + k.off.toNat * blkPlain) (min blkPlain (x.len - k.off.toNat * blkPlain))).map fun g => (o, g)
      match s.dev.accessGrans (if x.add then gs else []) gs with
      | (.damaged _ _, d) => ({ s with dev := d }).recvDev 0x03 k fun _ d => d.dstFail k x
      | (.waits, d) => { s with dev := d }
      | (.ready, d) => ({ s with dev := d }).recvDev 0x03 k fun b d => d.landBlock k x b

/-- The decoder of the port that received the block frees its space once it is written (R331). -/
def execDataPkt (p : PortNo) (k : Pkt) (s : State) : Host.Outcome State Fault Refusal :=
  .next (if (s.dev.port p).inq.contains k || ((List.range 8).all fun n => !((s.dev.port (BitVec.ofNat 3 n)).inq.contains k)) then s.dataIn k else s)

/-! LINK_WAIT (R344). -/

def doLinkWait (t : Tag) (d : Dev) : Dev :=
  let x := (d.tagE t).desc
  let n := d.nctr x.part (lwNctr x)
  if d.runs t 0x51 && decide (lwTarget x ≤ n) then (d.setNctr x.part (lwNctr x) (n - lwTarget x)).completeOk t (n - lwTarget x) else d

def execLinkWait (t : Tag) (s : State) : Host.Outcome State Fault Refusal := s.onDev (doLinkWait t)

def doLinkWaitTimeout (t : Tag) (d : Dev) : Dev :=
  let e := d.tagE t
  let n := d.nctr e.desc.part (lwNctr e.desc)
  if d.runs t 0x51 && decide (lwTimeout e.desc ≠ 0 ∧ e.started.toNat + lwTimeout e.desc * 1000 ≤ d.now ∧ n < lwTarget e.desc)
  then d.complete t 0x82 0 n else d

def execLinkWaitTimeout (t : Tag) (s : State) : Host.Outcome State Fault Refusal := s.onDev (doLinkWaitTimeout t)

end Sys2Proof.Machine
end

