-- ==== Sys2Proof/Machine/Flits.lean ====
section
/-! DEFINITION. Flits: what a port receives, and the flits that leave when no packet does (spec/12 R325, R328, R330, R331, R337). -/

namespace Sys2Proof

open Machine

/-! The receiver's FEC (R324, R325): up to 8 wrong symbols of a block are put right; a block with more is left as it came. -/

/-- The symbols that came in. -/
def RxFlit.came (fl : RxFlit) : List Byte := fl.wrong.foldl (fun b e => b.set e.1.toNat e.2) (fecBlock fl.flit)
/-- The places that came in wrong. -/
def RxFlit.bad (fl : RxFlit) : List Nat := (List.range 272).filter fun i => fl.came.getD i 0 != (fecBlock fl.flit).getD i 0
/-- The places corrected. -/
def RxFlit.fixed (fl : RxFlit) : List Nat := if fl.bad.length ≤ 8 then fl.bad else []
/-- The flit after FEC. -/
def RxFlit.bytes (fl : RxFlit) : List Byte := if fl.bad.length ≤ 8 then sized 256 fl.flit else fl.came.take 256
def RxFlit.crcOk (fl : RxFlit) : Bool := flitOk fl.bytes
/-- Its header fields and its payload. -/
def RxFlit.hdr (fl : RxFlit) : Nat := leNat (fl.bytes.take 4)
def RxFlit.ft (fl : RxFlit) : Nat := fld fl.hdr 31 30
def RxFlit.fseq (fl : RxFlit) : BitVec 10 := BitVec.ofNat 10 (fld fl.hdr 29 20)
def RxFlit.ack (fl : RxFlit) : Nat := fld fl.hdr 19 10
def RxFlit.crdVc (fl : RxFlit) : Nat := fld fl.hdr 9 8
def RxFlit.crd (fl : RxFlit) : Nat := fld fl.hdr 7 0
def RxFlit.payload (fl : RxFlit) : List Byte := (fl.bytes.drop 4).take 248

end Sys2Proof

namespace Sys2Proof.Machine

/-- The packet whose last flit has come: forwarded on its route, or left to be processed. -/
def Dev.arrived (d : Dev) (p : PortNo) (k : Pkt) : Dev :=
  if d.mine k then d.setPort p { d.port p with inq := (d.port p).inq ++ [k] } else d.sendFrom 0 k (some p)
/-- Corrected symbols counted, on the port and on the lanes they came over. -/
def Dev.countFec (d : Dev) (p : PortNo) (fl : RxFlit) : Dev :=
  let q := d.port p
  let d := d.setPort p { q with fixed := fl.fixed.foldl (fun t i => Tbl.mod 0 t (q.lanes.getD (i % q.lanes.length) 0) (· + 1)) q.fixed }
  d.addCnt (elkReg p 0x18) fl.fixed.length

/-- The bytes of the packet being received with a payload more, and the flits still to come. -/
def rxNext (rx : Option (List Byte × Nat)) (payload : List Byte) : List Byte × Nat :=
  match rx with
  | none => (payload, hdrFlits payload - 1)
  | some r => (r.1 ++ payload, r.2 - 1)
/-- A PKT flit accepted: it takes its place in a receive buffer and belongs to the packet being received. -/
def Dev.acceptFlit (d : Dev) (p : PortNo) (fl : RxFlit) : Dev :=
  let q := d.port p
  let r := rxNext q.rx fl.payload
  let vc := pktVc (pktOf r.1).typ.toNat
  let n := Tbl.get 0 q.occ vc + 1
  let q := { q with rxSeq := fl.fseq, occ := Tbl.set 0 q.occ vc n, hwm := if vc = 1 then max q.hwm n else q.hwm }
  let d := d.addCnt (elkReg p 0x10) 1
  if r.2 = 0 then ((d.setPort p { q with rx := none }).retunePoint p).arrived p (pktOf r.1)
  else (d.setPort p { q with rx := some r }).retunePoint p

/-- What a flit of a good CRC brings besides its payload: the ACK, and the credits of one that is not discarded (log entry 112). -/
def Port.headed (q : Port) (fl : RxFlit) : Port :=
  let q1 := { q with retry := ackFlits fl.ack q.retry }
  if fl.crdVc < 3 ∧ (fl.ft ≠ 1 ∨ fl.fseq = q.rxSeq + 1) then { q1 with credit := Tbl.mod 0 q.credit fl.crdVc (· + fl.crd) } else q1

def doFlitReceive (p : PortNo) (fl : RxFlit) (d : Dev) : Dev :=
  if (d.port p).st ≠ .up then d
  else
    let d := if fl.fixed = [] then d else d.countFec p fl
    if !fl.crcOk then
      let d := d.addCnt (elkReg p 0x20) 1
      d.setPort p { d.port p with ctrl := (d.port p).ctrl ++ [.nak (d.port p).rxSeq] }
    else
      let q := d.port p
      let d := d.setPort p (q.headed fl)
      let d := if fl.ft = 1 ∧ fl.fseq = q.rxSeq + 1 then d.acceptFlit p fl else d
      (Dev.drainPort ((d.port p).out.length + 1) d p).pumpPuts

def execFlitReceive (p : PortNo) (fl : RxFlit) (s : State) : Host.Outcome State Fault Refusal := s.onDev (doFlitReceive p fl)

/-- No flit would leave within 100 ns: a waiting control message, else an IDLE flit, carries credits (R325, R331). How a CTRL
flit spells its message and what an IDLE flit holds is not given: that payload is free. -/
def doIdleFlitTimer (p : PortNo) (d : Dev) : Dev :=
  let q := d.port p
  let r := d.freeBytes 248
  let ft := if q.ctrl.isEmpty then 0 else 2
  if q.st = .up then r.2.setPort p ({ q with ctrl := q.ctrl.drop 1 }.sendOther ft r.1)
  else if q.st = .train then d.setPort p { q with ctrl := q.ctrl.drop 1 } else d

def execIdleFlitTimer (p : PortNo) (s : State) : Host.Outcome State Fault Refusal := s.onDev (doIdleFlitTimer p)


end Sys2Proof.Machine
end

