-- ==== Sys2Proof/Machine/Topology.lean ====
section
/-! DEFINITION. Topologies a head accepts, and the minimal routes from the head (spec/12 R336, R337). -/

namespace Sys2Proof.Machine

/-- Neighbours of each member: the ports of the pair, 0 where they are none. -/
abbrev Adj := Nat → Nat → Nat

/-- Nodes at most one step from a set. -/
def Adj.grow (a : Adj) (ns s : List Nat) : List Nat := ns.filter fun v => s.contains v || s.any fun u => a u v != 0
/-- The distance of `v` from a set that grows step by step; none where it is not reached. -/
def Adj.distGo (a : Adj) (ns : List Nat) (v : Nat) : Nat → List Nat → Nat → Option Nat
  | 0, _, _ => none
  | fuel + 1, s, k => if s.contains v then some k else Adj.distGo a ns v fuel (a.grow ns s) (k + 1)
/-- Hops between two members. -/
def Adj.dist (a : Adj) (ns : List Nat) (u v : Nat) : Option Nat := a.distGo ns v (ns.length + 1) [u] 0
/-- Every member reaches every other. -/
def Adj.connected (a : Adj) (ns : List Nat) : Bool :=
  match ns with
  | [] => true
  | u :: _ => ns.all fun v => (a.dist ns u v).isSome

/-- The port count of every pair of neighbours, where it is the same for all. -/
def Adj.uniform (a : Adj) (n : Nat) : Option Nat :=
  let ks := (List.range n).flatMap fun i => ((List.range n).map (a i)).filter (· ≠ 0)
  match ks with
  | [] => none
  | k :: ks => if ks.all (· == k) then some k else none
/-- Neighbours of a member. -/
def Adj.nbrs (a : Adj) (n v : Nat) : List Nat := (List.range n).filter fun u => a v u != 0

/-- Places of the members: coordinates on a mesh, labels on a hypercube. -/
inductive Places where
  | direct
  | mesh (x y : Nat) (at' : List (Nat × Nat))
  | cube (dim : Nat) (label : List Nat)
deriving DecidableEq, Repr

/-- Difference of two numbers. -/
def absDiff (a b : Nat) : Nat := if a ≤ b then b - a else a - b
/-- Coordinates of a 2-D mesh whose X axis runs from corner `c0` to corner `c1`, where the members form one. -/
def meshFrom (a : Adj) (n c0 c1 : Nat) : Option Places :=
  let ns := List.range n
  match a.dist ns c0 c1 with
  | none => none
  | some w =>
    let x := w + 1
    let y := n / x
    let at' := ns.map fun v =>
      let d0 := (a.dist ns c0 v).getD 0
      let d1 := (a.dist ns c1 v).getD 0
      ((d0 + w - d1) / 2, (d0 + d1 - w) / 2)
    let ok := ns.all fun i => ns.all fun j =>
      let p := at'.getD i (0, 0)
      let q := at'.getD j (0, 0)
      decide (p.1 < x ∧ p.2 < y) && (decide (i = j) || (p != q && ((a i j != 0) == (absDiff p.1 q.1 + absDiff p.2 q.2 == 1))))
    if 2 ≤ x ∧ x ≤ 8 ∧ 2 ≤ y ∧ y ≤ 8 ∧ x * y = n ∧ ok = true then some (.mesh x y at') else none
/-- The first pair of corners, in member order, that makes the members a 2-D mesh (log entry 62). -/
def asMesh (a : Adj) (n : Nat) : Option Places :=
  let cs := (List.range n).filter fun v => (a.nbrs n v).length == 2
  (cs.flatMap fun c0 => (cs.filter (· ≠ c0)).map fun c1 => (c0, c1)).findSome? fun p => meshFrom a n p.1 p.2

/-- Labels level by level from the head: its neighbours in member order take the dimensions in ascending order, every other
member the union of its neighbours one level nearer (log entry 62). -/
def cubeLabel (a : Adj) (n : Nat) : Nat → List Nat
  | 0 => (List.range n).map fun v => match (a.nbrs n 0).idxOf? v with
    | some i => 2 ^ i
    | none => 0
  | k + 1 =>
    let l := cubeLabel a n k
    (List.range n).map fun v => if (a.dist (List.range n) 0 v) = some (k + 2) then
      ((a.nbrs n v).filter fun u => (a.dist (List.range n) 0 u) == some (k + 1)).foldl (fun s u => s ||| l.getD u 0) 0 else l.getD v 0
/-- Ones in a number of at most 8 bits. -/
def ones (x : Nat) : Nat := (setBits x 8).length
/-- The members as a hypercube of dimension 2 to 6. -/
def asCube (a : Adj) (n : Nat) : Option Places :=
  let dim := (a.nbrs n 0).length
  if 2 ≤ dim ∧ dim ≤ 6 ∧ n = 2 ^ dim then
    let l := cubeLabel a n (dim - 1)
    let ns := List.range n
    if ns.all fun i => ns.all fun j => decide (i = j) || ((a i j != 0) == (ones (l.getD i 0 ^^^ l.getD j 0) == 1) && l.getD i 0 != l.getD j 0)
    then some (.cube dim l) else none
  else none

/-- The topology of `n` members, with its code of 0x5000:0x06 and the places of the members; none where R336 does not support it. -/
def topologyOf (a : Adj) (n : Nat) : Option (Nat × Places) :=
  let ns := List.range n
  match a.uniform n with
  | none => none
  | some k =>
    let full := ns.all fun i => ns.all fun j => decide (i = j) || a i j != 0
    if n = 2 then (if full && decide (k ≤ 8) then some (1, .direct) else none)
    else if full && decide (3 ≤ n ∧ n ≤ 9 ∧ k ≤ 8 / (n - 1)) then some (2, .direct)
    else match asMesh a n with
      | some p => if k ≤ 2 then some (3, p) else none
      | none => match asCube a n with
        | some (.cube dim l) => if k = 1 ∨ k = 2 ∧ dim ≤ 4 then some (4, .cube dim l) else none
        | _ => none

/-- The head's next member and hops toward member `m`: X before Y on a mesh, ascending dimensions on a hypercube (R337). -/
def Places.toward (p : Places) (m : Nat) : Nat × Nat :=
  match p with
  | .direct => (m, 1)
  | .mesh _ _ at' =>
    let u := at'.getD 0 (0, 0)
    let v := at'.getD m (0, 0)
    let step := fun a b => if a < b then a + 1 else a - 1
    let w := if u.1 ≠ v.1 then (step u.1 v.1, u.2) else (u.1, step u.2 v.2)
    ((at'.idxOf? w).getD m, absDiff u.1 v.1 + absDiff u.2 v.2)
  | .cube dim l =>
    let x := l.getD m 0
    match (List.range dim).find? (bitN x) with
    | none => (m, 0)
    | some b => ((l.idxOf? (2 ^ b)).getD m, ones x)

/-- A minimal route in what remains of a group: the neighbour nearest to `m`, the lowest on ties; none where none reaches it. -/
def Adj.toward (a : Adj) (ns : List Nat) (m : Nat) : Option (Nat × Nat) :=
  (ns.filter fun v => a 0 v != 0).foldl (fun (b : Option (Nat × Nat)) v =>
    match a.dist (ns.filter (· ≠ 0)) v m with
    | none => b
    | some k => match b with
      | none => some (v, k + 1)
      | some r => if k + 1 < r.2 then some (v, k + 1) else b) none

end Sys2Proof.Machine
end

