-- ==== Sys2Proof/Machine/Group.lean ====
section
/-! DEFINITION. The device group: formation, joining and leaving, forwarded commands, beats, time, loss and removal (spec/12 R333 to
R338, R351, R352, R360). -/

namespace Sys2Proof.Machine

/-! Members and routes (R334, R336, R337). -/

def Dev.memberOf (d : Dev) (m : Nat) : Member := Tbl.get Member.reset d.links.members m
def Dev.setMember (d : Dev) (m : Nat) (v : Member) : Dev :=
  { d with links := { d.links with members := Tbl.set Member.reset d.links.members m v } }
/-- Numbers of the members of this head's group, lost ones included. -/
def Dev.memberNos (d : Dev) : List Nat := d.links.members.map (·.1)
/-- Members present. -/
def Dev.presentNos (d : Dev) : List Nat := (d.links.members.filter (·.2.present)).map (·.1)
/-- UP ports whose partner has a serial. -/
def Dev.portsTo (d : Dev) (serial : List Byte) : Nat :=
  (List.range 8).foldl (fun m n => let q := d.port (BitVec.ofNat 3 n)
    if q.st == .up && q.partner == serial then m + 2 ^ n else m) 0
/-- Neighbours as the head knows them: its own by its ports, the others' by what discovery found. -/
def Dev.adj (d : Dev) : Adj := fun u v =>
  if u = 0 then ones (d.portsTo (d.memberOf v).serial) else (lookupKey v (Tbl.get [] d.links.nbrs u)).getD 0
/-- The head's route entry through a neighbour. -/
def Dev.routeVia (d : Dev) (next hops : Nat) : Route :=
  ⟨BitVec.ofNat 4 hops, true, BitVec.ofNat 6 next, BitVec.ofNat 8 (d.portsTo (d.memberOf next).serial)⟩
/-- The head's route table written: by the topology where there is one, its members those present in ascending number (log entry 63), else by what
remains (R337, R351). -/
def Dev.writeRoutes (d : Dev) (pl : Option Places) : Dev :=
  let ns := d.presentNos
  let r := (ns.filter (· ≠ 0)).foldl (fun (t : Tbl Route) m =>
    match pl with
    | some p => let h := p.toward (ns.idxOf m)
      Tbl.set Route.reset t m (d.routeVia (ns.getD h.1 0) h.2)
    | none => match d.adj.toward ns m with
      | some h => Tbl.set Route.reset t m (d.routeVia h.1 h.2)
      | none => t) []
  { d with links := { d.links with route := r } }
/-- Ports learn their partners' member numbers. -/
def Dev.namePartners (d : Dev) : Dev :=
  (List.range 8).foldl (fun d n =>
    let p : PortNo := BitVec.ofNat 3 n
    match d.links.members.find? fun e => e.1 != 0 && e.2.serial == (d.port p).partner with
    | some e => d.setPort p { d.port p with partnerMember := BitVec.ofNat 6 e.1 }
    | none => d) d
/-- Neighbours of the members present, taken in ascending number (log entry 63). -/
def Dev.presentAdj (d : Dev) : Adj := fun i j => d.adj (d.presentNos.getD i 0) (d.presentNos.getD j 0)
/-- Routes written anew, by the topology where R336 supports the members as they are. -/
def Dev.reroute (d : Dev) : Dev :=
  match topologyOf d.presentAdj d.presentNos.length with
  | some t => ({ d with links := { d.links with topology := t.1 } }).writeRoutes (some t.2)
  | none => d.writeRoutes none
/-- A GROUP packet to a member; its body is the firmware's own (log entry 45). -/
def Dev.sendGroup (d : Dev) (m : Nat) : Dev :=
  let b := d.freeBytes 8
  let x := b.2.nextXid 0 (BitVec.ofNat 6 m)
  x.2.send (x.2.mkPkt 0x40 0 (BitVec.ofNat 6 m) x.1 0 b.1)
/-- A satellite reports to its head the level it reckons with, once that is no longer `old` (R474, log entry 115). -/
def Dev.toldLevel (old : Nat) (d : Dev) : Dev := if d.links.group = .satellite ∧ d.planLevel ≠ old then d.sendGroup 0 else d
def State.toldLevel (old : Dev) (s : State) : State := { s with dev := s.dev.toldLevel old.planLevel }
/-- A GROUP packet for the neighbour at a port alone, as before routes exist (R332). -/
def Dev.sendHop (d : Dev) (p : PortNo) : Dev :=
  let b := d.freeBytes 8
  let x := b.2.nextXid 0 0
  x.2.portSend p (x.2.mkPktHop true 0x40 0 0 x.1 0 b.1) none
/-- Discovery: a GROUP packet to the neighbour at every UP port. -/
def Dev.discover (d : Dev) : Dev :=
  (((List.range 8).map fun n => (BitVec.ofNat 3 n : PortNo)).filter fun p => (d.port p).st == .up).foldl Dev.sendHop d
/-- A new link key for every confidential partition at a join (spec/16 R442). -/
def Dev.newLinkKeys (d : Dev) : Dev :=
  (List.range 8).foldl (fun d n =>
    let p : PortNo := BitVec.ofNat 3 n
    if (d.part p).conf && (d.part p).keyLink.isSome then
      let d := d.setPart p { d.part p with keyLink := some d.sec.keys }
      { d with sec := { d.sec with keys := d.sec.keys + 1, requests := d.sec.requests + 1 } }
    else d) d

/-! Transfers and commands of a member that is gone (R342, R351). -/

/-- Transfers to and from a member end LK_UNREACHABLE. -/
def Dev.unreach (d : Dev) (m : MemberNo) : Dev :=
  let d := (d.links.src.filter (·.member == m)).foldl (fun d x => (d.dropSrc x.t).fails x.t 0x80 0 0) d
  (d.links.dst.filter (·.src == m)).foldl Dev.spoilDst d
/-- The firmware's commands forwarded to a member end UNCORRECTABLE with DETAIL 0x000B. -/
def Dev.dropFwd (d : Dev) (m : MemberNo) : Dev :=
  let fs := d.links.fwd.filter (·.member == m)
  let d := { d with links := { d.links with fwd := d.links.fwd.filter (·.member != m) } }
  fs.foldl (fun d f => d.noteStep m f.tag stUNCORR 0x000B) d
/-- Plans whose member count takes in `m`. -/
def Plan.names (p : Plan) (m : Nat) : Bool := p.runs && decide (m < p.members)

/-! Group commands (R335, R352, R360). -/

/-- Values of 0x5011:0x01. -/
def groupCmdValue (v : Nat) : Bool := v == 1 || v == 2 || decide (0x100 ≤ v ∧ v < 0x140) || decide (0x200 ≤ v ∧ v < 0x240)
/-- A group command is accepted. -/
def Dev.groupCmdOk (d : Dev) (v : Nat) : Bool :=
  groupCmdValue v && d.links.group != .satellite && d.feature 5 && d.links.cmd == 0
/-- It runs; a formation makes a SOLO device FORMING, and discovery begins. -/
def Dev.groupBegin (d : Dev) (v : Nat) : Dev :=
  if d.groupCmdOk v then
    let d := { d with links := { d.links with cmd := BitVec.ofNat 16 v } }
    if v = 1 ∧ d.links.group = .solo then ({ d with links := { d.links with group := .forming } }).discover else d
  else d
/-- The command of a row that is running, or that the row itself begins. -/
def Dev.groupRuns (d : Dev) (v : Nat) : Dev := if d.links.cmd = 0 then d.groupBegin v else d
/-- It ends: the result, and the event bits that go with it. -/
def Dev.groupEnd (d : Dev) (res evts : Nat) : Dev :=
  { d with links := { d.links with cmd := 0, result := BitVec.ofNat 8 res } }.setEvt .elkGevt evts
def evtTOPOLOGY : Nat := 1
def evtJOIN : Nat := 2
/-- Why a device cannot join: 2 busy, 3 version. -/
def joinNo (f : Found) : Option Nat := if !f.free then some 2 else if !f.versionOk then some 3 else none
/-- The serial of the device. -/
def ownSerial : List Byte := Config.serial
/-- Serials of the member list but for this device's own. -/
def Links.listed (l : Links) : List (List Byte) :=
  ((List.range (l.list.length / 12)).map fun i => (l.list.drop (12 * i)).take 12).filter (· ≠ ownSerial)
/-- The discovered devices in member order with their discovery numbers: by the list, or as found; none where the list and the
discovery differ (log entry 61). -/
def Links.ordered (l : Links) (fs : List Found) : Option (List (Nat × Found)) :=
  let ns := (List.range fs.length).map fun i => (i + 1, fs.getD i ⟨[], [], false, false⟩)
  if l.list.isEmpty then some ns
  else
    let os := l.listed.filterMap fun s => ns.find? fun f => f.2.serial == s
    if os.length = l.listed.length ∧ os.length = fs.length then some os else none
/-- Members 1 on entered. -/
def Dev.enterMembers (d : Dev) (os : List (Nat × Found)) : Dev :=
  let num := fun i => if i = 0 then 0 else ((os.map (·.1)).idxOf? i).elim 64 (· + 1)
  (List.range os.length).foldl (fun d i =>
    match os[i]? with
    | none => d
    | some (_, f) =>
      let d := d.setMember (i + 1) ⟨true, f.serial, d.now, 0⟩
      { d with links := { d.links with nbrs := Tbl.set [] d.links.nbrs (i + 1) (f.nbrs.map fun e => (num e.1.toNat, ones e.2.toNat)) } }) d
/-- Neighbourhood is mutual. -/
def Dev.adjMutual (d : Dev) : Bool := d.memberNos.all fun u => d.memberNos.all fun v => d.adj u v == d.adj v u
/-- A group gone: SOLO, as after reset but for what outlives it. -/
def Dev.solo (d : Dev) : Dev :=
  { d with links := { d.links with
      group := .solo, member := 0, size := 1, topology := 0, members := [(0, ⟨true, [], 0, 0⟩)], nbrs := [], fresh := false, kept := [],
      route := [], fwd := [], epochWait := [], bridged := [] } }

def doGroupForm (found : List Found) (d0 : Dev) : Dev :=
  let d := d0.groupRuns 1
  if d.links.cmd ≠ 1 then d
  else if d.links.group ≠ .forming then d.groupEnd 2 evtTOPOLOGY
  else
    let fail := fun n => d.solo.groupEnd n evtTOPOLOGY
    match d.links.ordered found with
    | none => fail 6
    | some os =>
      let g := (d.setMember 0 ⟨true, ownSerial, d.now, 0⟩).enterMembers os
      match if g.adjMutual then topologyOf g.adj (os.length + 1) else none with
      | none => fail 1
      | some t =>
        match os.findSome? fun f => joinNo f.2 with
        | some n => fail n
        | none =>
          let g := { g with links := { g.links with group := .grouped, member := 0, size := os.length + 1, topology := t.1 } }
          let g := (g.writeRoutes (some t.2)).namePartners.newLinkKeys
          ((upFrom 1 os.length).foldl Dev.sendGroup g).groupEnd 0 evtJOIN

def execGroupForm (found : List Found) (s : State) : Host.Outcome State Fault Refusal := s.onDev (doGroupForm found)

/-- What a member's going does to the head's work: transfers, forwarded commands, plans. -/
def State.partFrom (s : State) (m : Nat) : State :=
  let k : MemberNo := BitVec.ofNat 6 m
  ({ s with dev := ((s.dev.unreach k).dropFwd k).dropBridged k }).memberGone m

/-- Dissolve: every member leaves, and the head is SOLO. -/
def State.groupDissolve (s : State) : State :=
  let d := s.dev.groupRuns 2
  if d.links.cmd ≠ 2 then { s with dev := d }
  else
    let ms := d.presentNos.filter (· ≠ 0)
    let d := ms.foldl Dev.sendGroup d
    let s := ms.foldl State.partFrom { s with dev := d }
    { s with dev := s.dev.solo.groupEnd 0 (if ms.isEmpty then 0 else evtJOIN) }

def execGroupDissolve (s : State) : Host.Outcome State Fault Refusal := .next s.groupDissolve

/-- A member number nothing has. -/
def Dev.freeMember (d : Dev) (m : Nat) : Bool := m != 0 && !(d.memberNos.contains m)
/-- The number an added device takes: the one the list gives its serial, which the command names; with no list the lowest free one. -/
def Dev.addNo (d : Dev) (m : Nat) (serial : List Byte) : Option Nat :=
  if d.links.list.isEmpty then (upFrom 1 63).find? d.freeMember
  else if d.freeMember m && d.links.listed[m - 1]? == some serial then some m else none

def doGroupAdd (m : MemberNo) (f : Option Found) (d0 : Dev) : Dev :=
  let v := 0x100 + m.toNat
  let d := d0.groupRuns v
  if d.links.cmd.toNat ≠ v then d
  else match f with
    | none => d.groupEnd 6 evtTOPOLOGY
    | some f =>
      match if d.links.group == .grouped || d.links.group == .degraded then d.addNo m.toNat f.serial else none with
      | none => d.groupEnd 6 evtTOPOLOGY
      | some k => match joinNo f with
        | some n => d.groupEnd n evtTOPOLOGY
        | none =>
          let g := d.setMember k ⟨true, f.serial, d.now, 0⟩
          let mine := f.nbrs.map fun e => (e.1.toNat, ones e.2.toNat)
          let nb := mine.foldl (fun (t : Tbl (List (Nat × Nat))) e =>
            if e.1 = 0 then t else Tbl.mod [] t e.1 fun l => l.filter (·.1 ≠ k) ++ [(k, e.2)]) g.links.nbrs
          let g := { g with links := { g.links with nbrs := Tbl.set [] nb k mine, size := g.links.size + 1 } }
          match if g.adjMutual then topologyOf g.presentAdj g.presentNos.length else none with
          | none => d.groupEnd 1 evtTOPOLOGY
          | some _ => (g.presentNos.foldl (fun g n => if n = 0 then g else g.sendGroup n) g.reroute.namePartners.newLinkKeys).groupEnd 0 evtJOIN

def execGroupAdd (m : MemberNo) (d : Option Found) (s : State) : Host.Outcome State Fault Refusal := s.onDev (doGroupAdd m d)

/-- Remove: refused while a plan names the member, or where it would cut others off; a lost member's number is freed. -/
def State.groupRemove (s : State) (m : MemberNo) : State :=
  let v := 0x200 + m.toNat
  let d := s.dev.groupRuns v
  let no := fun n => { s with dev := d.groupEnd n 0 }
  if d.links.cmd.toNat ≠ v then { s with dev := d }
  else if m = 0 ∨ d.memberNos.contains m.toNat = false then no 6
  else if d.srv.plan.any fun p => p.2.names m.toNat then no 4
  else if (d.memberOf m.toNat).present && !d.adj.connected (d.presentNos.filter (· ≠ m.toNat)) then no 5
  else
    let d := if (d.memberOf m.toNat).present then d.sendGroup m.toNat else d
    let s := ({ s with dev := d }).partFrom m.toNat
    let d := s.dev.setMember m.toNat Member.reset
    let lost := d.links.members.any fun e => !e.2.present
    let d := { d with links := { d.links with
      nbrs := Tbl.set [] d.links.nbrs m.toNat [], size := d.links.size - 1, group := if lost then .degraded else .grouped } }
    { s with dev := (d.presentNos.foldl (fun d n => if n = 0 then d else d.sendGroup n) d.reroute).groupEnd 0 evtJOIN }

def execGroupRemove (m : MemberNo) (s : State) : Host.Outcome State Fault Refusal := .next (s.groupRemove m)

/-! A satellite (R334, R335, R338, R351). -/

/-- This device meets the conditions of R334 for joining a head of a group-protocol version. -/
def Dev.mayJoin (d : Dev) (version : BitVec 16) : Bool :=
  d.links.group == .solo && version == groupVersion && ((List.range 9).all fun f => (d.lease f).st == .none) && d.hif.accepted == 1 && d.mboxSeqs == 0
/-- GROUP join accepted: the mailbox stops. -/
def Dev.joinGroup (d : Dev) (m : MemberNo) (size : BitVec 7) (version : BitVec 16) : Dev :=
  if !d.mayJoin version then d
  else
    { d with
      links := { d.links with
        group := .satellite, member := m, size := size.toNat, fresh := true,
        members := Tbl.set Member.reset [(0, ⟨true, [], d.now, 0⟩)] m.toNat ⟨true, ownSerial, d.now, 0⟩,
        kept := (d.tier.obj.filter fun (e : Nat × Obj) => e.2.st != ObjState.free).map fun (e : Nat × Obj) => (BitVec.ofNat 16 e.1 : ObjNo) }
      hif := { d.hif with mboxReady := false } }.setEvt .elkGevt evtJOIN
/-- The satellite leaves: its commands end ABORTED, its transfers close, its group objects are destroyed and scrubbed, and it is SOLO. -/
def Dev.leaveGroup (d : Dev) (evts : Nat) : Dev :=
  if d.links.group ≠ .satellite then d
  else
    let d := d.abortWhere (fun _ => true) 0x0009
    let d := d.links.dst.foldl Dev.spoilDst d
    let os := (d.tier.obj.map fun e => (BitVec.ofNat 16 e.1 : ObjNo)).filter fun o => !d.links.kept.contains o
    let d := os.foldl Dev.fwDestroy d
    let d := { d with hif := { d.hif with mboxReady := d.hif.ready } }
    d.solo.setEvt .elkGevt evts
/-- The members at the other end of a satellite's ports: those one hop away, by the ports of their routes (R355). -/
def Dev.nameHops (d : Dev) (r : List (MemberNo × BitVec 32)) : Dev :=
  (r.filter fun e => bitN e.2.toNat 15 && fld e.2.toNat 19 16 == 1).foldl (fun d e =>
    (setBits (fld e.2.toNat 7 0) 8).foldl (fun d n => d.setPort (BitVec.ofNat 3 n) { d.port (BitVec.ofNat 3 n) with partnerMember := e.1 }) d) d
/-- Route table of a satellite, as register words (R358), with the group's size and topology. -/
def Dev.setRoutes (d : Dev) (size topology : Nat) (r : List (MemberNo × BitVec 32)) : Dev :=
  if d.links.group ≠ .satellite then d
  else
    let d := ({ d with links := { d.links with size := size, topology := topology } }).nameHops r
    r.foldl (fun d e =>
      let w := e.2.toNat
      let v := bitN w 15
      let rt : Route := if v then ⟨BitVec.ofNat 4 (fld w 19 16), true, BitVec.ofNat 6 (fld w 13 8), BitVec.ofNat 8 (fld w 7 0)⟩ else Route.reset
      let d := { d with links := { d.links with route := Tbl.set Route.reset d.links.route e.1.toNat rt } }
      if e.1 = d.links.member ∨ e.1 = 0 then d else d.setMember e.1.toNat (if v then ⟨true, [], d.now, 0⟩ else Member.reset)) d

/-- A TIME exchange ends: the head's time plus half the round trip; one step at join, then at most 1 µs. -/
def Dev.alignTime (d : Dev) (headTime roundTrip : Nat) : Dev :=
  let v := headTime + roundTrip / 2
  let diff : Int := (v : Int) - d.now
  if d.links.fresh then
    let fits := decide (-2147483648 ≤ diff ∧ diff ≤ 2147483647)
    let r := d.freeNat
    let d := if fits then d else r.2
    let d := d.shiftAll v
    { d with links := { d.links with fresh := false, corr := if fits then BitVec.ofInt 32 diff else BitVec.ofNat 32 r.1 } }
  else
    let c : Int := max (-1000) (min 1000 diff)
    { d with hif := { d.hif with devTime := d.hif.devTime + BitVec.ofInt 64 c }, links := { d.links with corr := BitVec.ofInt 32 c } }

/-- The head is lost: no BEAT from it for the loss time. -/
def doHeadLoss (d : Dev) : Dev :=
  if d.links.group = .satellite ∧ (d.memberOf 0).beat + d.links.lossMs * 1000000 ≤ d.now then d.leaveGroup 8 else d

def execHeadLoss (s : State) : Host.Outcome State Fault Refusal := s.onDev doHeadLoss

/-! Beats and time exchanges (R338, R351). -/

/-- Members a device sends BEAT to: the head to each one present, a satellite to its head. -/
def Dev.beatTo (d : Dev) : List Nat :=
  match d.links.group with
  | .grouped | .degraded => d.presentNos.filter (· ≠ 0)
  | .satellite => [0]
  | _ => []
/-- A packet of partition 0 to a member. -/
def Dev.sendPlain (typ : Nat) (body : List Byte) (d : Dev) (m : Nat) : Dev :=
  let x := d.nextXid 0 (BitVec.ofNat 6 m)
  x.2.send (x.2.mkPkt typ 0 (BitVec.ofNat 6 m) x.1 0 body)
/-- The body of a TIME packet (log entry 58): 0, what the head sends, its time; 1, the member's answer, that time again; 2, the head's
time at that answer, and the round trip it measured. -/
def timeBody (kind time trip : Nat) : List Byte := natLe 1 kind ++ natLe 8 time ++ natLe 8 trip
def State.beatTimer (s : State) : State := ({ s with dev := s.dev.beatTo.foldl (Dev.sendPlain 0x30 (natLe 8 s.dev.now)) s.dev }).xidGuard

def execBeatTimer (s : State) : Host.Outcome State Fault Refusal := .next s.beatTimer

/-- The head starts a TIME exchange with each member. -/
def State.timeTimer (s : State) : State :=
  if s.dev.links.group = .satellite then s else ({ s with dev := s.dev.beatTo.foldl (Dev.sendPlain 0x31 (timeBody 0 s.dev.now 0)) s.dev }).xidGuard

def execTimeExchangeTimer (s : State) : Host.Outcome State Fault Refusal := .next s.timeTimer

/-- TIME: a member answers its head and takes the time it is then given; the head measures the round trip to a member that answers (R338). The port
stamps the packet with the DEV_TIME at which it came in, and what has passed since then belongs to neither (DEDUCED, log entry 78). -/
def Dev.timeIn (d : Dev) (k : Pkt) (arrived : W64) (b : List Byte) : Dev :=
  let kind := leNat (b.take 1)
  let t := leNat ((b.drop 1).take 8)
  let m := k.hdr.src.toNat
  let since := d.now - arrived.toNat
  match d.links.group with
  | .satellite =>
    if m ≠ 0 then d
    else if kind = 0 then Dev.sendPlain 0x31 (timeBody 1 t 0) d 0
    else if kind = 2 then d.alignTime (t + since) (leNat ((b.drop 9).take 8))
    else d
  | .grouped | .degraded => if kind = 1 then Dev.sendPlain 0x31 (timeBody 2 d.now (d.now - since - t)) d m else d
  | _ => d
def State.timePkt (s : State) (k : Pkt) (arrived : W64) : State := (s.recvDev 0x31 k fun b d => d.timeIn k arrived b).xidGuard

def execTime (k : Pkt) (arrived : W64) (s : State) : Host.Outcome State Fault Refusal := .next (s.timePkt k arrived)

/-- BEAT: its sender is there. -/
def Dev.beatIn (d : Dev) (k : Pkt) : Dev :=
  let m := k.hdr.src.toNat
  if (d.memberOf m).present then d.setMember m { d.memberOf m with beat := d.now } else d

def execBeat (k : Pkt) (s : State) : Host.Outcome State Fault Refusal := .next (s.recvDev 0x30 k fun _ d => d.beatIn k)

/-! Loss of a member (R351). -/

/-- A member is lost: no BEAT for the loss time, or no route that reaches it. -/
def Dev.isLost (d : Dev) (m : Nat) : Bool :=
  (d.links.group == .grouped || d.links.group == .degraded) && m != 0 && (d.memberOf m).present &&
  (decide ((d.memberOf m).beat + d.links.lossMs * 1000000 ≤ d.now) || !d.reaches (BitVec.ofNat 6 m))
/-- Sequences that hold a page on a member: those of plans over it that hold pages. -/
def Dev.pagesOn (d : Dev) (m : Nat) : List (SeqNo × Seq) :=
  d.seqsWhere fun e => e.alive && (d.plan e.plan).names m && !(d.heldPages e).isEmpty
def State.memberLoss (s : State) (m : MemberNo) : State :=
  let d := s.dev
  if !d.isLost m.toNat then s
  else
    let d := d.setMember m.toNat { d.memberOf m.toNat with present := false }
    let d := { d with links := { d.links with group := .degraded } }.setEvt .elkGevt 4
    let d := ((d.unreach m).dropFwd m).dropBridged m
    let s := (d.ranked (d.pagesOn m.toNat)).foldl (fun s x => s.decideEnd x.1 stWITHDRAWN 0x0003) { s with dev := d }
    let s := s.memberGone m.toNat
    ({ s with dev := s.dev.reroute }).pumpRest

def execMemberLoss (m : MemberNo) (s : State) : Host.Outcome State Fault Refusal := .next (s.memberLoss m)

/-! Commands forwarded by the head (R333, R344). -/

/-- RCMD on a satellite: accepted as the head's command; one turned away is answered at once. A stale epoch is dropped (spec/16 R449). -/
def Dev.rcmdIn (d : Dev) (k : Pkt) (b : List Byte) : Dev :=
  if d.links.group ≠ .satellite ∨ k.hdr.pepoch ≠ (d.part k.hdr.part).epoch then d
  else
    let x := Desc.ofBytes b
    let ctx : W64 := BitVec.ofNat 64 (leNat ((b.drop 64).take 8))
    let r := d.accept x (.head k.hdr.src (d.extXid k) ctx) false k.hdr.part
    match r.2 with
    | none => r.1
    | some f => (r.1.countDone x f.1).answer 0x11 k (recordBytes d x f.1 0 f.2 0 (d.hif.devTime.truncate 32) ++ natLe 8 ctx.toNat)

def execRcmd (k : Pkt) (s : State) : Host.Outcome State Fault Refusal := .next (s.recvDev 0x10 k fun b d => d.rcmdIn k b)

/-- RDONE on the head: the outcome of the forwarded command, and what waited for it. -/
def State.rdoneIn (s : State) (k : Pkt) (b : List Byte) : State :=
  let c0 := leNat (b.take 8)
  let t : Tag := BitVec.ofNat 12 (fld c0 19 8)
  let m := k.hdr.src
  if s.dev.links.fwd.any fun f => f.member == m && f.tag == t && f.xid == k.hdr.xid then
    let d := { s.dev with links := { s.dev.links with fwd := s.dev.links.fwd.filter fun f => !(f.member == m && f.tag == t) } }
    ({ s with dev := d.noteStep m t (BitVec.ofNat 8 (fld c0 7 0)) (BitVec.ofNat 16 (fld c0 63 48)) }).pumpRest
  else s

def execRdone (k : Pkt) (s : State) : Host.Outcome State Fault Refusal := .next (s.recv 0x11 k fun b s => s.rdoneIn k b)

/-- STEP on a satellite: its body is the firmware's own, and what it controls there is the head's commands that follow (log entry 45). -/
def execStepPkt (k : Pkt) (s : State) : Host.Outcome State Fault Refusal := .next (s.recvDev 0x12 k fun _ d => d)

end Sys2Proof.Machine
end

