-- ==== Sys2Proof/Machine/Security.lean ====
section
/-! DEFINITION. Partitions, keys, teardown, attestation and debug unlock (spec/16 R438 to R468; spec/12 R349; spec/04 R86, R134). -/

namespace Sys2Proof.Machine

/-! A partition command (R441, R463, R464). -/

/-- The result of a command of a path, with its partition. -/
def Dev.secResult (d : Dev) (path : CmdPath) (p res : Nat) : Dev :=
  let w : W32 := BitVec.ofNat 32 (p % 8 * 256 + res % 256)
  match path with
  | .host => { d with sec := { d.sec with result := w } }
  | .mgmt => { d with sec := { d.sec with resultMgmt := w } }
/-- Fields of SEC_CMD. -/
def secOp (c : W32) : Nat := fld c.toNat 7 0
def secPart (c : W32) : PartNo := BitVec.ofNat 3 (fld c.toNat 10 8)
def secZero (c : W32) : Bool := bitN c.toNat 14
def secConf (c : W32) : Bool := bitN c.toNat 15
def secVf (c : W32) : Nat := fld c.toNat 19 16
/-- The argument bytes of a path, filled with zeros to 1,024. -/
def Dev.secArg (d : Dev) (path : CmdPath) : List Byte :=
  match path with
  | .host => Memory.readN d.sec.arg 0 1024
  | .mgmt => sized 1024 d.sec.argMgmt
/-- What stands against any command: a satellite, a PF without a LIVE lease, reserved bits. -/
def Dev.secNo (d : Dev) (path : CmdPath) (c : W32) : Option Nat :=
  if d.links.group = .satellite ∨ (path = .host ∧ (d.lease 0).st ≠ .live) then some 0x04
  else if fld c.toNat 31 20 ≠ 0 ∨ fld c.toNat 13 11 ≠ 0 then some 0x06
  else none
/-- A command of this OP with what else stands against it, and its effect. -/
def State.secRun (s : State) (path : CmdPath) (op : Nat) (c : W32) (no : Option Nat) (go : State → State) : State :=
  let p := (secPart c).toNat
  if secOp c ≠ op then s
  else match s.dev.secNo path c, no with
    | some r, _ => { s with dev := s.dev.secResult path p r }
    | none, some r => { s with dev := s.dev.secResult path p r }
    | none, none =>
      let s := go s
      { s with dev := s.dev.secResult path p 0 }
/-- A word that names no OP of R441. -/
def State.secBad (s : State) (path : CmdPath) (c : W32) : State :=
  { s with dev := s.dev.secResult path (secPart c).toNat (((s.dev.secNo path c)).getD 0x06) }
/-- The head's members follow a partition command (R439): a GROUP message to each. -/
def Dev.tellMembers (d : Dev) : Dev :=
  match d.links.group with
  | .grouped | .degraded => (d.presentNos.filter (· ≠ 0)).foldl Dev.sendGroup d
  | _ => d
/-- Numbers of `n` keys or requests taken from the DRBG (R442, R443). -/
def Dev.draw (d : Dev) (n : Nat) : Nat × Dev :=
  (d.sec.keys, { d with sec := { d.sec with keys := d.sec.keys + n, requests := d.sec.requests + n } })
/-- Value of a dictionary entry that a rule outside the dictionary sets. -/
def Dev.odSetNat (d : Dev) (ent n v dflt : Nat) : Dev :=
  { d with od := { d.od with val := if v = dflt then Tbl.del ent d.od.val else Tbl.put ent (natLe n v) d.od.val } }

/-! CREATE (R439, R441, R442, R445, R454). -/

/-- Partition `p` LIVE with new keys: storage, Vine, and for a confidential one link, host and ephemeral. -/
def Dev.newPart (d : Dev) (p : PartNo) (conf zero : Bool) (tenant : List Byte) : Dev :=
  let k := d.draw (if conf then 5 else 2)
  let key (i : Nat) : Option Nat := if conf then some (k.1 + i) else none
  let q : Part :=
    { Part.reset with
      st := .live, conf := conf, zero := zero, epoch := (d.part p).epoch + 1, keyCur := some k.1, keyVine := some (k.1 + 1),
      keyLink := key 2, keyHost := key 3, eph := key 4, tenant := if conf then tenant else [] }
  let d := (((k.2.setPart p q).setFloor .t1 p.toNat 0).setFloor .t2 p.toNat 0).setFloor .t3 p.toNat 0
  { d with
    links := { d.links with nctr := Tbl.drop (fun k => k / 64 == p.toNat) d.links.nctr }
    srv := { d.srv with vineSlots := Tbl.set 0 d.srv.vineSlots p.toNat 0 } }
def Dev.createNo (d : Dev) (path : CmdPath) (c : W32) : Option Nat :=
  let p := secPart c
  if p = 0 then some 0x06
  else if (d.part p).st ≠ .absent then some 0x02
  else if !d.feature 3 ∨ (secConf c = true ∧ d.feature 4 = false) then some 0x03
  else if secConf c ∧ d.sec.debugUnlocked then some 0x07
  else if secConf c ∧ Config.pointValid ((d.secArg path).take 97) = false then some 0x06
  else if !d.sec.entropyOk then some 0x0A
  else none
def State.createPart (s : State) (c : W32) (tenant : List Byte) : State :=
  let p := secPart c
  ({ s with dev := ((s.dev.newPart p (secConf c) (secZero c) tenant).setEvt .secEvt 1).tellMembers }).recordPart p
def execCreate (path : CmdPath) (cmd : W32) (s : State) : Host.Outcome State Fault Refusal :=
  .next (s.secRun path 0x01 cmd (s.dev.createNo path cmd) fun s => s.createPart cmd ((s.dev.secArg path).take 97))

/-! REMOVE and teardown (R440, R449 to R451). -/

/-- DRAINING: queues stop and drain, waiting work ends, sequences end, plans drain; a Safe Hold of the partition ends (R482). -/
def State.drainPart (s : State) (p : PartNo) : State :=
  let d := s.dev.setPart p { s.dev.part p with st := .draining }
  let d := { d with pwr := { d.pwr with partHold := d.pwr.partHold &&& ~~~ (BitVec.ofNat 8 (2 ^ p.toNat)) } }
  let qs := (d.hif.queue.filter fun e => e.2.en && e.2.part == p).map fun e => (BitVec.ofNat 6 e.1 : QueueNo)
  let d := qs.foldl (fun d q => d.setQueue q { d.queue q with draining := true }) d
  let d := d.abortWhere (fun e => e.desc.part == p && (e.st == .waiting || e.st == .ready) && match e.iss with
    | .queue _ => true
    | _ => false) 0x0008
  let s := { s with dev := d }
  let s := (s.dev.seqsWhere fun e => e.alive && e.part == p).foldl (fun s x => s.decideEnd x.1 stABORTED 0x0008) s
  let s := (List.range 16).foldl (fun (s : State) n =>
    let n : PlanNo := BitVec.ofNat 4 n
    let pl := s.dev.plan n
    if pl.part ≠ p ∨ pl.st = .free then s
    else
      let d := if pl.st = .suspended then s.dev.takeRefs [pl.obj, pl.pool] else s.dev
      ({ s with dev := d.setPlan n { pl with st := .draining, successor := 0xFF } }).planDrained n) s
  { s with dev := qs.foldl Dev.drained s.dev }
def Dev.removeNo (d : Dev) (c : W32) : Option Nat :=
  if secPart c = 0 then some 0x06 else if (d.part (secPart c)).st ≠ .live then some 0x02 else none
def State.removePart (s : State) (c : W32) : State :=
  let s := s.drainPart (secPart c)
  { s with dev := s.dev.tellMembers }
def execRemove (path : CmdPath) (cmd : W32) (s : State) : Host.Outcome State Fault Refusal :=
  .next (s.secRun path 0x02 cmd (s.dev.removeNo cmd) fun s => s.removePart cmd)

/-- Nothing waits any longer: no sequence, and no command WAITING or READY. -/
def Dev.drainedPart (d : Dev) (p : PartNo) : Bool :=
  (d.seqsWhere fun e => e.alive && e.part == p).isEmpty &&
  !d.cores.tag.any fun e => e.2.desc.part == p && (e.2.st == .waiting || e.2.st == .ready)
/-- RETIRING; its record, if it has one, is marked. -/
def State.partRetiring (s : State) (p : PartNo) : State :=
  if (s.dev.part p).st = .draining ∧ s.dev.drainedPart p = true then
    ({ s with dev := s.dev.setPart p { s.dev.part p with st := .retiring } }).recordPart p
  else s
def execPartitionRetiring (p : PartNo) (s : State) : Host.Outcome State Fault Refusal := .next (s.partRetiring p)

/-- Work of a partition that still runs here. -/
def Dev.partRuns (d : Dev) (p : PartNo) : Bool :=
  (d.cores.tag.any fun e => e.2.live && e.2.desc.part == p) || (d.tier.moves.any fun m => (d.obj m.obj).part == p) ||
  (d.hif.xfers.any fun x => x.part == p) || (d.links.dst.any fun x => x.part == p) || (d.srv.plan.any fun e => e.2.running && e.2.part == p)
/-- Objects of a partition. -/
def Dev.objNosOf (d : Dev) (p : PartNo) : List ObjNo :=
  (d.tier.obj.filter fun e => e.2.part == p && e.2.st != .free).map fun e => BitVec.ofNat 16 e.1
/-- Catalogue entries of a partition. -/
def Dev.entriesOf (d : Dev) (p : PartNo) : List Nat := (d.cellar.cat.filter fun e => e.2.used && e.2.part == p).map (·.1)
/-- The deletion of every catalogue entry of a partition under way. -/
def Dev.deleteEntries (d : Dev) (p : PartNo) : Dev :=
  let ns := (d.entriesOf p).filter fun n => !d.cellar.changes.contains (.delete (BitVec.ofNat 12 n))
  { d with cellar := { d.cellar with changes := d.cellar.changes ++ ns.map fun n => CatChange.delete (BitVec.ofNat 12 n) } }
/-- The keys of a partition destroyed; it is SCRUBBING under a new epoch. -/
def Part.destroy (q : Part) (e : BitVec 16) : Part :=
  { q with st := .scrubbing, epoch := e, keyCur := none, keyOld := none, keyLink := none, keyHost := none, keyVine := none, eph := none,
           tenant := [], live2 := false, d2h := 0, h2dMax := none, h2dSeen := [] }
/-- SCRUBBING: objects, entries, slots, floors, tag range; its cores are held by no partition. -/
def State.scrubPart (s : State) (p : PartNo) (e : BitVec 16) : State :=
  let s := (s.dev.seqsWhere fun x => x.st == .safeHold && x.part == p).foldl (fun s x => s.releaseSeq x.1) s
  let d := s.dev.setPart p ((s.dev.part p).destroy e)
  let os := d.objNosOf p
  let d := { d with srv := { d.srv with
      adapter := Tbl.drop (fun k => k / 64 == p.toNat) d.srv.adapter
      vineObj := Tbl.set 0 d.srv.vineObj p.toNat 0
      vineNodes := Tbl.set 0 d.srv.vineNodes p.toNat 0
      vineUsed := Tbl.set [] d.srv.vineUsed p.toNat []
      vineSlots := Tbl.set 0 d.srv.vineSlots p.toNat 0
      vineTsum := Tbl.drop (fun k => k / 2 ^ 32 == p.toNat) d.srv.vineTsum
      vineAnew := d.srv.vineAnew &&& (255 - 2 ^ p.toNat)
      pageRef := Tbl.drop (fun k => os.contains (BitVec.ofNat 16 (k / 2 ^ 24))) d.srv.pageRef
      released := d.srv.released.filter fun r => !os.contains r.obj
      heldReq := d.srv.heldReq.filter fun h => match h with
        | .sub x => x.part != p
        | .resume _ w => rPart w != p } }
  let d := (os.foldl Dev.eraseObj d).deleteEntries p
  let d := (setBits (d.slotMask p) 64).foldl (fun d n => d.setSlot n Slot.reset) d
  let d := (d.odSetNat (0xB020 * 256 + p.toNat + 1) 8 0 0).odSetNat (0xB001 * 256 + p.toNat + 1) 4 0 0
  let d := ((d.setFloor .t1 p.toNat 0).setFloor .t2 p.toNat 0).setFloor .t3 p.toNat 0
  let d := (List.range 64).foldl (fun d n =>
    let k := d.core (BitVec.ofNat 6 n)
    if k.assigned && k.part == p then d.setCore (BitVec.ofNat 6 n) { k with assigned := false } else d) d
  let d := { d with links := { d.links with epochWait := Tbl.set [] d.links.epochWait p.toNat [] } }
  ({ s with dev := d }).recordPart p
/-- Every acknowledgement is in, or none was needed: the epoch rises and the keys are destroyed. -/
def State.epochTaken (s : State) (p : PartNo) : State := s.scrubPart p ((s.dev.part p).epoch + 1)
/-- EPOCH packets to the members; their acknowledgements are awaited. -/
def Dev.sendEpoch (d : Dev) (p : PartNo) (m : Nat) : Dev :=
  let x := d.nextXid p (BitVec.ofNat 6 m)
  x.2.send (x.2.mkPkt 0x32 p (BitVec.ofNat 6 m) x.1 0 (natLe 2 ((d.part p).epoch + 1).toNat ++ [BitVec.ofNat 8 p.toNat]))
/-- EPOCH_CHANGE on the head or a lone device: once nothing runs, the members are told; without members, or once those awaited are
lost, it takes the epoch at once. -/
def State.epochChange (s : State) (p : PartNo) : State :=
  let d := s.dev
  let ms := match d.links.group with
    | .grouped | .degraded => d.presentNos.filter (· ≠ 0)
    | _ => []
  let w := Tbl.get [] d.links.epochWait p.toNat
  if (d.part p).st ≠ .retiring ∨ d.links.group = .satellite ∨ d.partRuns p = true then s
  else if w.isEmpty then
    if ms.isEmpty then s.epochTaken p
    else
      let d := ms.foldl (fun d m => d.sendEpoch p m) d
      ({ s with dev := { d with links := { d.links with epochWait := Tbl.set [] d.links.epochWait p.toNat ms } } }).xidGuard
  else
    let w := w.filter ms.contains
    let s := { s with dev := { d with links := { d.links with epochWait := Tbl.set [] d.links.epochWait p.toNat w } } }
    if w.isEmpty then s.epochTaken p else s
def execEpochChange (p : PartNo) (s : State) : Host.Outcome State Fault Refusal := .next (s.epochChange p)

/-- EPOCH received: a member sets its epoch, scrubs and answers in kind; the head counts the answer. -/
def State.epochIn (s : State) (k : Pkt) (b : List Byte) : State :=
  let p : PartNo := BitVec.ofNat 3 (leNat ((b.drop 2).take 1))
  let e : BitVec 16 := BitVec.ofNat 16 (leNat (b.take 2))
  if s.dev.links.group = .satellite then
    let s := { s with dev := s.dev.answer 0x32 k b }
    if (s.dev.part p).st = .retiring ∨ (s.dev.part p).st = .draining then s.scrubPart p e
    else { s with dev := s.dev.setPart p { s.dev.part p with epoch := e } }
  else
    let d := s.dev
    let w := (Tbl.get [] d.links.epochWait p.toNat)
    if w.contains k.hdr.src.toNat then
      let w := w.filter (· ≠ k.hdr.src.toNat)
      let s := { s with dev := { d with links := { d.links with epochWait := Tbl.set [] d.links.epochWait p.toNat w } } }
      if w.isEmpty then s.epochTaken p else s
    else s
def execEpoch (k : Pkt) (s : State) : Host.Outcome State Fault Refusal := .next (s.recv 0x32 k fun b s => s.epochIn k b)

/-- A VF unbound at the end of a teardown: its lease becomes NONE. -/
def State.unbindGone (s : State) (v : Nat) : State :=
  let f : Func := ⟨v % 9, Nat.mod_lt _ (by decide)⟩
  let l := s.dev.lease f.val
  let s := if l.st = .live then s.leaveLive f s.dev.now else s
  let d := { s.dev with sec := { s.dev.sec with vf := Tbl.set none s.dev.sec.vf v none } }
  { s with dev := if l.st = .none then d else (d.setLease f.val { d.lease f.val with st := .none, due := 0, ident := 0 }).setEvt (.hifEvt f) 1 }
/-- VFs bound to a partition. -/
def Dev.vfsOf (d : Dev) (p : PartNo) : List Nat := (upFrom 1 8).filter fun v => Tbl.get none d.sec.vf v == some p
/-- SCRUB_DONE: the deletions are committed; the partition is ABSENT and keeps only its epoch. -/
def State.scrubEnd (s : State) (p : PartNo) : State :=
  if (s.dev.part p).st = .scrubbing ∧ s.dev.entriesOf p = [] then
    let s := (s.dev.vfsOf p).foldl State.unbindGone s
    let d := s.dev.setPart p { Part.reset with epoch := (s.dev.part p).epoch }
    ({ s with dev := d.setEvt .secEvt 2 }).recordPart p
  else s
def execScrubDone (p : PartNo) (s : State) : Host.Outcome State Fault Refusal := .next (s.scrubEnd p)

/-! ASSIGN, BIND_VF, UNBIND_VF (R441). -/

/-- A core that a running command or a plan still uses, or whose partition is RETIRING. -/
def Dev.coreBusy (d : Dev) (n : Nat) : Bool :=
  let k := d.core (BitVec.ofNat 6 n)
  decide (d.accepted (BitVec.ofNat 6 n) ≠ 0) ||
  (k.assigned && ((d.part k.part).st == .retiring || d.srv.plan.any fun e => e.2.runs && e.2.part == k.part && bitN e.2.coreMask n))
/-- The counters of the CORE_, MXE_, VE_, WX_ and ATT_ pages of a core (R364) start over, as assignment has it (R116, R136, R162, R188, R277). -/
def Dev.clearCoreCnt (d : Dev) (c : CoreNo) : Dev :=
  { d with cnt := Tbl.drop (fun k => decide (0x200000 ≤ k ∧ k < 0x3C0000) && k / 0x1000 % 64 == c.toNat) d.cnt }
/-- A core handed to a partition: written bits cleared, tile queue emptied, its highest occupancy and its counters start over. -/
def Dev.giveCore (d : Dev) (p : PartNo) (n : Nat) : Dev :=
  let c : CoreNo := BitVec.ofNat 6 n
  ((d.spClear c).clearCoreCnt c).setCore c { d.core c with assigned := true, part := p, queue := [], hwm := 0, due := [], producer := none }
def Dev.giveCores (d : Dev) (p : PartNo) (mask : Nat) : Dev := ((setBits mask 64).foldl (fun d n => d.giveCore p n) d).setEvt .secEvt 0x20
def Dev.secMask (d : Dev) (path : CmdPath) : Nat := leNat ((d.secArg path).take 8)
def Dev.assignNo (d : Dev) (path : CmdPath) (c : W32) : Option Nat :=
  if (d.part (secPart c)).st ≠ .live then some 0x02
  else if (setBits (d.secMask path) 64).any d.coreBusy then some 0x05
  else none
def execAssign (path : CmdPath) (cmd : W32) (s : State) : Host.Outcome State Fault Refusal :=
  .next (s.secRun path 0x03 cmd (s.dev.assignNo path cmd) fun s =>
    { s with dev := (s.dev.giveCores (secPart cmd) (s.dev.secMask path)).tellMembers })
def Dev.bindNo (d : Dev) (c : W32) : Option Nat :=
  let v := secVf c
  if v < 1 ∨ 8 < v then some 0x06
  else if secOp c = 0x04 ∧ (d.part (secPart c)).st ≠ .live then some 0x02
  else if (d.lease v).st ≠ .none then some 0x05
  else none
def Dev.bindTo (d : Dev) (v : Nat) (p : Option PartNo) : Dev := { d with sec := { d.sec with vf := Tbl.set none d.sec.vf v p } }
def execBindVf (path : CmdPath) (cmd : W32) (s : State) : Host.Outcome State Fault Refusal :=
  .next (s.secRun path 0x04 cmd (s.dev.bindNo cmd) fun s => { s with dev := s.dev.bindTo (secVf cmd) (some (secPart cmd)) })
def execUnbindVf (path : CmdPath) (cmd : W32) (s : State) : Host.Outcome State Fault Refusal :=
  .next (s.secRun path 0x05 cmd (s.dev.bindNo cmd) fun s => { s with dev := s.dev.bindTo (secVf cmd) none })

/-! Vintages (R446 to R448). -/

def Dev.rotateNo (d : Dev) (c : W32) : Option Nat :=
  let q := d.part (secPart c)
  if q.st ≠ .live then some 0x02 else if q.live2 then some 0x09 else if !d.sec.entropyOk then some 0x0A else none
/-- A new storage vintage becomes current. -/
def Dev.rotated (d : Dev) (p : PartNo) : Dev :=
  let k := d.draw 1
  let q := d.part p
  (k.2.setPart p { q with vintOld := q.vintCur, vintCur := q.vintCur + 1, keyOld := q.keyCur, keyCur := some k.1, live2 := true }).setEvt .secEvt 4
def execRotate (path : CmdPath) (cmd : W32) (s : State) : Host.Outcome State Fault Refusal :=
  .next (s.secRun path 0x06 cmd (s.dev.rotateNo cmd) fun s =>
    ({ s with dev := (s.dev.rotated (secPart cmd)).tellMembers }).recordPart (secPart cmd))

/-- Granule frames of a tier in use. -/
def Dev.framesIn (d : Dev) (t : Tier) : Nat :=
  sumNat (d.tier.obj.map fun (e : Nat × Obj) => (e.2.gran.filter fun (g : Nat × Gran) => (g.2.at t).isSome).length) +
  (d.tier.moves.filter fun m => m.dst == t).length
/-- The tier in which a granule has a frame under a vintage: T1 first. -/
def Gran.vintIn (v : Gran) (w : BitVec 16) : Option Tier :=
  if v.t1.any (·.vint == w) then some .t1 else if v.t2.any (·.vint == w) then some .t2 else none
/-- A granule of the partition before this one, in object and granule order, still has a frame to re-encrypt and does not move (R447). -/
def Dev.reencBefore (d : Dev) (o : ObjNo) (g : Nat) : Bool :=
  let p := (d.obj o).part
  let w := (d.part p).vintOld
  d.tier.obj.any fun (e : Nat × Obj) => e.2.part == p && e.2.st != .free && decide (e.1 ≤ o.toNat) &&
    e.2.gran.any fun (x : Nat × Gran) => (decide (e.1 < o.toNat) || decide (x.1 < g)) && (x.2.vintIn w).isSome && !d.moving (BitVec.ofNat 16 e.1) x.1
/-- A frame re-encrypted as a move to a new frame of its tier, in ascending order; without a free frame, or while the granule moves, it waits. -/
def Dev.reencFrame (d : Dev) (o : ObjNo) (g : Nat) : Dev :=
  let b := d.obj o
  let q := d.part b.part
  if b.st = .free ∨ !q.live2 ∨ !q.serves ∨ d.moving o g = true ∨ d.reencBefore o g = true then d
  else match (b.g g).vintIn q.vintOld with
    | none => d
    | some t => if d.framesIn t < d.capacity t / granSize then d.setGran o g ((b.g g).put t (some (d.frameFor o t g))) else d
/-- Granules of an entry on a block. -/
def CatE.onBlock (e : CatE) (ch b : Nat) : List Nat := (e.places.filter fun p => p.2.ch == ch && p.2.blk == b).map (·.1)
/-- A Cellar block re-encrypted: relocated under the current vintage, the old one then to be erased; without a FREE block it waits. -/
def Dev.reencBlock (d : Dev) (ch b : Nat) : Dev :=
  let k := d.blk ch b
  let e := d.cat k.entry.toNat
  let q := d.part e.part
  let gs := e.onBlock ch b
  if k.st ≠ .allocated ∨ !k.committed ∨ k.entry = 0 ∨ !e.used ∨ !q.live2 ∨ !q.serves ∨
      gs.all (fun g => Tbl.get 0 e.vint g != q.vintOld) = true then d
  else match d.relocTo ch with
    | none => d
    | some (c, a) =>
      let d := (d.copyBlk ch b c a).addTot (0x3001 * 256 + 7) 1
      let e := d.cat k.entry.toNat
      let d := d.setCat k.entry.toNat { e with vint := gs.foldl (fun t g => Tbl.set 0 t g q.vintCur) e.vint }
      d.setBlk ch b { k with st := .erasePending, entry := 0, committed := false }
def doReencryptMove (x : ReTarget) (d : Dev) : Dev :=
  match x with
  | .frame o g => d.reencFrame o g.toNat
  | .block ch b => d.reencBlock ch.toNat b.toNat
def execReencryptMove (x : ReTarget) (s : State) : Host.Outcome State Fault Refusal := s.onDev (doReencryptMove x)

/-- Frames and Cellar blocks of a partition that record a vintage (SEC_PART REMAIN). -/
def Dev.remain (d : Dev) (p : PartNo) (w : BitVec 16) : Nat :=
  sumNat (d.tier.obj.map fun (e : Nat × Obj) =>
    if e.2.part == p && e.2.st != .free then
      sumNat (e.2.gran.map fun (g : Nat × Gran) => b2n (g.2.t1.any (·.vint == w)) + b2n (g.2.t2.any (·.vint == w)))
    else 0) +
  sumNat (d.cellar.cat.map fun (e : Nat × CatE) =>
    if e.2.used && e.2.part == p then
      (((e.2.places.filter fun g => Tbl.get 0 e.2.vint g.1 == w).map fun g => (g.2.ch, g.2.blk)).eraseDups).length
    else 0) +
  (d.tier.moves.filter fun m => (d.obj m.obj).part == p && m.frame.vint == w).length
/-- OLD_VINTAGE_DESTROY: nothing records the old vintage. -/
def State.oldGone (s : State) (p : PartNo) : State :=
  let q := s.dev.part p
  if q.live2 ∧ s.dev.remain p q.vintOld = 0 then
    ({ s with dev := (s.dev.setPart p { q with keyOld := none, live2 := false, vintOld := 0 }).setEvt .secEvt 8 }).recordPart p
  else s
def execOldVintageDestroy (p : PartNo) (s : State) : Host.Outcome State Fault Refusal := .next (s.oldGone p)

/-! ATTEST (R461). -/

/-- Code of an update state. -/
def UpState.code : UpState → Nat
  | .idle => 0
  | .writing => 1
  | .staged => 2
  | .pending => 3
  | .trial => 4
  | .armed => 5
/-- Cores assigned to a partition. -/
def Dev.coresOf (d : Dev) (p : PartNo) : Nat :=
  (List.range 64).foldl (fun m n => let k := d.core (BitVec.ofNat 6 n)
    if k.assigned && k.part == p then m + 2 ^ n else m) 0
/-- VFs bound to a partition, bit v - 1 for VF v. -/
def Dev.vfBits (d : Dev) (p : PartNo) : Nat := (d.vfsOf p).foldl (fun m v => m + 2 ^ (v - 1)) 0
def isHead (g : GroupState) : Bool := g == .grouped || g == .degraded
/-- Bytes 0 to 927 of the report. -/
def State.reportBody (s : State) (p : PartNo) (nonce : List Byte) : List Byte :=
  let d := s.dev
  let q := d.part p
  let flags := b2n d.fw.recovery + 2 * b2n d.sec.debugUnlocked + 4 * b2n d.confActive + 8 * b2n q.conf + 16 * b2n (isHead d.links.group) +
    32 * b2n (d.links.group == .satellite)
  let comp := (List.range 8).flatMap fun c =>
    let k := d.comp c
    natLe 4 k.run.version.toNat ++ natLe 1 k.run.svn ++ natLe 1 (s.nv.floorOf c) ++ natLe 1 (b2n k.runB) ++ natLe 1 k.st.code
  natLe 2 0xC1A5 ++ [0x01, BitVec.ofNat 8 p.toNat] ++ Config.serial ++ sized 48 nonce ++ natLe 8 d.now ++ natLe 1 flags ++ List.replicate 7 0 ++
  natLe 16 d.hif.accepted.toNat ++ natLe 16 d.offered.toNat ++ comp ++
  natLe 4 s.nv.recov.version.toNat ++ natLe 1 s.nv.recov.svn ++ natLe 1 (s.nv.floorOf 8) ++ [0, 0] ++
  natLe 1 s.nv.revoked.toNat ++ natLe 1 (b2n q.zero) ++ natLe 2 q.epoch.toNat ++ natLe 2 q.vintCur.toNat ++ natLe 1 (if q.live2 then 2 else 1) ++
  natLe 1 (d.vfBits p) ++ natLe 8 (d.coresOf p) ++ List.replicate 8 0 ++
  (match q.eph with
    | some n => sized 97 (Config.ephemeralPublic n)
    | none => List.replicate 97 0) ++ List.replicate 15 0 ++
  (if q.conf then sized 48 (Config.sha384 q.tenant) else List.replicate 48 0) ++ List.replicate 560 0
def Dev.attestNo (d : Dev) (c : W32) : Option Nat :=
  if (d.part (secPart c)).st = .absent then some 0x02 else if !d.sec.entropyOk then some 0x0A else none
/-- The report, signed with the identity key. -/
def State.attested (s : State) (p : PartNo) (nonce : List Byte) : State :=
  let b := s.reportBody p nonce
  let d := { s.dev with sec := { s.dev.sec with report := b ++ sized 96 (Config.identitySign b) } }
  { s with dev := d.setEvt .secEvt 0x100 }
def execAttest (path : CmdPath) (cmd : W32) (s : State) : Host.Outcome State Fault Refusal :=
  .next (s.secRun path 0x07 cmd (s.dev.attestNo cmd) fun s => s.attested (secPart cmd) ((s.dev.secArg path).take 48))

/-! Debug unlock and key revocation (R459, R460). -/

/-- A byte list of a token or record: bytes `a` to `b`. -/
def cut (bs : List Byte) (a b : Nat) : List Byte := (bs.drop a).take (b + 1 - a)
/-- SEC_CHAL. -/
def Dev.challenge (d : Dev) : List Byte := natLe 32 (Config.debugChallenge d.sec.chal).toNat
/-- The token of R459 holds. -/
def State.tokenOk (s : State) (t : List Byte) : Bool :=
  cut t 0 11 == Config.serial && cut t 12 43 == s.dev.challenge && (cut t 44 159).all (· == 0) &&
  (List.range 4).any fun k => !s.nv.revoked.getLsbD k && Config.ecdsaVerify k (cut t 0 159) (cut t 160 255)
/-- An attempt: whatever its outcome, the challenge changes. -/
def State.unlock (s : State) (path : CmdPath) (c : W32) : State :=
  let p := (secPart c).toNat
  let ok := s.tokenOk (s.dev.secArg path)
  let d := { s.dev with sec := { s.dev.sec with chal := s.dev.sec.chal + 1, debugUnlocked := s.dev.sec.debugUnlocked || ok } }
  { s with dev := (if ok then d.setEvt .secEvt 0x40 else d).secResult path p (if ok then 0 else 0x08) }
def execDbgUnlock (path : CmdPath) (cmd : W32) (s : State) : Host.Outcome State Fault Refusal :=
  if secOp cmd ≠ 0x08 then .next s
  else if (s.dev.secNo path cmd).isNone ∧ s.dev.confActive = false then .next (s.unlock path cmd)
  else .next { s with dev := s.dev.secResult path (secPart cmd).toNat ((s.dev.secNo path cmd).getD 0x07) }
/-- What stands against a REVOKE: the record's form, the last key, its signature by another key not revoked. -/
def State.revokeNo (s : State) (r : List Byte) : Option Nat :=
  let k := leNat (cut r 12 12)
  let mine := cut r 0 11 == Config.serial || (cut r 0 11).all (· == 0)
  if !mine ∨ 4 ≤ k ∨ (cut r 13 159).all (· == 0) = false then some 0x08
  else if s.nv.revoked ||| BitVec.ofNat 4 (2 ^ k) = 0xF then some 0x0B
  else if (List.range 4).any fun j => j != k && !s.nv.revoked.getLsbD j && Config.ecdsaVerify j (cut r 0 159) (cut r 160 255) then none
  else some 0x08
def State.revokeKey (s : State) (r : List Byte) : State :=
  { s with nv := { s.nv with revoked := s.nv.revoked ||| BitVec.ofNat 4 (2 ^ leNat (cut r 12 12)) }, dev := s.dev.setEvt .secEvt 0x200 }
def execRevoke (path : CmdPath) (cmd : W32) (s : State) : Host.Outcome State Fault Refusal :=
  .next (s.secRun path 0x09 cmd (s.revokeNo (s.dev.secArg path)) fun s => s.revokeKey (s.dev.secArg path))

/-! Entropy (R443). -/

def execEntropyFail (s : State) : Host.Outcome State Fault Refusal :=
  let d := { s.dev with sec := { s.dev.sec with entropyOk := false } }
  .next (({ s with dev := d.setEvt .secEvt 0x80 }).devHold 0x0A 7 0)
/-- The DRBG reseeds after 2^20 requests, or a second. -/
def doDrbgReseed (d : Dev) : Dev :=
  if 2 ^ 20 ≤ d.sec.requests ∨ d.sec.reseedAt.toNat + 1000000000 ≤ d.now then
    { d with sec := { d.sec with requests := 0, reseedAt := d.hif.devTime } }
  else d
def execDrbgReseed (s : State) : Host.Outcome State Fault Refusal := s.onDev doDrbgReseed
/-- The sampler's source reseeds from the DRBG each 1 ms. -/
def doSamplerReseed (d : Dev) : Dev :=
  if d.sec.samplerAt.toNat + 1000000 ≤ d.now then
    { d with sec := { d.sec with requests := d.sec.requests + 1, samplerAt := d.hif.devTime } }
  else d
def execSamplerReseed (s : State) : Host.Outcome State Fault Refusal := s.onDev doSamplerReseed

/-! GROUP messages received (R333, R335, R337, R439). -/

/-- A satellite follows its head's partition command. -/
def State.follow (s : State) (c : W32) (mask : Nat) : State :=
  let p := secPart c
  if s.dev.links.group ≠ .satellite then s
  else if secOp c = 0x01 then (if (s.dev.part p).st = .absent then s.createPart c [] else s)
  else if secOp c = 0x02 then (if (s.dev.part p).st = .live then s.drainPart p else s)
  else if secOp c = 0x03 then { s with dev := s.dev.giveCores p mask }
  else if secOp c = 0x06 then (if (s.dev.part p).st = .live ∧ (s.dev.part p).live2 = false then
    ({ s with dev := s.dev.rotated p }).recordPart p else s)
  else s
/-- A member's level reported: the figures of the plans that name it are met again where it is a lower one (R474). -/
def State.levelIn (s : State) (m lev : Nat) : State :=
  let v := s.dev.memberOf m
  if !isHead s.dev.links.group ∨ !v.present then s
  else
    let d := s.dev.setMember m { v with level := lev }
    if v.level < lev then State.refitPlans { s with dev := d } (fun p => p.names m) lev else { s with dev := d }
def State.groupMsg (s : State) (src : MemberNo) (m : GroupMsg) : State :=
  match m with
  | .join n size v => { s with dev := s.dev.joinGroup n size v }
  | .leave => { s with dev := s.dev.leaveGroup evtJOIN }
  | .routes size t r => { s with dev := (s.dev.setRoutes size.toNat t.toNat r).toldLevel 0 }
  | .part c mask => s.follow c mask.toNat
  | .level l => s.levelIn src.toNat l.toNat
def execGroup (g : GroupPkt) (s : State) : Host.Outcome State Fault Refusal := .next (s.recv 0x40 g.pkt fun _ s => s.groupMsg g.pkt.hdr.src g.msg)

end Sys2Proof.Machine
end

