-- ==== Sys2Proof/Machine/Boot.lean ====
section
/-! DEFINITION. Power-up, resets and losses of power, the boot ROM, and the boot of the firmware (spec/02 R33 to R54; spec/09 R232 to
R234; spec/15 R422 to R425, R429; spec/16 R439, R445, R451; spec/17 R481, R486). -/

namespace Sys2Proof.Machine

/-! What a reset of the main domain leaves (R47, R51, R232). -/

/-- The catalogue as a change under way leaves it (R225). -/
def CatChange.after (c : CatChange) (now sq : W64) (cat : Tbl CatE) : Tbl CatE :=
  match c with
  | .seal _ _ n _ e => Tbl.set CatE.reset cat n.toNat { e with sealTime := now, seqNo := sq }
  | .delete n => Tbl.set CatE.reset cat n.toNat CatE.reset
/-- The change that was to commit next may have some copies programmed already; how many is open (R225, log entry 105). -/
def Dev.copiesStop (d : Dev) : Dev :=
  match d.cellar.changes.find? (·.ready) with
  | none => d
  | some c =>
    let p := d.freeNat
    let sq := d.cellar.catSeq + 1
    (d.catChans.take (p.1 % 5)).foldl (fun d ch => d.copyCat ch sq (c.after d.hif.devTime sq d.cellar.cat)) p.2
/-- Seals under way lose their objects; their blocks keep what they store. -/
def Dev.sealsStop (d : Dev) : Dev :=
  d.cellar.changes.foldl (fun d c => match c with
    | .seal _ _ _ pr e => if pr then d.noteKeys e e.places else d
    | .delete _ => d) d
/-- The Cellar stops (R232): erases are aborted, a metadata program runs to its end on hold-up; whether one of a data block ends in that time is open. -/
def Dev.flashStop (d : Dev) : Dev :=
  let d := d.copiesStop.sealsStop
  let d := { d with cellar := { d.cellar with queue := [] } }
  d.cellar.die.foldl (fun (d : Dev) (e : Nat × DieSt) =>
    match e.2.run with
    | some o =>
      let p := if o.op = .progG then d.freeNat else (0, d)
      let d := p.2
      if o.op = .progCw ∨ p.1 % 2 = 1 then (d.setDie (e.1 / 8) (e.1 % 8) { e.2 with run := none }).flcProg (e.1 / 8) o FlashOutcome.none
        |>.flcAbort (e.1 / 8) (e.1 % 8)
      else d.flcAbort (e.1 / 8) (e.1 % 8)
    | none => d.flcAbort (e.1 / 8) (e.1 % 8)) d
/-- What the flash dies hold. -/
def Cellar.kept (c : Cellar) : Cellar :=
  { Cellar.reset with blk := c.blk, mem := c.mem, cat := c.cat, catSeq := c.catSeq, journal := c.journal, copies := c.copies, old := c.old }
/-- MGMT runs on in the P3V3_AUX domain; its staging or LIVE activation is lost. -/
def Comp.overReset (k : Comp) : Comp :=
  { k with st := if k.st = .writing then .idle else if k.st = .pending then .staged else k.st, reason := 0, switched := false, insts := 0 }
/-- Everything outside the P3V3_AUX domain reset; RWP values come from their store. -/
def State.mainReset (s : State) : State :=
  let d := s.dev.flashStop
  let cap := match lookupKey (0x6001 * 256 + 1) s.nv.rwp with
    | some bs => leNat bs
    | none => 550
  let z := { Dev.reset with
    pins := { d.pins with uvSeen := false, excursion := false, inited := false }
    cellar := d.cellar.kept
    fw := { Fw.reset with comp := Tbl.set Comp.reset [] 7 (Comp.overReset (d.comp 7)) }
    sec := { Sec.reset with chal := d.sec.chal, keys := d.sec.keys }
    pwr := { Pwr.reset with capForce := cap, capWritten := cap, level := levelOf cap, temp := d.pwr.temp, fault := d.pwr.fault,
                            latched := d.pwr.latched }
    od := { Od.reset with val := s.nv.rwp, mctp := Tbl.del 0 d.od.mctp, i3c := d.od.i3c, ctrl := Tbl.del 0 d.od.ctrl,
                          notifies := d.od.notifies, ibis := d.od.ibis, ara := d.od.ara }
    draws := d.draws }
  { s with dev := (if s.dev.fw.stageComp.isSome then z.setEvt .fwEvt 2 else z).alertRelease }
/-- Main power or reset ends what runs, if anything runs; then the pins change. -/
def State.endMain (s : State) (f : Pins → Pins) : State :=
  let s := if s.dev.pins.pwrGood then s.mainReset else s
  { s with dev := { s.dev with pins := f s.dev.pins } }
/-- The main rails ramp in their fixed order; they are removed in the reverse of it (R45, R47, R486). -/
def Pins.rampUp (p : Pins) : Pins := { p with rails := rampOrder, railLog := rampOrder.map fun r => (r, true) }
def Pins.rampDown (p : Pins) : Pins :=
  if p.rails.isEmpty then p else { p with rails := [], railLog := p.rails.reverse.map fun r => (r, false) }
/-- Main rails are off. -/
def Pins.railsOff (p : Pins) : Pins := { p.rampDown with pwrGood := false, phase := .aux }

/-! The ROMs (R422 to R424). -/

/-- A copy chosen by R422. -/
structure Pick where
  slotB : Bool
  trial : Bool
  fell : Bool
deriving DecidableEq, Repr

/-- The copy of a component the boot record selects, or the other one where it is not valid. -/
def Nv.pick (n : Nv) (c : Nat) : Option Pick :=
  let r := n.recordNow
  let base := r.slotB.getLsbD c
  let tri := r.next.getLsbD c && !r.tried.getLsbD c
  let b := if tri then !base else base
  if n.valid b c then some ⟨b, tri, false⟩
  else if n.valid (!b) c then some ⟨!b, false, true⟩
  else none
/-- A record that sets TRIED where a trial is taken and clears NEXT where it was taken before, for the components of a mask. -/
def Nv.mark (n : Nv) (mask : BitVec 8) : Nv :=
  let r := n.recordNow
  let new := r.next &&& ~~~ r.tried &&& mask
  let old := r.next &&& r.tried &&& mask
  if new = 0 ∧ old = 0 then n else n.append { r with tried := r.tried ||| new, next := r.next &&& ~~~ old }
/-- A component as its chosen copy starts it. -/
def Nv.started (n : Nv) (c : Nat) (k : Pick) : Comp :=
  { st := if k.trial then .trial else if n.valid (!k.slotB) c then .staged else .idle
    runB := k.slotB, run := n.copy k.slotB c, fellback := k.fell, reason := 0, fromReset := k.trial, switched := false, insts := 0 }
/-- The management ROM starts MGMT; with no valid copy, that of the recovery image. -/
def State.mgmtBoot (s : State) : State :=
  match s.nv.pick 7 with
  | some k =>
    let d := s.dev.setComp 7 (s.nv.started 7 k)
    { s with dev := if k.fell then d.setEvt .fwEvt 0x80 else d, nv := s.nv.mark 0x80 }
  | none => { s with dev := s.dev.setComp 7 { Comp.reset with run := s.nv.recov } }

/-! Partitions at boot (spec/16 R439, R445, R451). -/

/-- Floors of the recorded partitions; partition 0 takes what they leave of each tier. -/
def State.restoreFloors (s : State) : State :=
  let fl (t : Tier) (r : PartRec) : Nat := match t with
    | .t1 => r.floor1
    | .t2 => r.floor2
    | .t3 => r.floor3
  let one (d : Dev) (t : Tier) : Dev :=
    let d := (upFrom 1 7).foldl (fun d p => d.setFloor t p (match Tbl.get none s.nv.part p with
      | some r => if r.removing then 0 else fl t r
      | none => 0)) d
    (d.setFloor t 0 (d.capacity t - sumNat ((upFrom 1 7).map (d.floor t)))).lowerFloors t
  ({ s with dev := [Tier.t1, .t2, .t3].foldl one s.dev }).recordFloors
/-- One recorded partition restored, LIVE with a new Vine key, or SCRUBBING where its removal had begun. -/
def State.restorePart (s : State) (p : PartNo) : State :=
  match Tbl.get none s.nv.part p.toNat with
  | none => s
  | some r =>
    if r.removing then
      let q := { Part.reset with st := .live, zero := r.zero, epoch := r.epoch }
      let d := s.dev.setPart p (q.destroy (r.epoch + 1))
      ({ s with dev := d }).recordPart p
    else
      let k := s.dev.draw 1
      let q := { Part.reset with
        st := .live, zero := r.zero, epoch := r.epoch, vintCur := r.vintCur, vintOld := r.vintOld, live2 := r.live2, keyCur := r.keyCur,
        keyOld := r.keyOld, keyVine := some k.1 }
      let d := k.2.setPart p q
      { s with dev := { d with srv := { d.srv with cls := Tbl.set 0 d.srv.cls p.toNat r.cls } } }
/-- Partition 0 created at the first boot and recorded; recorded partitions restored; entries of partitions that are not LIVE deleted. -/
def State.restoreParts (s : State) : State :=
  let s := (List.range 8).foldl (fun s p => s.restorePart (BitVec.ofNat 3 p)) s
  let s := if (Tbl.get none s.nv.part 0).isSome then s else s.recordPart 0
  let d := (List.range 8).foldl (fun (d : Dev) n =>
    let p : PartNo := BitVec.ofNat 3 n
    if (d.part p).st = .live then d else d.deleteEntries p) s.dev
  ({ s with dev := d }).restoreFloors

/-! The boot of components 0 to 6. -/

/-- The recovery image; where it is not valid either, the device asserts FAULT_N and goes no further (R424; CAUSE: log entry 65). -/
def State.bootRecovery (s : State) : State :=
  let d := s.dev
  if (s.nv.invalid 8 s.nv.recov).isSome then
    let d := { d with fw := { d.fw with dead := true }, pins := { d.pins with phase := .rom } }
    { s with dev := d.assertFault 0x08 6 0 }
  else
    let start (d : Dev) (c : Nat) : Dev :=
      let b := s.nv.recordNow.slotB.getLsbD c
      d.setComp c { s.nv.started c ⟨b, false, false⟩ with run := s.nv.recov }
    let d := (List.range 7).foldl start { d with fw := { d.fw with recovery := true }, pins := { d.pins with phase := .boot } }
    { s with dev := (d.setEvt .fwEvt 0x100).reoffer.setMpus }
/-- The chosen copies run. -/
def State.bootWith (s : State) (ps : List Pick) : State :=
  let start (d : Dev) (c : Nat) : Dev := d.setComp c (s.nv.started c (ps.getD c ⟨false, false, false⟩))
  let d := (List.range 7).foldl start { s.dev with pins := { s.dev.pins with phase := .boot } }
  let d := if (d.comp 7).fellback || ps.any (·.fell) then d.setEvt .fwEvt 0x80 else d
  let d := d.reoffer.setMpus
  let cs := d.compsIn .trial
  let s := State.restoreParts { s with dev := if cs.isEmpty then d else d.trialStart }
  if !cs.isEmpty && s.dev.autoCommit && s.dev.trialTime == 0 then s.commitComps cs else s
/-- A chosen set with the running MGMT. -/
def State.bootSet (s : State) (ps : List Pick) (c : Nat) : FwCopy :=
  if c = 7 then (s.dev.comp 7).run else s.nv.copy (ps.getD c ⟨false, false, false⟩).slotB c
/-- The boot ROM at the end of reset (R422). -/
def State.romBoot (s : State) : State :=
  if !s.dev.pins.rcvyN then s.bootRecovery
  else match (List.range 7).mapM s.nv.pick with
    | none => s.bootRecovery
    | some ps =>
      let r := s.nv.recordNow
      let s := { s with nv := s.nv.mark 0x7F }
      if setCompatible (s.bootSet ps) then s.bootWith ps
      else
        let cs := (List.range 7).map fun c => (⟨r.slotB.getLsbD c, false, (ps.getD c ⟨false, false, false⟩).fell⟩ : Pick)
        if (List.range 7).all (fun c => s.nv.valid (r.slotB.getLsbD c) c) && setCompatible (s.bootSet cs) then s.bootWith cs
        else s.bootRecovery

/-! Power-up (R36, R45, R47). -/

/-- Main rails may ramp. -/
def Pins.mayRamp (p : Pins) (latched : Bool) : Bool := p.phase == .aux && p.pwrEn && p.p48vOk && !p.thermTrip && !latched
/-- The ramp starts where nothing stands against it. -/
def Dev.tryRamp (d : Dev) : Dev :=
  if d.pins.mayRamp d.pwr.latched then { d with pins := { d.pins.rampUp with phase := .ramping } } else d
def State.auxPowerUp (s : State) (mgmtMode : Bool) (addrSel : BitVec 3) : State :=
  if s.dev.pins.auxUp then s
  else
    let d := { s.dev with pins := { s.dev.pins with auxUp := true, mgmtMode := mgmtMode, addrSel := addrSel, phase := .aux } }
    State.mgmtBoot { s with dev := d }
def execAuxPowerUp (mgmtMode : Bool) (addrSel : BitVec 3) (s : State) : Host.Outcome State Fault Refusal := .next (s.auxPowerUp mgmtMode addrSel)

def doPwrEnRise (d : Dev) : Dev :=
  if d.pins.auxUp then ({ d with pins := { d.pins with pwrEn := true } }).tryRamp else d
def execPwrEnRise (s : State) : Host.Outcome State Fault Refusal := s.onDev doPwrEnRise

/-- P48V has been in range for 1 ms. -/
def doP48vInRange (d : Dev) : Dev := ({ d with pins := { d.pins with p48vOk := true } }).tryRamp
def execP48vInRange (s : State) : Host.Outcome State Fault Refusal := s.onDev doP48vInRange

/-- The ramp completes, which is power-on for the concentrator (spec/14 R407); with PERST_N high already, the ROM starts now. -/
def State.pwrGoodAssert (s : State) : State :=
  if s.dev.pins.phase ≠ .ramping then s
  else
    let s := { s with dev := { s.dev with pins := { s.dev.pins with phase := .held, pwrGood := true }, evc := Evc.reset } }
    if s.dev.pins.perstN then s.romBoot else s
def execPwrGoodAssert (s : State) : Host.Outcome State Fault Refusal := .next s.pwrGoodAssert

/-- PERST_N deasserts: RCVY_N and TICK_PRSNT_N are sampled, and a powered device boots. -/
def State.perstHigh (s : State) (rcvyN tickPrsntN : Bool) : State :=
  if s.dev.pins.perstN then s
  else
    let s := { s with dev := { s.dev with pins := { s.dev.pins with perstN := true, rcvyN := rcvyN, tickPrsntN := tickPrsntN } } }
    if s.dev.pins.phase = .held then s.romBoot else s
def execPerstNDeassert (rcvyN tickPrsntN : Bool) (s : State) : Host.Outcome State Fault Refusal := .next (s.perstHigh rcvyN tickPrsntN)

/-- PERST_N asserts: debug unlock, too, ends here (spec/16 R459). -/
def State.perstLow (s : State) : State :=
  s.endMain fun p => { p with perstN := false, phase := if p.pwrGood then .held else p.phase }
def execPerstNAssert (s : State) : Host.Outcome State Fault Refusal := .next s.perstLow

/-- PWR_EN falls: as PERST_N asserted, then the rails go. Its being low ends a rail fault's latch (R486, log entry 66) and resets the
concentrator, whatever has fired since main power went (spec/14 R407). -/
def State.pwrEnFall (s : State) : State :=
  let s := s.endMain fun p => { p.rampDown with pwrEn := false, pwrGood := false, phase := if p.auxUp then .aux else .off }
  { s with dev := { s.dev with pwr := { s.dev.pwr with latched := false }, evc := Evc.reset } }
def execPwrEnFall (s : State) : Host.Outcome State Fault Refusal := .next s.pwrEnFall

/-- P48V out of range: loss of main power (R33). -/
def State.mainPowerLoss (s : State) : State :=
  s.endMain fun p => { p.rampDown with p48vOk := false, pwrGood := false, phase := if p.auxUp then .aux else .off }
def execMainPowerLoss (s : State) : Host.Outcome State Fault Refusal := .next s.mainPowerLoss

/-- A near miss noted in PWR_PINS (R54). -/
def doP48vDip (excursion : Bool) (d : Dev) : Dev :=
  { d with pins := if excursion then { d.pins with excursion := true } else { d.pins with uvSeen := true } }
def execP48vDip (excursion : Bool) (s : State) : Host.Outcome State Fault Refusal := s.onDev (doP48vDip excursion)

/-- A main rail leaves regulation while PWR_EN is high (spec/17 R486). PWR_EVT.RAIL is set after the reset, so that it can be read (log
entry 66). -/
def State.railFault (s : State) (rail : BitVec 3) : State :=
  if !s.dev.pins.pwrEn ∨ s.dev.pins.phase = .off ∨ s.dev.pins.phase = .aux then s
  else
    let s := s.logFault ⟨0, 8, rail.toNat, 0x0C, none, none, 0, 0⟩
    let s := s.endMain Pins.railsOff
    let d := s.dev.assertFault 0x0C 8 rail.toNat
    { s with dev := ({ d with pwr := { d.pwr with latched := true } }).setEvt .pwrEvt 0x2000000 }
def execRailFault (rail : BitVec 3) (s : State) : Host.Outcome State Fault Refusal := .next (s.railFault rail)

/-- The hardware thermal trip (R51), wherever P3V3_AUX is present; with the main rails off it stands against their ramp. Sensor number as in
`Pwr.temp`. -/
def State.thermalTrip (s : State) (cask : Bool) (n : Nat) : State :=
  if s.dev.pins.phase = .off then s
  else
    let u := if cask then 16 + n % 8 else n
    let v := max (Tbl.get 0 s.dev.pwr.temp u) (if cask then 210 else 230)
    let s := s.logFault ⟨0, 9, u, 0x0E, none, none, 0, v⟩
    let s := s.endMain Pins.railsOff
    let d := s.dev.assertFault 0x0E 9 u
    { s with dev := { d with pins := { d.pins with thermTrip := true }, pwr := { d.pwr with temp := Tbl.set 0 d.pwr.temp u v } } }
def execThermTrip (cask : Bool) (sensor : BitVec 4) (s : State) : Host.Outcome State Fault Refusal := .next (s.thermalTrip cask sensor.toNat)

/-- A sensor reads at least 15 degrees C below its trip point, in 0.5 degrees C. -/
def Dev.belowTrip (d : Dev) : Bool :=
  d.pwr.temp.all fun e => if e.1 < 16 then decide (e.2 ≤ 200) else if e.1 < 24 then decide (e.2 ≤ 180) else true
/-- THERM_TRIP_N releases while PWR_EN, which has been low for 100 ms, is still low (DEDUCED, log entry 66). -/
def doThermTripRelease (d : Dev) : Dev :=
  if d.pins.thermTrip ∧ d.pins.pwrEn = false ∧ d.belowTrip = true then { d with pins := { d.pins with thermTrip := false } } else d
def execThermTripRelease (s : State) : Host.Outcome State Fault Refusal := s.onDev doThermTripRelease

/-- P3V3_AUX is removed: everything but the flash, the boot flash and the fuses is lost. -/
def State.auxPowerLoss (s : State) : State :=
  let d := (if s.dev.pins.pwrGood then s.mainReset else s).dev
  let z := { Dev.reset with
    pins := { Pins.reset with
      phase := .off, auxUp := false, p48vOk := d.pins.p48vOk, pwrEn := false, perstN := d.pins.perstN, pwrGood := false,
      coolOk := d.pins.coolOk, tickLvl := d.pins.tickLvl, rails := [], railLog := d.pins.rampDown.railLog }
    cellar := d.cellar.kept
    sec := { Sec.reset with chal := d.sec.chal, keys := d.sec.keys }
    od := { Od.reset with val := s.nv.rwp, notifies := d.od.notifies, ibis := d.od.ibis }
    draws := d.draws }
  { s with dev := z }
def execAuxPowerLoss (s : State) : Host.Outcome State Fault Refusal := .next s.auxPowerLoss

/-! Firmware boot (R45, R46, spec/09 R233, R234). -/

/-- The copy of the catalogue that boot takes: of those on channels that pass their tests, the one of the highest sequence number (R225). -/
def Dev.bestCopy (d : Dev) (failed : List UnitId) : CatCopy :=
  (d.cellar.copies.filter fun e => d.cellar.chmap.getLsbD e.1 && !failed.contains (.channel (BitVec.ofNat 6 e.1))).foldl (fun m e => if m.seq.toNat < e.2.seq.toNat then e.2 else m) CatCopy.reset
/-- The catalogue of that copy; an entry that has stood since keeps the places its blocks' table records. -/
def Dev.bootCat (d : Dev) (failed : List UnitId) : Dev :=
  let m := d.bestCopy failed
  let cat := m.cat.map fun e => (e.1, if (d.cat e.1).used && (d.cat e.1).seqNo == e.2.seqNo then d.cat e.1 else e.2)
  { d with cellar := { d.cellar with cat := cat, catSeq := m.seq } }
/-- A committed catalogue entry references a block (R234). -/
def Dev.referenced (d : Dev) (ch b : Nat) : Bool :=
  d.cellar.cat.any fun e => e.2.used && e.2.places.any fun p => p.2.ch == ch && p.2.blk == b
/-- An ALLOCATED block that no committed entry references awaits its erase; one that an entry references holds committed data (R234). -/
def Dev.reconcileAlloc (d : Dev) (ch b : Nat) : Dev :=
  let k := d.blk ch b
  if k.st = .allocated then
    d.setBlk ch b (if d.referenced ch b then { k with committed := true } else { k with st := .erasePending, entry := 0, committed := false })
  else if k.st = .erasePending then d.setBlk ch b { k with entry := 0 } else d
/-- Block `b` of channel `ch` after the journal scan: one whose last record is START, or that was ERASING with no record left, is INTERRUPTED; one
whose DONE is committed is FREE (R233). -/
def Dev.reconcile (d : Dev) (ch b : Nat) : Dev :=
  let k := d.blk ch b
  let cut := (d.setBlk ch b { k with st := .interrupted, entry := 0, committed := false, verified := false, fails := 0 }).setEvt .flcEvt 1
  if !dataBlk b ∨ k.st = .retired then d
  else match d.journalLast ch b with
    | some r =>
      if r.start then cut
      else if k.st = .erasing then d.setBlk ch b { Blk.reset with erases := k.erases + 1 }
      else d.reconcileAlloc ch b
    | none => if k.st = .erasing then cut else d.reconcileAlloc ch b
/-- Every listed block of channels in service. -/
def Dev.scanJournal (d : Dev) : Dev :=
  (d.cellar.blk.filter fun (e : Nat × Blk) => d.cellar.chmap.getLsbD (e.1 / 5472)).foldl
    (fun (d : Dev) (e : Nat × Blk) => d.reconcile (e.1 / 5472) (e.1 % 5472)) d
/-- The concentrator fields that the firmware sets during boot, to values the manual leaves to it (spec/14 R407, log entry 5). -/
def Dev.setCps (d : Dev) : Dev :=
  let en := d.freeNat
  let cp := (List.range 16).foldl (fun (a : Tbl (BitVec 2) × Dev) g =>
    let r := a.2.freeNat
    (Tbl.set 0 a.1 g (BitVec.ofNat 2 r.1), r.2)) (([] : Tbl (BitVec 2)), en.2)
  cp.2.modEvc fun e => { e with cpEn := BitVec.ofNat 16 en.1, cp := cp.1 }
/-- A slot the default model names takes its image from the object, where that is valid. -/
def Dev.bootSlot (o : ObjNo) (d : Dev) (p : Nat × Nat) : Dev :=
  let im := d.objRead o p.2 4096
  if p.1 < 64 ∧ p.2 + 4096 ≤ (d.obj o).size ∧ imageOk im = true ∧ imgVersion im ≠ 0 then
    d.setSlot p.1 { Slot.reset with st := .ready, kind := BitVec.ofNat 4 (imgKind im), etype := BitVec.ofNat 4 (imgEtype im),
                                    cbkW := BitVec.ofNat 4 (imgCbkW im), version := BitVec.ofNat 32 (imgVersion im), image := im }
  else d
/-- At boot the firmware loads the slots that the default model names (spec/06 R149, log entry 103). -/
def Dev.bootSlots (d : Dev) : Dev :=
  match d.attachDefault with
  | none => d
  | some m => (Config.defaultSlots (m.2.objRead m.1 0 4096)).foldl (Dev.bootSlot m.1) m.2
/-- FAULT_N released, unless device-scope Safe Hold stands (R37, R492). -/
def Dev.faultRelease (d : Dev) : Dev :=
  if d.pwr.devHold then d else ({ d with pins := { d.pins with faultDrv := false }, pwr := { d.pwr with fault := 0 } }).alertRelease
/-- BOOT_INIT: the catalogue is taken from its best copy, units that fail their tests are retired, the journal is scanned, floors are restored, partition 0 takes the cores in service,
and the default model is loaded with the slots it names. Its self-test complete, the boot releases FAULT_N (R37). The recovery image does none of it. -/
def State.bootInit (s : State) (failed : List UnitId) : State :=
  let p := s.dev.pins
  if (p.phase ≠ .boot ∧ p.phase ≠ .ready) ∨ p.inited = true ∨ s.dev.fw.recovery = true then s
  else
    let s := failed.foldl (fun s u => s.retireUnit u 0x04) { s with dev := s.dev.bootCat failed }
    let s := ({ s with dev := s.dev.scanJournal }).restoreFloors
    let cores := (List.range 64).filter fun n => (s.dev.core (BitVec.ofNat 6 n)).inService
    let d := cores.foldl (fun (d : Dev) n => d.setCore (BitVec.ofNat 6 n) { d.core (BitVec.ofNat 6 n) with assigned := true, part := 0 }) s.dev
    let d := d.setCps.bootSlots.loadDefault.vineResizeAll
    { s with dev := Dev.faultRelease { d with pins := { d.pins with inited := true }, hif := { d.hif with mboxReady := d.links.group != .satellite } } }
def execBootInit (failed : List UnitId) (s : State) : Host.Outcome State Fault Refusal := .next (s.bootInit failed)

/-- FIRMWARE_READY: Request Retry Status ends. The recovery image answers the mailbox, too (R424), and its boot, which has no BOOT_INIT, releases
FAULT_N here (log entry 41). -/
def doFirmwareReady (d : Dev) : Dev :=
  if d.pins.phase ≠ .boot then d
  else
    let d := { d with
      hif := { d.hif with ready := true, mboxReady := d.hif.mboxReady || d.fw.recovery }
      pins := { d.pins with phase := .ready } }
    if d.fw.recovery then d.faultRelease else d
def execFirmwareReady (s : State) : Host.Outcome State Fault Refusal := s.onDev doFirmwareReady

/-! TICK and COOL_OK (R38, R39; spec/17 R475 to R477). -/

/-- An accepted edge is recorded, unless TICK is absent, the device does not run, it is in NAP or DEEP, or it is a satellite (spec/12 R338). -/
def Dev.tickTaken (d : Dev) : Bool :=
  !d.pins.tickPrsntN && (d.pins.phase == .boot || d.pins.phase == .ready) && d.pwr.st != .nap && d.pwr.st != .deep && d.links.group != .satellite
/-- An edge of TICK: the level that PWR_PINS shows changes (R54), and an accepted rising edge is recorded. An open TICK is high, so the first edge from
reset falls. -/
def doTickEdge (d : Dev) : Dev :=
  let d := { d with pins := { d.pins with tickLvl := !d.pins.tickLvl } }
  if d.pins.tickLvl && d.tickTaken then ({ d with srv := { d.srv with ticks := d.now :: d.srv.ticks } }).edgeAll d.now else d
def execTickEdge (s : State) : Host.Outcome State Fault Refusal := s.onDev doTickEdge

/-- Every sequence withdrawn, at the retirements of the steps in flight (R476 step 2). -/
def State.withdrawAll (s : State) : State :=
  (s.dev.ranked (s.dev.seqsWhere fun e => e.alive && e.st != .ending)).foldl (fun s x => s.decideEnd x.1 stWITHDRAWN 0x0002)
    { s with dev := { s.dev with pwr := { s.dev.pwr with withdrawn := true } } }
/-- A thermal emergency begins: the record, the event, a level asked for, activations held. -/
def State.thermalBegin (s : State) (cause unit detail lev : Nat) : State :=
  let s := s.logFault ⟨0, 9, unit, cause, none, none, 0, detail⟩
  let p := s.dev.pwr
  let d := { s.dev with pwr := { p with therm := true, emergAt := s.dev.now, emergLevel := max p.emergLevel lev } }
  { s with dev := (d.setEvt .pwrEvt 0x20).actHold }
/-- COOL_OK changes. Its fall while sequences are admitted withdraws them all; in NAP and DEEP the device stays where it is (R487). -/
def State.coolChange (s : State) (level : Bool) : State :=
  let d := s.dev
  let fell := d.pins.coolOk && !level
  let d := { d with pins := { d.pins with coolOk := level } }
  let s' := { s with dev := if fell then d.setEvt .pwrEvt 0x80 else d }
  if fell = true ∧ d.pwr.st ≠ .nap ∧ d.pwr.st ≠ .deep ∧ (d.seqsWhere fun e => e.alive).isEmpty = false then
    let s' := { s' with dev := { s'.dev with pwr := { s'.dev.pwr with coolLost := true } } }
    (if d.pwr.therm then s' else s'.thermalBegin 0x10 0 0 0).withdrawAll
  else s'
def execCoolOkChange (level : Bool) (s : State) : Host.Outcome State Fault Refusal := .next (s.coolChange level)

end Sys2Proof.Machine
end

