-- ==== Sys2Proof/Machine/Power.lean ====
section
/-! DEFINITION. Power states, the limiter, sensors, emergencies, caps and levels, and the debug port (spec/17 R469 to R477; spec/14 R405,
R406; spec/16 R459). -/

namespace Sys2Proof.Machine

/-- The firmware runs: booted, and not in DEEP. -/
def Dev.awake (d : Dev) : Bool := (d.pins.phase == .boot || d.pins.phase == .ready) && d.pwr.st != .deep

/-! The limiter (R473). -/

/-- A power emergency begins. -/
def State.powerBegin (s : State) (power : Nat) : State :=
  let s := s.logFault ⟨0, 8, 0, 0x0F, none, none, 0, power⟩
  let p := s.dev.pwr
  let lev := min 4 (levelOf p.capForce + 1)
  let d := { s.dev with pwr := { p with power := true, emergAt := s.dev.now, emergLevel := max p.emergLevel lev } }
  { s with dev := (d.setEvt .pwrEvt 8).actHold }
/-- One sample: the power now, which a record names, the 1 ms average against the cap in force, and the limiter's time within the last 100 ms. What it withholds is timing (log
entry 2). -/
def State.limiter (s : State) (power avg1 avg100 : BitVec 16) : State :=
  let d := s.dev
  let on := decide (d.pwr.capForce * 10 < avg1.toNat)
  let past := d.pwr.limited.filter fun t => decide (d.now < t + 100000000)
  let d := { d with pwr := { d.pwr with
    now := avg1, avg100 := avg100, limiting := on, limited := if on then d.now :: past else past
    limitAt := if on then none else some (d.pwr.limitAt.getD d.now) } }
  let d := if on then (d.setEvt .pwrEvt 4).stall (pwrReg 0x20) (0x6000 * 256 + 6) else d
  let s := { s with dev := d }
  if d.awake && !d.pwr.power && decide (1000 < d.pwr.limited.length) then s.powerBegin power.toNat else s
def execLimiterSample (power avg1ms avg100ms : BitVec 16) (s : State) : Host.Outcome State Fault Refusal :=
  .next ((s.limiter power avg1ms avg100ms).toldLevel s.dev)

/-! Sensors (R475). -/

/-- Warning and emergency values of sensor `i`, in 0.5 degrees C. -/
def sensorLimits (i : Nat) : Nat × Nat :=
  if i < 16 then (190, 200) else if i < 24 then (176, 190) else if i < 36 then (170, 180) else if i < 44 then (150, 160)
  else if i < 50 then (210, 230) else (110, 120)
/-- The last reading of a sensor; 40 degrees C before any (log entry 37). -/
def Dev.sensor (d : Dev) (i : Nat) : Nat := (lookupKey i d.pwr.temp).getD 80
/-- The hottest of sensors `a` to `a + n - 1`. -/
def Dev.hottestOf (d : Dev) (a n : Nat) : Nat := (upFrom a n).foldl (fun m i => max m (d.sensor i)) 0
/-- Hottest die, Cask, Rack, Cellar and stage sensor, and the outlet (R489). -/
def Dev.hottest (d : Dev) : List Nat :=
  [d.hottestOf 0 16, d.hottestOf 16 8, d.hottestOf 24 12, d.hottestOf 36 8, d.hottestOf 44 6, d.sensor 50]
/-- Sensors at or above a limit. -/
def Dev.sensorsOver (d : Dev) (f : Nat → Nat) : List Nat := (List.range 51).filter fun i => decide (f i ≤ d.sensor i)
/-- The readings of a round, in the order of `Pwr.temp`; a sensor with none keeps its last. -/
def Dev.readings (d : Dev) (ts : List (BitVec 8)) : Dev :=
  let d := { d with pwr := { d.pwr with temp :=
      ((List.range (min 51 ts.length)).foldl (fun t i => Tbl.put i (ts.getD i 0).toNat t) d.pwr.temp) } }
  { d with pwr := { d.pwr with tempLog := (d.now, d.hottest) :: d.pwr.tempLog.filter fun e => decide (d.now < e.1 + 100000000) } }
def State.sensors (s : State) (ts : List (BitVec 8)) : State :=
  let d := s.dev.readings ts
  if !d.awake then { s with dev := d }
  else
    let warm := d.sensorsOver fun i => (sensorLimits i).1
    let hot := d.sensorsOver fun i => (sensorLimits i).2
    let d := { d with pwr := { d.pwr with coolAt := if warm.isEmpty then some (d.pwr.coolAt.getD d.now) else none } }
    let s := { s with dev := if warm.isEmpty then d else d.setEvt .pwrEvt 0x10 }
    match hot with
    | i :: _ => if d.pwr.therm then s else s.thermalBegin 0x0D i (d.sensor i) (min 4 (levelOf d.pwr.capForce + 1))
    | [] => s
def execSensorRead (temps : List (BitVec 8)) (s : State) : Host.Outcome State Fault Refusal := .next ((s.sensors temps).toldLevel s.dev)

/-! Emergencies (R473, R475, R476). -/

/-- A time lies at least a second back. -/
def Dev.secondPast (d : Dev) (t : Option Nat) : Bool := t.any fun t => decide (t + 1000000000 ≤ d.now)
/-- EMERGENCY_CLEAR: each kind whose condition holds clears; after the last one nothing of it stays. -/
def doEmergencyClear (d : Dev) : Dev :=
  let p := d.pwr
  let t := p.therm && d.pins.coolOk && d.secondPast p.coolAt
  let w := p.power && d.secondPast p.limitAt
  if !t && !w then d
  else
    let p := { p with therm := p.therm && !t, power := p.power && !w, coolLost := p.coolLost && !t }
    let d := (({ d with pwr := p }).alertRelease).setEvt .pwrEvt 0x40
    if p.therm || p.power then d
    else ({ d with pwr := { d.pwr with emergLevel := 0, withdrawn := false } }).actResume
def execEmergencyClear (s : State) : Host.Outcome State Fault Refusal := s.onDev fun d => (doEmergencyClear d).toldLevel d.planLevel

/-- The cause of an emergency persists. -/
def Dev.persists (d : Dev) : Bool :=
  (d.pwr.therm && (d.pwr.coolAt.isNone || !d.pins.coolOk)) || (d.pwr.power && d.pwr.limitAt.isNone)
/-- EMERGENCY_LEVEL_DROP: 100 ms more of it ask for one level more; 100 ms at L4 withdraw every sequence. -/
def State.emergencyDrop (s : State) : State :=
  let d := s.dev
  let p := d.pwr
  if !d.persists || decide (d.now < p.emergAt + 100000000) then s
  else
    let d := { d with pwr := { p with emergAt := d.now, emergLevel := min 4 (max p.emergLevel (levelOf p.capForce) + 1) } }
    if p.level = 4 ∧ p.withdrawn = false then State.withdrawAll { s with dev := d } else { s with dev := d }
def execEmergencyLevelDrop (s : State) : Host.Outcome State Fault Refusal := .next (s.emergencyDrop.toldLevel s.dev)

/-! Caps and levels (R472). -/

/-- A cap written: a raised one is in force at once, a lowered one waits for its level change and is a trigger of spec/11 R301. -/
def State.writeCap (s : State) (v : Nat) : State :=
  let d := s.dev
  let d := { d with pwr := { d.pwr with capWritten := v } }
  if d.pwr.capForce ≤ v then
    let d := { d with pwr := { d.pwr with capForce := v, capAt := none } }
    State.toldLevel s.dev { s with dev := if d.pwr.capForce = s.dev.pwr.capForce then d else d.setEvt .pwrEvt 2 }
  else
    let d := { d with pwr := { d.pwr with capAt := some d.now } }
    (if d.pwr.level < levelOf v then State.refitAll { s with dev := d } (levelOf v) else { s with dev := d }).toldLevel s.dev
/-- A gap: no step of an ACTIVE plan in flight, and no schedule point within 150 µs. -/
def Dev.gap (d : Dev) : Bool := d.srv.plan.all (fun e => !(e.2.st == .active && e.2.running)) && d.pointsAfter (d.now + 150000)
/-- The level the cap last written and an emergency ask for: the lower of the two (R487). -/
def Dev.target (d : Dev) : Nat := max (levelOf d.pwr.capWritten) d.pwr.emergLevel
/-- LEVEL_CHANGE, in a gap: the level follows, a lowered cap comes into force, and a lower level meets every plan's figures again. The 100 ms at L4
that R476 gives the cause count from there. -/
def State.changeLevel (s : State) : State :=
  let d := s.dev
  if !d.gap then s
  else
    let lev := d.target
    let old := d.pwr.level
    let d := if d.pwr.capAt.isSome then ({ d with pwr := { d.pwr with capForce := d.pwr.capWritten, capAt := none } }).setEvt .pwrEvt 2 else d
    let d := if lev = old then d else ({ d with pwr := { d.pwr with level := lev, emergAt := if lev = 4 then d.now else d.pwr.emergAt } }).setEvt .pwrEvt 1
    if old < lev then State.refitAll { s with dev := d } lev else { s with dev := d }
def execLevelChange (s : State) : Host.Outcome State Fault Refusal := .next (s.changeLevel.toldLevel s.dev)

/-- CAP_FORCE_TIMEOUT: no gap within 20 ms of the write. -/
def doCapForceTimeout (d : Dev) : Dev :=
  if d.pwr.capAt.any fun t => decide (t + 20000000 ≤ d.now) then
    ({ d with pwr := { d.pwr with capForce := d.pwr.capWritten, capAt := none } }).setEvt .pwrEvt 2
  else d
def execCapForceTimeout (s : State) : Host.Outcome State Fault Refusal := s.onDev doCapForceTimeout

/-! Power states (R470, spec/14 R405, R406). -/

/-- No sequence in PREFILL or DECODE. -/
def Dev.noneActive (d : Dev) : Bool := (d.seqsWhere fun e => e.active).isEmpty
def doIdleEntry (d : Dev) : Dev :=
  if d.pwr.st = .active ∧ (d.cores.tag.any fun e => e.2.inFlight) = false ∧ d.noneActive = true then
    { d with pwr := { d.pwr with st := .idle, idleAt := d.now } }
  else d
def execIdleEntry (s : State) : Host.Outcome State Fault Refusal := s.onDev doIdleEntry

def Dev.napAfterNs (d : Dev) : Nat := d.odNat (0x6000 * 256 + 5) 1000 * 1000000
/-- Work that keeps the device out of NAP: a TICK plan, tier moves, erases, staging, re-encryption, scrub. -/
def Dev.napBlocked (d : Dev) : Bool :=
  (d.srv.plan.any fun e => e.2.st == .active && e.2.tick) || !d.tier.run.isEmpty || !d.tier.moves.isEmpty ||
  (d.cellar.die.any fun e => (e.2.run.toList ++ e.2.susp.toList).any fun o => o.op == .erase) || d.fw.stageComp.isSome ||
  d.sec.part.any fun e => e.2.live2 || e.2.st == .scrubbing
/-- The concentrator's state goes to retention. -/
def Dev.retain (d : Dev) : Dev := { d with evc := { d.evc with retained := some d.evc.core } }
/-- Hold-off timers that were running at the save start over with their full value (R406). -/
def EvcCore.rerun (e : EvcCore) (now : Nat) : EvcCore := 
  { e with hoFrom := (List.range 16).foldl (fun t g => if e.hoRun.getLsbD g then Tbl.set 0 t g now else t) e.hoFrom }
/-- The state on wake: restored, scratchpad lines clear, armed groups deliver. -/
def State.wake (s : State) : State :=
  let d := s.dev
  let v := d.evc
  let d := { d with
    evc := { v with core := (v.retained.getD v.core).rerun d.now, retained := none, restored := true }
    pwr := { d.pwr with st := .idle, idleAt := d.now } }
  let d := (List.range 64).foldl (fun (d : Dev) n => d.spClear (BitVec.ofNat 6 n)) d
  State.deliverAll { s with dev := d.setEvt .pwrEvt 0x100 }
def doNapEntry (d : Dev) : Dev :=
  if d.pwr.st = .idle ∧ d.links.group = .solo ∧
      (d.pins.coolOk = false ∨ (d.pwr.idleAt + d.napAfterNs ≤ d.now ∧ d.napBlocked = false)) then
    (({ d with pwr := { d.pwr with st := .nap } }).retain).setEvt .pwrEvt 0x100
  else d
def execNapEntry (s : State) : Host.Outcome State Fault Refusal := s.onDev doNapEntry

/-- NAP_WAKE; while COOL_OK is low the device stays (R477, R487). -/
def execNapWake (s : State) : Host.Outcome State Fault Refusal :=
  .next (if s.dev.pwr.st = .nap ∧ s.dev.pins.coolOk = true then s.wake else s)

/-- The PF and every enabled VF are in D3hot. -/
def Hif.allHot (h : Hif) : Bool := (List.range (1 + h.numVfs)).all fun f => Tbl.get false h.d3 f
/-- DEEP_ENTRY. -/
def doDeepEntry (d : Dev) : Dev :=
  if (d.pwr.st = .idle ∨ d.pwr.st = .nap) ∧ d.hif.allHot = true ∧ d.links.group = .solo ∧ (d.seqsWhere fun e => e.served).isEmpty = true then
    let e := d.pwr.st == .idle
    let d := { d with pwr := { d.pwr with st := .deep } }
    (if e then d.retain else d).setEvt .pwrEvt 0x100
  else d
def execDeepEntry (s : State) : Host.Outcome State Fault Refusal := s.onDev doDeepEntry

/-- DEEP_WAKE: the PF is back in D0. -/
def State.deepWake (s : State) : State :=
  if s.dev.pwr.st = .deep then
    State.wake { s with dev := { s.dev with hif := { s.dev.hif with d3 := Tbl.set false s.dev.hif.d3 0 false } } }
  else s
def execDeepWake (s : State) : Host.Outcome State Fault Refusal := .next s.deepWake

/-! The debug port (spec/16 R459). -/

/-- IDCODE and boundary scan always answer; halting a control processor and reading firmware SRAM need the unlock. -/
def doDebugPort (a : DebugAcc) (d : Dev) : Dev :=
  match a with
  | .idcode => { d with od := { d.od with debugOut := Config.idcode.zeroExtend 64 } }
  | .boundaryScan => { d with od := { d.od with debugOut := Config.boundaryScan d.draws }, draws := d.draws + 1 }
  | .haltCp cp =>
    if d.sec.debugUnlocked then { d with od := { d.od with halted := d.od.halted ||| BitVec.ofNat 4 (2 ^ cp.toNat) } } else d
  | .readSram a =>
    if d.sec.debugUnlocked then { d with od := { d.od with debugOut := Config.firmwareSram a.toNat d.draws }, draws := d.draws + 1 } else d
def execDebugPortAccess (a : DebugAcc) (s : State) : Host.Outcome State Fault Refusal := s.onDev (doDebugPort a)

end Sys2Proof.Machine
end

