-- ==== Sys2Proof/Machine/Views.lean ====
section
/-! DEFINITION. What the registers of PF BAR0 and VF BAR0 read (R9, R54, R115 to R117, R136, R137, R162 to R164, R187 to R189, R214 to
R217, R239 to R244, R276 to R278, R318 to R321, R355 to R358, R366, R388 to R394, R408 to R412, R431 to R435, R458, R463 to R466,
R488 to R492, R511, R512). No row of the table is a register read: these are the values one returns. -/

namespace Sys2Proof.Machine

/-- A field at bit `lo`. -/
def at' (lo v : Nat) : Nat := v * 2 ^ lo
/-- Its half of the 64-bit register at `base`, at offset `off`. -/
def halfAt (off base v : Nat) : Nat := if off = base then v % 2 ^ 32 else v / 2 ^ 32 % 2 ^ 32
/-- A counter as it reads: under confidential mode the value sampled at the last multiple of 10 ms, bits [15:0] clear (R458). -/
def Dev.counter (d : Dev) (off : Nat) : Nat :=
  if d.confActive && !decide (0x10000 ≤ off ∧ off < 0x11000) then (Tbl.get (0 : W64) d.cntHeld off).toNat / 65536 * 65536
  else (Tbl.get (0 : W64) d.cnt off).toNat
/-- A total of the Object Dictionary as it reads. -/
def Dev.total (d : Dev) (ent : Nat) : Nat :=
  if d.confActive then (Tbl.get (0 : W64) d.totHeld ent).toNat / 65536 * 65536 else (Tbl.get (0 : W64) d.tot ent).toNat

/-! Cores and engines. -/

/-- Running commands of a core. -/
def Dev.runningOn (d : Dev) (c : CoreNo) : List (Nat × TagE) :=
  d.cores.tag.filter fun e => e.2.st == .running && !opChip e.2.desc.op && e.2.desc.core == c
/-- TAG, PROD and busy fields of the core read zero (R458). -/
def Dev.coreHidden (d : Dev) (c : CoreNo) : Bool := (d.core c).assigned && (d.part (d.core c).part).conf
/-- CORE_STAT. -/
def Dev.coreStat (d : Dev) (c : CoreNo) : Nat :=
  let k := d.core c
  let us := (d.runningOn c).flatMap fun e => e.2.units
  let b := fun u => b2n (us.contains u)
  let busy := if d.coreHidden c then 0 else
    at' 8 (b2n (!k.queue.isEmpty)) + at' 7 (b 7) + at' 6 (b 6) + at' 5 (b 5) + at' 4 (b 4) + at' 3 (b 3) + at' 2 (b 2) + at' 1 (b 1) + b 0
  at' 16 (d.accepted c) + at' 15 (b2n k.inService) + at' 14 (b2n k.assigned) + at' 11 k.part.toNat + busy
/-- MXE_CUR. -/
def Dev.mxeCur (d : Dev) (c : CoreNo) : Nat :=
  if d.coreHidden c then 0
  else sumNat ((List.range 4).map fun m => match (d.runningOn c).find? fun e => e.2.units.contains m with
    | some e => at' (16 * m) (at' 12 1 + e.1)
    | none => 0)
/-- VE_STAT: the command that occupies the vector engine, an ATTEND as well (R187, R264). -/
def Dev.veStat (d : Dev) (c : CoreNo) : Nat :=
  if d.coreHidden c then 0
  else match (d.runningOn c).find? fun e => e.2.units.contains 4 with
    | some e => at' 13 (b2n (e.2.desc.op == 0x12)) + at' 12 1 + e.1
    | none => 0
/-- VE_TQ. -/
def Dev.veTq (d : Dev) (c : CoreNo) : Nat :=
  let k := d.core c
  let head := match k.queue with
    | [] => 0
    | e :: _ => at' 28 1 + at' 16 (if d.coreHidden c then 0 else e.prod.toNat) + at' 11 (b2n e.fail) + at' 10 (b2n e.last)
  head + at' 5 k.hwm + k.queue.length
/-- ATT_STAT. -/
def Dev.attStat (d : Dev) (c : CoreNo) : Nat :=
  if d.coreHidden c then 0
  else match (d.runningOn c).find? fun e => e.2.desc.op == 0x30 with
    | some e =>
      let r := d.attRun (BitVec.ofNat 12 e.1)
      at' 14 (if !r.on then 1 else if r.todo.isEmpty then 3 else 2) + at' 12 1 + e.1
    | none => 0
/-- WX_SLOT_STAT of slot `n`. -/
def Dev.slotStat (d : Dev) (n : Nat) : Nat :=
  let s := d.slot n
  let owner := ((List.range 8).find? fun p => d.slotOwned (BitVec.ofNat 3 p) n).getD 0
  at' 62 s.st.code + at' 59 owner + (if s.st = .empty then 0 else at' 48 s.kind.toNat) + at' 32 s.pins.toNat +
    (if s.st = .empty then 0 else s.version.toNat)

/-! Tiers, Cellar, serving engine. -/

def Dev.tierStat (d : Dev) : Nat := at' 16 d.tier.moves.length + d.runningOf 64
def Dev.flcSts (d : Dev) : Nat :=
  let c := d.cellar
  at' 30 c.lock + at' 29 (b2n c.busy) + at' 20 c.result.toNat + at' 16 c.rlvl.toNat + c.cbits.toNat
/-- Plans ACTIVE or DRAINING. -/
def Dev.plansRun (d : Dev) : Nat := (d.srv.plan.filter (·.2.runs)).length
def Dev.srvStat (d : Dev) : Nat :=
  at' 16 (d.seqsWhere fun e => e.active).length + at' 11 d.plansRun + at' 10 (b2n (d.hif.lease.any (·.2.st == .hold))) + at' 9 (b2n d.mboxOn) +
  at' 8 (b2n (!d.srv.recomp.isEmpty))
/-- SRV_STEP, SRV_SCHED, SRV_DUE and SRV_COMMIT of a plan. -/
def Plan.stepRegs (p : Plan) : List Nat := [p.k, p.sched, p.due, p.commit]

/-! Links. -/

def PortState.code : PortState → Nat
  | .disabled => 0
  | .detect => 1
  | .train => 2
  | .up => 3
  | .fault => 4
def GroupState.code : GroupState → Nat
  | .solo => 0
  | .forming => 1
  | .grouped => 2
  | .degraded => 3
  | .satellite => 4
/-- ROLE: 0 none, 1 head, 2 satellite. -/
def GroupState.role (g : GroupState) : Nat := if isHead g then 1 else if g = .satellite then 2 else 0
def Port.stat (q : Port) : Nat :=
  at' 20 q.retired.toNat + at' 16 q.active.toNat + at' 10 q.partnerMember.toNat + at' 7 q.pport.toNat + at' 6 (b2n q.retuning.isSome) + q.st.code
def Port.vcq (q : Port) : Nat := at' 11 q.hwm + Tbl.get 0 q.occ 1
def Links.groupReg (l : Links) : Nat :=
  at' 23 l.size + at' 17 l.member.toNat + at' 14 l.group.code + at' 12 l.group.role
/-- ELK_PRESENT. -/
def Links.presentMask (l : Links) : Nat := (l.members.filter (·.2.present)).foldl (fun m e => m + 2 ^ e.1) 0
def Route.reg (r : Route) : Nat := at' 16 r.hops.toNat + at' 15 (b2n r.valid) + at' 8 r.next.toNat + r.ports.toNat

/-! Firmware and security. -/

def Dev.fwStat (d : Dev) : Nat :=
  at' 8 d.fw.stager.toNat + at' 1 (b2n ((List.range 8).any fun c => (d.comp c).st == .pending && (d.comp c).reason == 1)) + b2n d.fw.recovery
/-- FW_RESULT of a path. -/
def Dev.fwResultReg (d : Dev) (path : CmdPath) : Nat :=
  at' 16 (b2n d.fw.busy) + (match path with
    | .host => d.fw.result
    | .mgmt => d.fw.resultMgmt).toNat
/-- FW_VER. -/
def State.fwVer (s : State) (c : Nat) : Nat :=
  let k := s.dev.comp c
  at' 32 (if s.nv.valid k.other c then (s.nv.copy k.other c).version.toNat else 0) + k.run.version.toNat
/-- FW_COMPST. -/
def State.fwCompst (s : State) (c : Nat) : Nat :=
  let k := s.dev.comp c
  at' 28 k.st.code + at' 27 (b2n k.runB) + at' 26 (b2n (s.nv.valid k.other c)) + at' 25 (b2n k.fellback) +
    at' 16 (if k.st = .pending then k.reason.toNat else 0) + at' 8 k.run.svn + s.nv.floorOf c
def PartState.code : PartState → Nat
  | .absent => 0
  | .live => 1
  | .draining => 2
  | .retiring => 3
  | .scrubbing => 4
/-- Partitions that satisfy `f`, as a mask. -/
def Dev.partMask (d : Dev) (f : Part → Bool) : Nat := (d.sec.part.filter fun e => f e.2).foldl (fun m e => m + 2 ^ e.1) 0
def Dev.present8 (d : Dev) : Nat := d.partMask fun q => q.st != .absent
def Dev.conf8 (d : Dev) : Nat := d.partMask fun q => q.conf && q.st != .absent
def Dev.secStat (d : Dev) : Nat :=
  at' 16 d.present8 + at' 8 d.conf8 + at' 7 (b2n d.confActive) + at' 6 (b2n d.sec.debugUnlocked) + at' 5 (b2n d.sec.entropyOk)
/-- SEC_PART +0x00. -/
def Part.word (q : Part) : Nat :=
  at' 48 q.epoch.toNat + at' 32 q.vintCur.toNat + at' 16 q.vintOld.toNat + at' 7 (b2n q.live2) + at' 6 (b2n q.zero) + at' 5 (b2n q.conf) + q.st.code
/-- Cores assigned to a partition; partition 0 reads all ones until the boot assigns them. -/
def Dev.partCores (d : Dev) (p : PartNo) : Nat := if p = 0 ∧ !d.pins.inited then 2 ^ 64 - 1 else d.coresOf p
/-- SEC_PART +0x10. -/
def Dev.partRest (d : Dev) (p : PartNo) : Nat :=
  let q := d.part p
  at' 8 (if q.live2 then d.remain p q.vintOld else 0) + d.vfBits p

/-! Power and pins. -/

def PwrState.code : PwrState → Nat
  | .active => 0
  | .idle => 1
  | .nap => 2
  | .deep => 3
/-- COOL_HOLD: COOL_OK low, and the hold applies (R477). -/
def Dev.coolHold (d : Dev) : Bool := !d.pins.coolOk
def Dev.pwrStat (d : Dev) : Nat :=
  let p := d.pwr
  at' 24 p.partHold.toNat + at' 15 (b2n p.devHold) + at' 14 (b2n d.coolHold) + at' 13 (b2n p.therm) + at' 12 (b2n p.power) +
    at' 11 (b2n p.limiting) + at' 8 p.level + p.st.code
/-- PWR_POWER; under confidential mode both fields hold the 100 ms average rounded to a multiple of 100 (R489). -/
def Dev.pwrPower (d : Dev) : Nat :=
  let p := d.pwr
  if d.confActive then
    let a := (p.avg100.toNat + 50) / 100 * 100
    at' 16 a + a
  else at' 16 p.avg100.toNat + p.now.toNat
def Dev.pwrCap (d : Dev) : Nat := at' 16 d.pwr.capForce + d.pwr.capWritten
/-- Reading `i` of `Dev.hottest`; under confidential mode its 100 ms average rounded to an even value (R489). -/
def Dev.heat (d : Dev) (i : Nat) : Nat :=
  let now := d.hottest.getD i 0
  if d.confActive then
    let l := d.pwr.tempLog.map fun e => e.2.getD i 0
    if l.isEmpty then (now + 1) / 2 * 2 else (sumNat l + l.length) / (2 * l.length) * 2
  else now
def Dev.pwrTemp (d : Dev) : Nat := at' 24 (d.heat 5) + at' 16 (d.heat 2) + at' 8 (d.heat 1) + d.heat 0
def Dev.pwrTemp2 (d : Dev) : Nat := at' 8 (d.heat 3) + d.heat 4
/-- PWR_PINS (R54). -/
def Dev.pwrPins (d : Dev) : Nat :=
  let p := d.pins
  at' 11 (b2n p.faultDrv) + at' 10 (b2n p.coolOk) + at' 9 (b2n (p.tickLvl && !p.tickPrsntN)) + at' 8 (b2n (!p.tickPrsntN)) +
    at' 7 (b2n (!p.rcvyN && d.fw.recovery)) + at' 6 (b2n p.mgmtMode) + at' 3 p.addrSel.toNat + at' 2 (b2n p.pwrEn) + at' 1 (b2n p.uvSeen) +
    b2n p.excursion

/-! Host interface. -/

def LeaseState.code : LeaseState → Nat
  | .none => 0
  | .live => 1
  | .hold => 2
/-- HIF_STATUS of a function. -/
def Dev.hifStatus (d : Dev) (f : Nat) : Nat :=
  let h := d.hif
  at' 15 (b2n d.held) + at' 13 d.links.group.role + at' 12 (b2n h.ptmLock) + at' 11 (b2n h.mboxReady) + at' 10 (b2n (d.feature 0)) +
    at' 8 (d.lease f).st.code + b2n h.ready
/-- Entries of a queue that wait in the device or the backlog. -/
def Dev.waiting (d : Dev) (q : QueueNo) : Nat :=
  ((d.tagsOf q).filter fun t => (d.tagE t).st == .completing).length + (d.queue q).due.length + (d.hif.backlog.filter (·.q == some q)).length
/-- HIF_QSTAT. -/
def Dev.qstat (d : Dev) (q : QueueNo) : Nat :=
  let k := d.queue q
  let n := d.waiting q
  at' 31 (b2n k.fault) + at' 30 (b2n (k.full && decide (0 < n))) + at' 29 (b2n k.draining) + at' 24 k.err.toNat + n
/-- HIF_QCFG. -/
def QueueSt.cfgReg (k : QueueSt) : Nat := k.cfg.toNat / 2 * 2 + b2n k.en
/-- Fields of HIF_QCFG that hold a value (R392). -/
def qcfgMask : Nat := at' 48 31 + at' 40 31 + at' 32 15 + at' 20 63 + at' 18 3 + at' 8 7 + at' 1 3

/-! The event concentrator. -/

def EvcCore.gcfg (e : EvcCore) (g : Nat) : Nat :=
  at' 31 (b2n (e.hoRun.getLsbD g)) + at' 30 (b2n (e.armed.getLsbD g)) + at' 18 (Tbl.get (0 : BitVec 2) e.cp g).toNat + at' 17 (b2n (e.cpEn.getLsbD g)) +
    at' 16 (b2n (e.msiEn.getLsbD g)) + at' 8 (Tbl.get (0 : BitVec 4) e.holdoff g).toNat + (Tbl.get (0 : BitVec 6) e.vector g).toNat

/-! The map (R364, R365). -/

/-- The event register at an offset of PF BAR0. -/
def evtAt (off : Nat) : Option EvtReg :=
  let page := off % 0x1000
  let core : CoreNo := BitVec.ofNat 6 (off / 0x1000)
  if off = 0x10108 then some .pwrEvt
  else if off = 0x11100 then some .tierEvt
  else if off = 0x12100 then some .srvEvt
  else if off = 0x13100 then some .fwEvt
  else if off = 0x14100 then some .secEvt
  else if off = 0x38010 then some .elkGevt
  else if off = 0x40100 then some .flcEvt
  else if off = 0x3C0100 then some .attChipEvt
  else if 0x30000 ≤ off ∧ off < 0x38000 ∧ page = 0x100 then some (.elkEvt (BitVec.ofNat 3 (off / 0x1000)))
  else if 0x200000 ≤ off ∧ off < 0x240000 ∧ page = 0x20 then some (.coreEvt core)
  else if 0x240000 ≤ off ∧ off < 0x280000 ∧ page = 0x100 then some (.mxeEvt core)
  else if 0x280000 ≤ off ∧ off < 0x2C0000 ∧ page = 0x100 then some (.veEvt core)
  else if 0x300000 ≤ off ∧ off < 0x340000 ∧ page = 0x100 then some (.wxEvt core)
  else if 0x380000 ≤ off ∧ off < 0x3C0000 ∧ page = 0x100 then some (.attEvt core)
  else none
/-- Bytes of a window, as a 32-bit word. -/
def wordOf (m : Memory) (off : Nat) : Nat := Memory.readLe m off 4
def listWord (l : List Byte) (off : Nat) : Nat := leNat ((l.drop off).take 4)

/-- HIF_ registers as function `f` sees them. -/
def Dev.hifWord (d : Dev) (f off : Nat) : Nat :=
  let h := d.hif
  let l := d.lease f
  let b := off / 8 * 8
  let w := halfAt off b
  if off = 0x04 then d.hifStatus f
  else if b = 0x08 then w h.devTime.toNat
  else if b = 0x10 then w (at' 32 h.ptmOffset.toNat + h.ptmPeriod.toNat)
  else if b = 0x20 then w (d.offered.toNat % 2 ^ 64)
  else if b = 0x28 then w (d.offered.toNat / 2 ^ 64)
  else if b = 0x30 then (if f = 0 then w (h.req.toNat % 2 ^ 64) else 0)
  else if b = 0x38 then (if f = 0 then w (h.req.toNat / 2 ^ 64) else 0)
  else if b = 0x40 then w (h.accepted.toNat % 2 ^ 64)
  else if b = 0x48 then w (h.accepted.toNat / 2 ^ 64)
  else if b = 0x50 then w l.regId.toNat
  else if off = 0x58 then l.regCfg.toNat
  else if off = 0x60 then at' 8 l.result.toNat
  else if b = 0x68 then w (if l.st = .none then 0 else l.due)
  else if off = 0x100 then (Tbl.get (0 : W32) d.evt (0x1020 + f)).toNat
  else if 0x200 ≤ off ∧ off < 0x300 then (if f = 0 then (d.queue (BitVec.ofNat 6 ((off - 0x200) / 4))).func.toNat else 0)
  else if 0x1000 ≤ off ∧ off < 0x2000 then
    let q : QueueNo := BitVec.ofNat 6 ((off - 0x1000) / 0x40)
    let k := d.queue q
    let r := b % 0x40
    if f ≠ 0 ∧ k.func.toNat ≠ f then 0
    else if r = 0x00 then w k.sqBase.toNat
    else if r = 0x08 then w k.cqBase.toNat
    else if r = 0x10 then w k.cfgReg
    else if off % 0x40 = 0x18 then d.qstat q
    else 0
  else if f ≠ 0 then 0
  else if b = 0x8000 then w (at' 32 h.inHead + h.inTail)
  else if b = 0x8008 then w (at' 32 h.outTail + h.outHead)
  else if off = 0x8010 then at' 13 (b2n h.drain) + d.mboxSeqs
  else 0
/-- A doorbell page as function `f` sees it. -/
def Dev.doorWord (d : Dev) (f off : Nat) : Nat :=
  let q : QueueNo := BitVec.ofNat 6 ((off - 0x100000) / 0x1000)
  let k := d.queue q
  let r := off % 0x1000
  if k.func.toNat ≠ f then 0 else if r = 0 then k.sqTail else if r = 4 then k.cqHead else if r = 8 then k.sqHead else 0
/-- MSI-X table and pending bits of a function. -/
def Dev.msixWord (d : Dev) (f off : Nat) : Nat :=
  let h := d.hif
  if 0x140000 ≤ off ∧ off < 0x140400 then
    let k := f * 64 + (off - 0x140000) / 16
    let r := off % 16
    if r = 0 then (Tbl.get (0 : W64) h.msixAddr k).toNat % 2 ^ 32
    else if r = 4 then (Tbl.get (0 : W64) h.msixAddr k).toNat / 2 ^ 32
    else if r = 8 then (Tbl.get (0 : W32) h.msixData k).toNat
    else b2n (!Tbl.get false h.msixOn k)
  else if off = 0x141000 ∨ off = 0x141004 then
    halfAt off 0x141000 ((List.range 64).foldl (fun m v => if Tbl.get false h.msixPend (f * 64 + v) then m + 2 ^ v else m) 0)
  else 0
/-- The OD_ window of a function. -/
def Dev.odWord (d : Dev) (f off : Nat) : Nat :=
  let w := Tbl.get OdWin.reset d.od.win f
  let r := off - 0x18000
  if r = 0 ∨ r = 4 then halfAt r 0 w.req.toNat
  else if r = 8 then (if f = 0 then at' 2 (b2n d.od.wpSide) + at' 1 (b2n d.od.wpVdm) else 0)
  else if r = 0xC then w.resp.toNat
  else if 0x1000 ≤ r ∧ r < 0x2000 then wordOf w.data (r - 0x1000)
  else 0
/-- PWR_ registers. -/
def Dev.pwrWord (d : Dev) (r : Nat) : Option Nat :=
  if r = 0x00 then some d.pwrStat else if r = 0x08 then some d.pwrPower else if r = 0x0C then some d.pwrCap
  else if r = 0x10 then some d.pwrTemp else if r = 0x14 then some d.pwrTemp2 else if r = 0x100 then some d.pwrPins
  else if r = 0x110 then some d.pwr.fault.toNat else none
/-- EVC_ registers. -/
def Dev.evcWord (d : Dev) (r : Nat) : Nat :=
  let e := d.evc.retained.getD d.evc.core
  if r = 0 then b2n e.gdis
  else if r = 4 then at' 16 e.armed.toNat + e.reqs.toNat
  else if r = 0x18 then e.sat.toNat
  else if r = 0x1C then b2n d.evc.restored
  else if 0x100 ≤ r ∧ r < 0x120 then fld e.pend.toNat ((r - 0x100) * 8 + 31) ((r - 0x100) * 8)
  else if 0x200 ≤ r ∧ r < 0x220 then fld e.enable.toNat ((r - 0x200) * 8 + 31) ((r - 0x200) * 8)
  else if 0x400 ≤ r ∧ r < 0x500 then leNat ((List.range 4).map fun i => Tbl.get (0 : BitVec 8) e.count (r - 0x400 + i))
  else if 0x800 ≤ r ∧ r < 0x840 then e.gcfg ((r - 0x800) / 4)
  else 0
/-- FW_ registers. -/
def State.fwWord (s : State) (r : Nat) : Nat :=
  let d := s.dev
  let b := r / 8 * 8
  let w := halfAt r b
  if r = 0 then d.fwStat
  else if b = 0x10 then w d.fw.regAddr.toNat
  else if b = 0x18 then w d.fw.regLen.toNat
  else if r = 0x24 then d.fwResultReg .host
  else if b = 0x28 then w d.fw.trialEnd
  else if 0x200 ≤ r ∧ r < 0x280 then
    let c := (r - 0x200) / 16
    if r % 16 < 8 then w (s.fwVer c) else if r % 16 = 8 then s.fwCompst c else 0
  else 0
/-- SEC_ registers. -/
def Dev.secWord (d : Dev) (r : Nat) : Nat :=
  let b := r / 8 * 8
  let w := halfAt r b
  if r = 0 then d.secStat
  else if r = 8 then d.sec.result.toNat
  else if 0x10 ≤ r ∧ r < 0x30 then listWord d.challenge (r - 0x10)
  else if 0x200 ≤ r ∧ r < 0x300 then
    let p : PartNo := BitVec.ofNat 3 ((r - 0x200) / 0x20)
    if b % 0x20 = 0 then w (d.part p).word else if b % 0x20 = 8 then w (d.partCores p) else if b % 0x20 = 16 then w (d.partRest p) else 0
  else if 0x1000 ≤ r ∧ r < 0x1400 then wordOf d.sec.arg (r - 0x1000)
  else if 0x2000 ≤ r ∧ r < 0x2400 then listWord d.sec.report (r - 0x2000)
  else 0
/-- Registers of the other units that are neither counters nor event registers. -/
def Dev.unitWord (d : Dev) (off : Nat) : Option Nat :=
  let b := off / 8 * 8
  let w := halfAt off b
  let r := off % 0x1000
  let c : CoreNo := BitVec.ofNat 6 (off / 0x1000)
  if off = 0x11000 then some d.tierStat
  else if b = 0x11008 then some (w d.tier.quads.toNat)
  else if off = 0x11010 then some d.tier.rack.toNat
  else if off = 0x12000 then some d.srvStat
  else if 0x12200 ≤ off ∧ off < 0x12400 then
    some (w ((d.plan (BitVec.ofNat 4 ((off - 0x12200) / 0x20))).stepRegs.getD (off % 0x20 / 8) 0))
  else if 0x30000 ≤ off ∧ off < 0x38000 ∧ r < 8 then
    let q := d.port (BitVec.ofNat 3 (off / 0x1000))
    some (if r = 0 then q.stat else if r = 4 then q.vcq else 0)
  else if off = 0x38000 then some d.links.groupReg
  else if b = 0x38008 then some (w d.links.presentMask)
  else if 0x38100 ≤ off ∧ off < 0x38200 then some (Tbl.get Route.reset d.links.route ((off - 0x38100) / 4)).reg
  else if 0x39000 ≤ off ∧ off < 0x39800 then some (Tbl.get 0 d.links.nctr ((off - 0x39000) / 4))
  else if off = 0x40004 then some (fld d.cellar.addr.toNat 30 0)
  else if off = 0x4000C then some d.flcSts
  else if b = 0x40010 then some (w d.cellar.chmap.toNat)
  else if 0x50000 ≤ off ∧ off < 0x54000 then some (wordOf d.cellar.data (off - 0x50000))
  else if 0x200000 ≤ off ∧ off < 0x240000 ∧ r = 0 then some (d.coreStat c)
  else if 0x240000 ≤ off ∧ off < 0x280000 ∧ r / 8 * 8 = 0x108 then some (w (d.mxeCur c))
  else if 0x280000 ≤ off ∧ off < 0x2C0000 ∧ r < 8 then some (if r = 0 then d.veStat c else if r = 4 then d.veTq c else 0)
  else if 0x340000 ≤ off ∧ off < 0x340400 then
    let n := (off - 0x340000) / 16
    some (w (if off % 16 < 8 then d.slotStat n else (d.slot n).uses))
  else if 0x380000 ≤ off ∧ off < 0x3C0000 ∧ r = 0 then some (d.attStat c)
  else none
/-- The 32-bit word function `f` reads at an aligned offset; a reserved offset reads zero. -/
def State.word (s : State) (f : Func) (off : Nat) : Nat :=
  let d := s.dev
  let pf := f.val = 0
  let sat := d.links.group = .satellite
  if pf ∧ sat ∧ ¬(off = 0x04 ∨ off / 8 * 8 = 0x08 ∨ (0x10000 ≤ off ∧ off < 0x11000) ∨ (0x18000 ≤ off ∧ off < 0x20000)) then 0
  else if off < 0x10000 then d.hifWord f.val off
  else if 0x18000 ≤ off ∧ off < 0x20000 then d.odWord f.val off
  else if 0x100000 ≤ off ∧ off < 0x140000 then d.doorWord f.val off
  else if 0x140000 ≤ off ∧ off < 0x142000 then d.msixWord f.val off
  else if ¬pf then 0
  else match evtAt off with
    | some r => (d.evtReg r).toNat
    | none =>
      if 0x10000 ≤ off ∧ off < 0x11000 then (d.pwrWord (off - 0x10000)).getD (halfAt off (off / 8 * 8) (d.counter (off / 8 * 8)))
      else if 0x13000 ≤ off ∧ off < 0x14000 then s.fwWord (off - 0x13000)
      else if 0x14000 ≤ off ∧ off < 0x18000 then d.secWord (off - 0x14000)
      else if 0x20000 ≤ off ∧ off < 0x30000 then d.evcWord (off - 0x20000)
      else (d.unitWord off).getD (halfAt off (off / 8 * 8) (d.counter (off / 8 * 8)))
/-- Offsets of the low halves of the 64-bit RO registers (R366). -/
def wideRo (off : Nat) : Bool :=
  off % 8 == 0 &&
  ([0x08, 0x20, 0x28, 0x40, 0x48, 0x68, 0x11008, 0x13028, 0x38008, 0x40010].contains off ||
   decide (0x10020 ≤ off ∧ off < 0x10040) || decide (0x11020 ≤ off ∧ off < 0x11050) || decide (0x12010 ≤ off ∧ off < 0x12058) ||
   decide (0x12200 ≤ off ∧ off < 0x12400) || (decide (0x13200 ≤ off ∧ off < 0x13280) && off % 16 == 0) || decide (0x14010 ≤ off ∧ off < 0x14030) ||
   (decide (0x14200 ≤ off ∧ off < 0x14300) && decide (off % 0x20 < 0x18)) ||
   (decide (0x30000 ≤ off ∧ off < 0x38000) && decide (8 ≤ off % 0x1000 ∧ off % 0x1000 < 0x70)) || decide (0x40020 ≤ off ∧ off < 0x40050) ||
   (decide (0x200000 ≤ off ∧ off < 0x240000) && decide (8 ≤ off % 0x1000 ∧ off % 0x1000 < 0x20)) ||
   (decide (0x240000 ≤ off ∧ off < 0x280000) && decide ((off % 0x1000 < 0x100 ∧ off % 0x40 < 0x20) ∨ off % 0x1000 = 0x108)) ||
   (decide (0x280000 ≤ off ∧ off < 0x2C0000) && decide (8 ≤ off % 0x1000 ∧ off % 0x1000 < 0x38)) ||
   (decide (0x300000 ≤ off ∧ off < 0x340000) && decide (off % 0x1000 < 0x38)) || decide (0x340000 ≤ off ∧ off < 0x340400) ||
   (decide (0x380000 ≤ off ∧ off < 0x3C0000) && decide (8 ≤ off % 0x1000 ∧ off % 0x1000 < 0x38)) || off == 0x3C0000)
/-- A mailbox ring, and the offset within it. -/
def mboxAt (off : Nat) : Option (Bool × Nat) :=
  if 0x400000 ≤ off ∧ off < 0x500000 then some (false, off - 0x400000)
  else if 0x500000 ≤ off ∧ off < 0x600000 then some (true, off - 0x500000)
  else none
/-- Identity that a function presents in configuration space (R361). -/
structure PciId where
  vendor : BitVec 16
  device : BitVec 16
  subVendor : BitVec 16
  subsystem : BitVec 16
  classCode : BitVec 24
deriving DecidableEq, Repr
def pciId (f : Func) : PciId := ⟨Config.vendorId, if f.val = 0 then Config.deviceIdPf else Config.deviceIdVf, Config.vendorId, Config.subsystemId, Config.classCode⟩
/-- What a read of a BAR returns (R366): 64-bit reads are atomic, a 32-bit read of a low half latches the high half for the next read of
it, and an access of another size or alignment reads all ones and is reported. -/
def State.regRead (s : State) (f : Func) (off : Nat) (size : AccSize) : Nat × State :=
  let d := s.dev
  let n := AccSize.bytes size
  match if f.val = 0 ∧ d.links.group ≠ .satellite then mboxAt off else none with
  | some (out, a) => (Memory.readLe (if out then d.hif.mboxOut else d.hif.mboxIn) a n, s)
  | none =>
    if (n ≠ 4 ∧ n ≠ 8) ∨ off % n ≠ 0 then (2 ^ (8 * n) - 1, { s with dev := { d with hif := { d.hif with aer := d.hif.aer + 1 } } })
    else if n = 8 then (s.word f off + s.word f (off + 4) * 2 ^ 32, s)
    else
      let key := f.val * 2 ^ 25 + off
      match Tbl.get none d.hif.latch key with
      | some v => (v.toNat, { s with dev := { d with hif := { d.hif with latch := Tbl.set none d.hif.latch key none } } })
      | none =>
        if wideRo off then
          (s.word f off, { s with dev := { d with hif := { d.hif with
            latch := Tbl.set none d.hif.latch (key + 4) (some (BitVec.ofNat 32 (s.word f (off + 4)))) } } })
        else (s.word f off, s)

end Sys2Proof.Machine
end

