-- ==== Sys2Proof/Machine/Dictionary.lean ====
section
/-! DEFINITION. The Object Dictionary: its entries, what they read, and the write rules of their chapters (spec/18 R500 to R516; spec/01 R26;
spec/04 R118, R119; spec/05 R139; spec/06 R165, R166; spec/07 R190; spec/08 R218, R219; spec/09 R245, R246; spec/10 R279, R280; spec/11
R322, R323; spec/12 R359, R360; spec/14 R413; spec/15 R436, R437; spec/16 R467, R468; spec/17 R493, R494). -/

namespace Sys2Proof.Machine

/-! Entries (R17, R18, R503, R515). -/

/-- Types of R18 with the codes of R503. -/
inductive OdType where
  | u8
  | u16
  | u32
  | u64
  | i32
  | f32
  | str
  | blob
deriving DecidableEq, Repr
/-- Access rights of R19. -/
inductive OdAcc where
  | const
  | ro
  | rw
  | rwp
deriving DecidableEq, Repr
def OdType.code : OdType → Nat
  | .u8 => 0
  | .u16 => 1
  | .u32 => 2
  | .u64 => 3
  | .i32 => 4
  | .f32 => 5
  | .str => 6
  | .blob => 7
def OdAcc.code : OdAcc → Nat
  | .const => 0
  | .ro => 1
  | .rw => 2
  | .rwp => 3
/-- Size of a fixed-size type; the general bound of the others. -/
def OdType.size : OdType → Nat
  | .u8 => 1
  | .u16 => 2
  | .u32 | .i32 | .f32 => 4
  | .u64 => 8
  | .str => 255
  | .blob => 4096
def OdType.fixed (t : OdType) : Bool := !(t == .str || t == .blob)
def OdAcc.writable (a : OdAcc) : Bool := a == .rw || a == .rwp

/-- Subindices `lo` to `hi` of an index, of one type and right; `bound` is the largest length its chapter gives, 0 for none. -/
structure OdRow where
  lo : Nat
  hi : Nat
  typ : OdType
  acc : OdAcc
  bound : Nat
deriving DecidableEq, Repr
def one (i : Nat) (t : OdType) (a : OdAcc) : OdRow := ⟨i, i, t, a, 0⟩
def upTo (n : Nat) (t : OdType) (a : OdAcc) : OdRow := ⟨1, n, t, a, 0⟩
def bounded (i : Nat) (t : OdType) (a : OdAcc) (n : Nat) : OdRow := ⟨i, i, t, a, n⟩

/-- Identity, tiers and Cellar. -/
def dictA : List (Nat × List OdRow) :=
  [(0x1000, [one 1 .str .const, one 2 .str .const, bounded 3 .str .const 12, one 4 .u16 .const, one 5 .u16 .const]),
   (0x1001, [upTo 4 .u64 .ro]),
   (0x1002, [one 1 .u8 .ro, one 2 .u16 .ro, one 3 .u8 .ro, one 4 .u8 .ro, one 5 .u8 .ro, one 6 .u64 .ro]),
   (0x1003, [one 1 .u16 .const, one 2 .u16 .const, one 3 .u8 .const, one 4 .u8 .const, one 5 .u32 .const, one 6 .u32 .const,
             one 7 .u32 .const, one 8 .u8 .const]),
   (0x2000, [one 1 .u64 .ro, one 2 .u64 .ro, one 3 .u64 .ro, one 4 .u64 .const, one 5 .u16 .ro, one 6 .u32 .ro]),
   (0x2001, [upTo 8 .u64 .rw]), (0x2002, [upTo 8 .u64 .rw]), (0x2003, [upTo 8 .u64 .rw]),
   (0x2004, [upTo 8 .u64 .ro]), (0x2005, [upTo 8 .u64 .ro]), (0x2006, [upTo 8 .u64 .ro]), (0x2007, [upTo 8 .u64 .ro]),
   (0x2008, [upTo 8 .u64 .ro]), (0x2009, [one 1 .u8 .rw]), (0x200A, [upTo 6 .u64 .ro]),
   (0x3000, [one 1 .u8 .ro, one 2 .u32 .ro, one 3 .u64 .ro, one 4 .u32 .ro, one 5 .u32 .ro, one 6 .u32 .ro, one 7 .u32 .ro]),
   (0x3001, [one 1 .u32 .const, one 2 .u32 .ro, one 3 .u32 .ro, one 4 .u16 .ro, one 5 .u16 .rw, one 6 .u64 .ro, one 7 .u64 .ro,
             one 8 .u64 .ro]),
   (0x3002, [upTo 64 .u64 .ro]),
   (0x3010, [one 1 .u32 .rwp, one 2 .u32 .rw, one 3 .u16 .ro, one 4 .u64 .ro]),
   (0x3011, [one 1 .u32 .rw, bounded 2 .blob .ro 64]), (0x3012, [one 1 .u8 .rw])]
/-- Serving engine, links, power and faults. -/
def dictB : List (Nat × List OdRow) :=
  [(0x4000, [one 1 .u16 .ro, one 2 .u16 .ro, one 3 .u16 .ro, one 4 .u16 .ro, one 5 .u16 .ro, one 6 .u8 .ro]),
   (0x4001, [upTo 8 .u8 .rw]),
   (0x4002, [one 1 .f32 .rwp, one 2 .f32 .rwp, one 3 .u16 .rwp, one 4 .u32 .rwp, one 5 .u16 .rwp, one 6 .u64 .rwp]),
   (0x4003, [one 1 .u32 .rw, one 2 .u32 .rw, one 3 .u8 .rw, one 4 .u32 .rw]),
   (0x4004, [upTo 9 .u64 .ro]), (0x4005, [one 1 .u8 .rw, one 2 .blob .ro]), (0x4006, [one 1 .u16 .rw, bounded 2 .blob .ro 64]),
   (0x5000, [one 1 .u8 .ro, one 2 .u8 .ro, one 3 .u8 .ro, one 4 .u64 .ro, one 5 .u8 .ro, one 6 .u8 .ro, one 7 .u16 .const, one 8 .i32 .ro]),
   (0x5001, [upTo 8 .u64 .ro]), (0x5002, [upTo 7 .u64 .ro]), (0x5010, [bounded 1 .blob .rw 768]), (0x5011, [one 1 .u16 .rw, one 2 .u8 .ro]),
   (0x5012, [one 1 .u32 .rw, one 2 .u8 .rw, one 3 .u16 .rw, one 4 .u8 .rw]), (0x5013, [one 1 .u8 .rw]),
   (0x6000, [one 1 .u8 .ro, one 2 .u8 .ro, one 3 .u32 .ro, one 4 .u8 .ro, one 5 .u32 .rw, one 6 .u64 .ro]),
   (0x6001, [one 1 .u16 .rwp, one 2 .u16 .ro]), (0x6002, [upTo 2 .u32 .ro]),
   (0x7000, [one 1 .u64 .ro, one 2 .u64 .ro, one 3 .u64 .ro, one 4 .u32 .ro, one 5 .u32 .ro]),
   (0x7001, [one 1 .u16 .rw, bounded 2 .blob .ro 32]), (0x7002, [one 1 .u8 .rw, bounded 2 .blob .ro 32]),
   (0x7003, [one 1 .u32 .rwp, one 2 .u8 .rwp, one 3 .u16 .rwp, one 4 .u16 .rwp]), (0x7010, [one 1 .u8 .rw, one 2 .u8 .ro])]
/-- Security, events, firmware, cores and engines. -/
def dictC : List (Nat × List OdRow) :=
  [(0x8000, [one 1 .u8 .ro, one 2 .u8 .ro, one 3 .u8 .ro, one 4 .u8 .ro, one 5 .u64 .ro]),
   (0x8001, [one 1 .blob .const, one 2 .blob .const, bounded 3 .blob .const 97]), (0x8002, [upTo 8 .u64 .ro]),
   (0x8003, [one 1 .u32 .rwp, one 2 .u32 .rwp, one 3 .u16 .rwp, one 4 .u16 .rwp]),
   (0x8010, [one 1 .u32 .rw, one 2 .u32 .ro, bounded 3 .blob .rw 1024, bounded 4 .blob .ro 1024]),
   (0x9000, [one 1 .u16 .const, one 2 .u8 .const, one 3 .u64 .ro, one 4 .u64 .ro, one 5 .u16 .ro]),
   (0x9001, [one 1 .u8 .rw, one 2 .u32 .ro]), (0x9002, [upTo 16 .u32 .ro]),
   (0xA000, [one 1 .u8 .ro, one 2 .u8 .ro, one 3 .u8 .ro, one 4 .u64 .ro]), (0xA001, [upTo 8 .u64 .ro]), (0xA002, [upTo 8 .u32 .ro]),
   (0xA010, [one 1 .u32 .rw, one 2 .u32 .ro]), (0xA011, [one 1 .u32 .rw, bounded 2 .blob .rw 4096, one 3 .u32 .rw]),
   (0xA012, [one 1 .u32 .rwp, one 2 .u8 .rwp, one 3 .u32 .rwp]),
   (0xB000, [one 1 .u16 .rw, one 2 .u8 .rw, one 3 .u32 .rw, one 4 .u64 .ro, one 5 .u16 .ro]), (0xB001, [upTo 8 .u32 .rw]),
   (0xB002, [upTo 13 .u64 .ro]), (0xB010, [upTo 4 .u64 .ro]), (0xB020, [upTo 8 .u64 .rw]), (0xB021, [upTo 6 .u64 .ro]),
   (0xB030, [upTo 6 .u64 .ro]), (0xB040, [upTo 6 .u64 .ro]), (0xB041, [upTo 8 .u32 .rw]), (0xB042, [upTo 6 .u64 .ro]),
   (0xB043, [one 1 .f32 .rw, one 2 .u16 .rw, one 3 .u8 .rw, one 4 .u8 .rw, one 5 .u64 .ro, one 6 .u32 .ro])]
/-- Every index in use, ascending (R515). -/
def dict : List (Nat × List OdRow) := dictA ++ dictB ++ dictC
/-- Rows of an index. -/
def dictAt (ix : Nat) : List OdRow := (lookupKey ix dict).getD []
/-- Its subindex count. -/
def dictCount (ix : Nat) : Nat := (dictAt ix).foldl (fun m r => max m r.hi) 0
/-- The row of an entry; subindex 0 is the count of the index. -/
def entryAt (e : Nat) : Option OdRow :=
  let rs := dictAt (e / 256)
  if rs.isEmpty then none
  else if e % 256 = 0 then some ⟨0, 0, .u8, .const, 0⟩
  else rs.find? fun r => decide (r.lo ≤ e % 256 ∧ e % 256 ≤ r.hi)
/-- The first entry after the one named. -/
def nextEntry (e : Nat) : Option Nat :=
  if (entryAt (e / 256 * 256)).isSome && decide (e % 256 < dictCount (e / 256)) then some (e + 1)
  else ((dict.map (·.1)).find? fun ix => decide (e < ix * 256)).map (· * 256)
/-- Largest length of an entry in bytes. -/
def OdRow.largest (r : OdRow) : Nat := if r.bound = 0 then r.typ.size else r.bound
/-- The RWP entries with their defaults, ascending (R510). -/
def rwpList : List (Nat × Nat) :=
  [(0x301001, 1), (0x400201, 0x3F333333), (0x400202, 0x3F666666), (0x400203, 40), (0x400204, 1024), (0x400205, 32), (0x400206, 34359738368),
   (0x600101, 550), (0x700301, 1000), (0x700302, 3), (0x700303, 24), (0x700304, 168), (0x800301, 10000), (0x800302, 1000),
   (0x800303, 4000), (0x800304, 400), (0xA01201, 600), (0xA01202, 1), (0xA01203, 10000)]
/-- RW entries kept as values of `Od.val`, with their defaults. -/
def rwList : List (Nat × Nat) :=
  [(0x400301, 200000), (0x400302, 50000), (0x400303, 8), (0x400304, 10000), (0x600005, 1000), (0xB00001, 2048), (0xB00002, 3),
   (0xB00003, 50000000), (0xB00101, 0x800), (0xB02001, 2 ^ 64 - 1), (0xB04301, 0x3F666666), (0xB04302, 4), (0xB04303, 1), (0xB04304, 4)]
/-- Default of an entry kept in `Od.val`. -/
def odDflt (e : Nat) : Nat := (lookupKey e (rwpList ++ rwList)).getD 0
/-- Cursor entries, one value per path (R506), with their defaults. -/
def cursorDflt (e : Nat) : Option Nat := lookupKey e [(0x301101, 1), (0x400501, 0), (0x400601, 0), (0x700101, 0), (0x700201, 0), (0x900101, 0)]
def Dev.cursor (d : Dev) (p : OdPath) (e : Nat) : Nat := Tbl.get ((cursorDflt e).getD 0) d.od.cursor (OdPath.num p * 2 ^ 24 + e)
def Dev.setCursor (d : Dev) (p : OdPath) (e v : Nat) : Dev :=
  { d with od := { d.od with cursor := Tbl.set ((cursorDflt e).getD 0) d.od.cursor (OdPath.num p * 2 ^ 24 + e) v } }

/-! Values (R26, R118, R139, R165, R190, R218, R245, R279, R294, R322, R359, R413, R436, R467, R493). -/

def strBytes (s : String) : List Byte := s.toList.map fun c => BitVec.ofNat 8 c.toNat
/-- Cores in service, as a mask. -/
def Dev.coresIn (d : Dev) : Nat := (List.range 64).foldl (fun m n => if (d.core (BitVec.ofNat 6 n)).inService then m + 2 ^ n else m) 0
/-- Lanes not retired. -/
def Dev.lanesIn (d : Dev) : Nat := sumNat ((List.range 8).map fun n => 4 - ones (d.port (BitVec.ofNat 3 n)).retired.toNat)
/-- Data blocks in service: of channels in service, not RETIRED. -/
def Dev.liveBlks (d : Dev) : Nat := d.chans.length * 5461 - d.countBlks fun b => b.st == .retired
/-- Highest and summed erase counts of data blocks in service. -/
def Dev.erases (d : Dev) (ch : Option Nat) : Nat × Nat :=
  (d.cellar.blk.filter fun e => dataBlk (e.1 % 5472) && d.cellar.chmap.getLsbD (e.1 / 5472) && e.2.st != .retired &&
    ch.all (· == e.1 / 5472)).foldl (fun m e => (max m.1 e.2.erases, m.2 + e.2.erases)) (0, 0)
/-- The plan record of 0x4005:0x02: 128 header bytes, state, step number, reserved ns (log entry 67). -/
def Dev.planRecord (d : Dev) (n : Nat) : List Byte :=
  let k : PlanNo := BitVec.ofNat 4 n
  let p := d.plan k
  let st := match p.st with
    | .free => 0
    | .active => 1
    | .draining => 2
    | .suspended => 3
  if 16 ≤ n ∨ p.st = .free then [] else sized 128 p.hdr ++ [BitVec.ofNat 8 st] ++ natLe 8 p.k ++ natLe 8 (d.planLoad k / 1000)
/-- Codes of request-table states (R294). -/
def SeqState.code : SeqState → Nat
  | .free => 0
  | .prefill => 1
  | .decode => 2
  | .parked => 3
  | .held => 4
  | .ending => 5
  | .safeHold => 6
/-- Due of the step that produces a sequence's next token. -/
def Dev.nextDue (d : Dev) (q : SeqNo) : Nat :=
  let e := d.seq q
  let p := d.plan e.plan
  if !(e.active || e.st == .ending) then 0
  else
    let more := ceilDiv (e.promptLen - e.len) p.chunk - 1
    if p.running && p.batch.contains q then (if more = 0 then p.due else p.dueAt (p.k + more)) else p.dueAt (max p.nextK e.k0 + more)
/-- The report of R294. -/
def Dev.seqReport (d : Dev) (n : Nat) : List Byte :=
  let q : SeqNo := BitVec.ofNat 12 n
  let e := d.seq q
  if 4096 ≤ n then []
  else
    let flags := e.part.toNat + 8 * b2n e.soft + 16 * b2n e.prune + 32 * b2n e.grammar + 64 * b2n e.adapter + 128 * b2n e.mbox
    natLe 2 n ++ natLe 1 e.st.code ++ natLe 1 flags ++ natLe 1 e.priority.toNat ++ natLe 1 e.plan.toNat ++ natLe 2 e.adapterId.toNat ++
    natLe 4 (e.gen.toNat * 65536 + e.edit.toNat) ++ natLe 4 e.len ++ natLe 4 (e.promptLen + e.maxNew) ++ natLe 4 e.reserved ++ natLe 2 e.kvObj.toNat ++
    natLe 2 e.vineMatched ++ natLe 4 e.reqId.toNat ++ natLe 8 e.admitted ++ natLe 8 (d.nextDue q) ++ natLe 4 e.out.length ++
    natLe 4 e.adapterVer.toNat ++ natLe 4 e.autoState.toNat ++ natLe 4 ((e.cost + e.costPf) / 1000)
/-- The lane of a retune that a write to 0x5013:0x01 started, as 8n + m, while it runs (R359). -/
def Dev.retuneLane (d : Dev) : Nat :=
  ((List.range 8).findSome? fun n =>
    let q := d.port (BitVec.ofNat 3 n)
    if q.asked then q.retuning.map fun l => 8 * n + l.toNat else none).getD 0xFF
/-- The cursor's source (R413). -/
def Dev.sourceWord (d : Dev) (n : Nat) : Nat :=
  let e := d.evc.retained.getD d.evc.core
  at' 9 (b2n (e.enable.getLsbD n)) + at' 8 (b2n (e.pend.getLsbD n)) + (Tbl.get (0 : BitVec 8) e.count n).toNat
/-- Totals of counters that confidential mode coarsens (R458). -/
def odCoarse (ix sub : Nat) : Bool :=
  [0x200A, 0x4004, 0x5002, 0xB010, 0xB021, 0xB030, 0xB040].contains ix || (ix == 0x3001 && sub == 8)
/-- A total. -/
def Dev.odTotal (d : Dev) (ix sub : Nat) : Nat :=
  if odCoarse ix sub then d.total (ix * 256 + sub) else (Tbl.get (0 : W64) d.tot (ix * 256 + sub)).toNat
def Dev.seqCount (d : Dev) (f : Seq → Bool) : Nat := (d.seqsWhere f).length

/-- Numbers of the identity, tier and Cellar entries. -/
def Dev.numA (d : Dev) (p : OdPath) (ix i : Nat) : Nat :=
  let pn : PartNo := BitVec.ofNat 3 (i - 1)
  if ix = 0x1000 then (if i = 4 then Config.boardRevision.toNat else Config.vendorId.toNat)
  else if ix = 0x1001 then [d.offered.toNat % 2 ^ 64, d.offered.toNat / 2 ^ 64, d.hif.accepted.toNat % 2 ^ 64, d.hif.accepted.toNat / 2 ^ 64].getD (i - 1) 0
  else if ix = 0x1002 then
    let quads := (setBits d.tier.quads.toNat 64).length
    [(setBits d.coresIn 64).length, 4 * quads, (setBits d.tier.rack.toNat 12).length, d.chans.length, d.lanesIn, quads * 6442450944].getD (i - 1) 0
  else if ix = 0x1003 then [4096, 4096, 64, 8, 262144, 1048576, 65536, 64].getD (i - 1) 0
  else if ix = 0x2000 then
    [d.capacity .t1, d.capacity .t2, d.capacity .t3, 1073741824, (d.tier.obj.filter (·.2.st != .free)).length, d.mapGrans].getD (i - 1) 0
  else if ix = 0x2001 then d.floor .t1 (i - 1)
  else if ix = 0x2002 then d.floor .t2 (i - 1)
  else if ix = 0x2003 then d.floor .t3 (i - 1)
  else if ix = 0x2004 then (d.usage pn .t1).1 * granSize
  else if ix = 0x2005 then (d.usage pn .t2).1 * granSize
  else if ix = 0x2006 then d.t3Usage pn
  else if ix = 0x2007 then d.neBytes pn .t1
  else if ix = 0x2008 then d.neBytes pn .t2
  else if ix = 0x2009 then d.tier.fetchAhead
  else if ix = 0x200A then
    (if i = 6 then sumNat (d.tier.obj.map fun (e : Nat × Obj) => (e.2.gran.filter fun (g : Nat × Gran) => g.2.damaged).length) else d.odTotal ix i)
  else if ix = 0x3000 then
    let free := d.chans.length * 5461 - d.countBlks fun b => b.st != .free
    [d.chans.length, d.t3Blocks, d.capacity .t3, free, d.countBlks fun b => b.st == .erasePending || b.st == .erasing,
     d.countBlks fun b => b.st == .interrupted, (d.cellar.blk.filter fun e => dataBlk (e.1 % 5472) && e.2.st == .retired).length].getD (i - 1) 0
  else if ix = 0x3001 then
    (if i = 1 then 3000 else if i = 2 then (d.erases none).1 else if i = 3 then (d.erases none).2 / d.liveBlks
     else if i = 4 then d.cellar.chBits.foldl (fun m e => max m e.2) 0 else if i = 5 then d.cellar.weak else d.odTotal ix i)
  else if ix = 0x3002 then
    at' 63 (b2n (d.cellar.chmap.getLsbD (i - 1))) + at' 32 (Tbl.get 0 d.cellar.chBits (i - 1)) + at' 16 (d.retiredOn (i - 1)) + (d.erases (some (i - 1))).1
  else if ix = 0x3010 then
    [d.odNat 0x301001 1, 0, (d.cellar.cat.filter (·.2.used)).length, d.cellar.catSeq.toNat].getD (i - 1) 0
  else if ix = 0x3011 then d.cursor p 0x301101
  else if ix = 0x3012 then d.cellar.retiring.toNat
  else 0
/-- Numbers of the serving, link, power and fault entries. -/
def Dev.numB (d : Dev) (p : OdPath) (ix i : Nat) : Nat :=
  let l := d.links
  if ix = 0x4000 then
    [d.seqCount fun e => e.st != .free, d.seqCount fun e => e.active, d.seqCount fun e => e.st == .parked, d.seqCount fun e => e.st == .held,
     d.seqCount fun e => e.st == .safeHold, d.plansRun].getD (i - 1) 0
  else if ix = 0x4001 then Tbl.get 0 d.srv.cls (i - 1)
  else if ix = 0x4002 ∨ ix = 0x4003 ∨ ix = 0x7003 then d.odNat (ix * 256 + i) (odDflt (ix * 256 + i))
  else if ix = 0x4004 ∨ ix = 0x5002 then d.odTotal ix i
  else if ix = 0x4005 ∨ ix = 0x4006 ∨ ix = 0x7001 ∨ ix = 0x7002 then d.cursor p (ix * 256 + 1)
  else if ix = 0x5000 then
    [l.group.role, if l.group = .solo then 0xFF else l.member.toNat, l.size, l.presentMask, l.group.code, l.topology, 1, l.corr.toNat].getD (i - 1) 0
  else if ix = 0x5001 then (d.port (BitVec.ofNat 3 (i - 1))).stat
  else if ix = 0x5011 then (if i = 1 then l.cmd.toNat else l.result.toNat)
  else if ix = 0x5012 then [l.retuneAt, l.replayLimit, l.lossMs, l.disable.toNat].getD (i - 1) 0
  else if ix = 0x5013 then d.retuneLane
  else if ix = 0x6000 then
    [d.pwr.st.code, d.pwr.level, d.pwrPower, at' 2 (b2n d.coolHold) + at' 1 (b2n d.pwr.therm) + b2n d.pwr.power, d.odNat 0x600005 1000,
     d.odTotal ix 6].getD (i - 1) 0
  else if ix = 0x6001 then (if i = 1 then d.pwr.capWritten else d.pwr.capForce)
  else if ix = 0x6002 then (if i = 1 then d.pwrTemp else d.pwrTemp2)
  else if ix = 0x7000 then (if i ≤ 3 then d.odTotal ix i else if i = 4 then d.pwr.retiredUnits else d.pwr.fault.toNat)
  else if ix = 0x7010 then (if i = 1 then 0xFF else d.pwr.partHold.toNat)
  else 0
/-- Numbers of the security, event, firmware, core and engine entries. -/
def State.numC (s : State) (p : OdPath) (ix i : Nat) : Nat :=
  let d := s.dev
  if ix = 0x8000 then
    [d.present8, d.conf8, at' 2 (b2n d.sec.entropyOk) + at' 1 (b2n d.sec.debugUnlocked) + b2n d.confActive, s.nv.revoked.toNat,
     d.sec.refused.toNat].getD (i - 1) 0
  else if ix = 0x8002 then (d.part (BitVec.ofNat 3 (i - 1))).word
  else if ix = 0x8003 ∨ ix = 0xA012 then d.odNat (ix * 256 + i) (odDflt (ix * 256 + i))
  else if ix = 0x8010 then (if i = 2 then d.sec.resultMgmt.toNat else 0)
  else if ix = 0x9000 then
    [256, 16, d.evc.sent.toNat, d.evc.cpInts.toNat, ((d.evc.retained.getD d.evc.core).count.filter (·.2 == 255)).length].getD (i - 1) 0
  else if ix = 0x9001 then (if i = 1 then d.cursor p 0x900101 else d.sourceWord (d.cursor p 0x900101))
  else if ix = 0x9002 then (d.evc.retained.getD d.evc.core).gcfg (i - 1)
  else if ix = 0xA000 then
    [b2n d.fw.recovery, d.fw.stager.toNat, (d.compsIn .trial).foldl (fun m c => m + 2 ^ c) 0, d.fw.trialEnd].getD (i - 1) 0
  else if ix = 0xA001 then s.fwVer (i - 1)
  else if ix = 0xA002 then s.fwCompst (i - 1)
  else if ix = 0xA010 then (if i = 2 then d.fwResultReg .mgmt else 0)
  else if ix = 0xA011 then (if i = 1 then d.fw.off else d.fw.len)
  else if ix = 0xB000 then
    (if i = 4 then d.coresIn else if i = 5 then (d.cores.tag.filter (·.2.inFlight)).length else d.odNat (ix * 256 + i) (odDflt (ix * 256 + i)))
  else if ix = 0xB001 then d.tagRange (BitVec.ofNat 3 (i - 1))
  else if ix = 0xB020 then d.slotMask (BitVec.ofNat 3 (i - 1))
  else if ix = 0xB041 then Tbl.get 0 d.srv.vineSlots (i - 1)
  else if ix = 0xB043 then
    (if i ≤ 4 then d.odNat (ix * 256 + i) (odDflt (ix * 256 + i)) else if i = 5 then d.odTotal ix i
     else sumNat (d.srv.vineUsed.map fun (e : Nat × List Nat) => e.2.length))
  else d.odTotal ix i
/-- STR and BLOB values. -/
def State.odBlob (s : State) (p : OdPath) (e : Nat) : List Byte :=
  let d := s.dev
  if e = 0x100001 then strBytes "Holtaris"
  else if e = 0x100002 then strBytes "CL-6408"
  else if e = 0x100003 then Config.serial
  else if e = 0x301102 then d.catRecord (d.cursor p 0x301101)
  else if e = 0x400502 then d.planRecord (d.cursor p 0x400501)
  else if e = 0x400602 then d.seqReport (d.cursor p 0x400601)
  else if e = 0x501001 then d.links.list
  else if e = 0x700102 then (d.pwr.log[d.cursor p 0x700101]?).getD []
  else if e = 0x700202 then (s.nv.faults.reverse[d.cursor p 0x700201]?).getD []
  else if e = 0x800101 then Config.certificate 0
  else if e = 0x800102 then Config.certificate 1
  else if e = 0x800103 then sized 97 Config.identityPublic
  else if e = 0x801003 then d.sec.argMgmt
  else if e = 0x801004 then d.sec.report
  else []
/-- The value of an entry as a path reads it. -/
def State.odValue (s : State) (p : OdPath) (e : Nat) (r : OdRow) : List Byte :=
  let ix := e / 256
  let i := e % 256
  if i = 0 then natLe 1 (dictCount ix)
  else if !r.typ.fixed then s.odBlob p e
  else natLe r.typ.size (if ix < 0x4000 then s.dev.numA p ix i else if ix < 0x8000 then s.dev.numB p ix i else s.numC p ix i)

/-! Write rules (R119, R166, R219, R246, R280, R323, R360, R413, R437, R468, R494). -/

/-- Ranges of numeric entries whose chapter gives one. -/
def odRange (e : Nat) : Nat × Nat :=
  let top := 2 ^ 64 - 1
  if e / 256 = 0x4001 then (0, 7)
  else (lookupKey e
    [(0x200901, (0, 63)), (0x300105, (16, 150)), (0x400205, (1, 4096)), (0x400301, (50000, 10000000)), (0x400302, (1000, 1000000)),
     (0x400303, (1, 255)), (0x400304, (0, 3600000)), (0x501202, (1, 15)), (0x501203, (5, 1000)), (0x600005, (100, 3600000)),
     (0x600101, (300, 550)), (0x700101, (0, 1023)), (0x700201, (0, 63)), (0x700301, (100, 1000000)), (0x700302, (1, 15)), (0x700303, (1, 720)),
     (0x700304, (24, 2160)), (0x800301, (100, 50000)), (0x800302, (100, 8000)), (0x800303, (100, 8000)), (0x800304, (50, 600)),
     (0xA01103, (0, 8388608)), (0xA01201, (0, 86400)), (0xA01202, (0, 1)), (0xA01203, (100, 600000)), (0xB00001, (256, 3840)),
     (0xB00002, (0, 15)), (0xB00003, (1000000, 1000000000)), (0xB04302, (0, 1024)), (0xB04303, (0, 16)), (0xB04304, (1, 64))]).getD (0, top)
/-- A binary32 value from 0.0 to 1.0. -/
def f32Unit (v : Nat) : Bool := decide (v ≤ 0x3F800000) || v == 0x80000000
/-- Base and size of a tag range word. -/
def rangeOf (v : Nat) : Nat × Nat := (fld v 27 16, fld v 12 0)
/-- A tag range that R119 denies. -/
def Dev.rangeBad (d : Dev) (p v : Nat) : Bool :=
  let a := rangeOf v
  v != at' 16 a.1 + a.2 ||
  (a.2 != 0 && (decide (d.hostWindow < a.1 + a.2) ||
    (List.range 8).any fun q => q != p &&
      let b := rangeOf (d.tagRange (BitVec.ofNat 3 q))
      b.2 != 0 && decide (a.1 < b.1 + b.2 ∧ b.1 < a.1 + a.2)))
/-- A host window that would cut off a range. -/
def Dev.windowCuts (d : Dev) (v : Nat) : Bool :=
  (List.range 8).any fun q => let b := rangeOf (d.tagRange (BitVec.ofNat 3 q))
    b.2 != 0 && decide (v < b.1 + b.2)
/-- A slot mask that R166 denies. -/
def Dev.maskBad (d : Dev) (p v : Nat) : Bool :=
  let old := d.slotMask (BitVec.ofNat 3 p)
  (List.range 64).any fun n =>
    (bitN v n && (List.range 8).any fun q => q != p && d.slotOwned (BitVec.ofNat 3 q) n) ||
    (bitN old n && !bitN v n && ((d.slot n).refs != 0 || (d.slot n).st == .loading))
/-- Slots that leave partition `p`'s mask become EMPTY, their table zero (R152). -/
def Dev.slotsLeave (d : Dev) (p v : Nat) : Dev :=
  let old := d.slotMask (BitVec.ofNat 3 p)
  ((List.range 64).filter fun n => bitN old n && !bitN v n).foldl (fun d n => d.setSlot n Slot.reset) d
/-- A floor that R219 denies. -/
def Dev.floorBad (d : Dev) (t : Tier) (p v : Nat) : Bool :=
  let ne := if t = .t3 then d.t3Usage (BitVec.ofNat 3 p) else d.neBytes (BitVec.ofNat 3 p) t
  v % 65536 != 0 || decide (d.capacity t < d.floorSum t - d.floor t p + v) || decide (v < ne)
/-- A Vine size that R280 denies. -/
def Dev.vineBad (d : Dev) (p v : Nat) : Bool :=
  let q : PartNo := BitVec.ofNat 3 p
  let o := d.vineObj q
  let old := if o = 0 then 0 else ((d.obj o).held .t1).2 * granSize
  v % 8 != 0 || decide (d.floor .t1 p < d.neBytes q .t1 - old + ceilDiv (v * 2048) granSize * granSize)
/-- The firmware's recheck of a partition in Safe Hold finds no damaged granule in its maps, plans, pools, Vine and automata (log entry 68). -/
def Dev.recheck (d : Dev) (p : PartNo) : Bool :=
  d.tier.obj.all fun (e : Nat × Obj) =>
    let o : ObjNo := BitVec.ofNat 16 e.1
    let pool := d.srv.plan.any fun k => k.2.st != .free && k.2.pool == o
    !(e.2.part == p && (d.metaOf o == some p || pool) && e.2.gran.any fun (g : Nat × Gran) => g.2.damaged)
/-- A floor written: recorded with its partition, and a lowered one is a trigger of R301. -/
def State.writeFloor (s : State) (t : Tier) (p v : Nat) : State :=
  let q : PartNo := BitVec.ofNat 3 p
  let low := decide (v < s.dev.floor t p)
  let s := { s with dev := s.dev.setFloor t p v }
  let s := if (s.dev.part q).st = .absent then s else s.recordPart q
  if low then (match t with
    | .t1 => s.refitT1 q
    | .t2 => s.refitT2 q
    | .t3 => s) else s
/-- A value kept in `Od.val`, and in the RWP store where the entry is RWP (R509). -/
def State.keepVal (s : State) (e n v : Nat) : State :=
  let dflt := if e = 0xB00101 then 0x800 else odDflt e
  let s := { s with dev := s.dev.odSetNat e n v dflt }
  if (lookupKey e rwpList).isSome then
    { s with nv := { s.nv with rwp := if v = dflt then Tbl.del e s.nv.rwp else Tbl.put e (natLe n v) s.nv.rwp } }
  else s
/-- A command of FW_CMD's encoding on a path (R432, R437). -/
def State.fwCommand (s : State) (path : CmdPath) (v : Nat) : State :=
  let mask := fld v 15 8
  match fld v 3 0 with
  | 1 => s.fwStage path mask
  | 2 => s.fwActivate path mask (bitN v 7)
  | 3 => s.fwCommit path mask
  | 4 => s.fwCancel path mask
  | 5 => s.fwAbort path mask
  | _ => s
/-- The state an outcome goes on with. -/
def onward (o : Host.Outcome State Fault Refusal) (s : State) : State :=
  match o with
  | .next t => t
  | _ => s
/-- A command of SEC_CMD's encoding on a path (R441, R463, R468). -/
def State.secCommand (s : State) (path : CmdPath) (c : W32) : State :=
  match secOp c with
  | 1 => onward (execCreate path c s) s
  | 2 => onward (execRemove path c s) s
  | 3 => onward (execAssign path c s) s
  | 4 => onward (execBindVf path c s) s
  | 5 => onward (execUnbindVf path c s) s
  | 6 => onward (execRotate path c s) s
  | 7 => onward (execAttest path c s) s
  | 8 => onward (execDbgUnlock path c s) s
  | 9 => onward (execRevoke path c s) s
  | _ => s.secBad path c
/-- A piece of an image written at the staging offset (R427). -/
def Dev.writePiece (d : Dev) (bs : List Byte) : Dev :=
  { d with fw := { d.fw with buf := Memory.writeN d.fw.buf d.fw.off bs, off := d.fw.off + bs.length, lastAt := d.now } }
/-- The default catalogue entry that R246 allows; 0 is none. -/
def Dev.defaultOk (d : Dev) (v : Nat) : Bool := v == 0 || (decide (v < 4096) && (d.cat v).used && (d.cat v).part == 0)
/-- The mailbox pool exists. -/
def Dev.poolExists (d : Dev) : Bool := (d.plan 0).st != .free && (d.plan 0).mbox
/-- Ports that carry a route of the group. -/
def Dev.routePorts (d : Dev) : Nat := d.links.route.foldl (fun m (e : Nat × Route) => if e.2.valid then m ||| e.2.ports.toNat else m) 0

/-- Writes to the tier, Cellar and serving entries; none where a chapter's rule denies the value. -/
def State.storeA (s : State) (e v n : Nat) : Option State :=
  let d := s.dev
  let p := e % 256 - 1
  let ix := e / 256
  let ok (b : Bool) (t : State) : Option State := if b then some t else none
  if ix = 0x2001 then ok (!d.floorBad .t1 p v) (s.writeFloor .t1 p v)
  else if ix = 0x2002 then ok (!d.floorBad .t2 p v) (s.writeFloor .t2 p v)
  else if ix = 0x2003 then ok (!d.floorBad .t3 p v) (s.writeFloor .t3 p v)
  else if e = 0x200901 then some { s with dev := { d with tier := { d.tier with fetchAhead := v } } }
  else if e = 0x300105 then some { s with dev := { d with cellar := { d.cellar with weak := v } } }
  else if e = 0x301001 then ok (d.defaultOk v) (s.keepVal e n v)
  else if e = 0x301002 then ok (d.mayDelete v) { s with dev := doCatalogueDelete (BitVec.ofNat 32 v) d }
  else if e = 0x301201 then ok (d.mayRetire v) { s with dev := doPlannedRetirement (BitVec.ofNat 8 v) d }
  else if ix = 0x4001 then
    let t := { s with dev := { d with srv := { d.srv with cls := Tbl.set 0 d.srv.cls p v } } }
    some (if (d.part (BitVec.ofNat 3 p)).st = .absent then t else t.recordPart (BitVec.ofNat 3 p))
  else if e = 0x400206 then ok (v % 65536 == 0 && !d.poolExists) (s.keepVal e n v)
  else some (s.keepVal e n v)
/-- Writes to the link, power, fault and security entries. -/
def State.storeB (s : State) (e v n : Nat) (bs : List Byte) : Option State :=
  let d := s.dev
  let ok (b : Bool) (t : State) : Option State := if b then some t else none
  let link (l : Links) : State := { s with dev := { d with links := l } }
  if e = 0x501001 then ok (bs.length % 12 == 0 && decide (bs.length ≤ 768) && d.links.group == .solo) (link { d.links with list := bs })
  else if e = 0x501101 then ok (d.groupCmdOk v) { s with dev := d.groupBegin v }
  else if e = 0x501201 then some (link { d.links with retuneAt := v })
  else if e = 0x501202 then some (link { d.links with replayLimit := v })
  else if e = 0x501203 then some (link { d.links with lossMs := v })
  else if e = 0x501204 then ok ((setBits v 8).all fun i => !bitN d.routePorts i) { s with dev := d.setDisable (BitVec.ofNat 8 v) }
  else if e = 0x501301 then ok (laneReqOk d (BitVec.ofNat 8 v)) { s with dev := doLaneRetuneRequest (BitVec.ofNat 8 v) d }
  else if e = 0x600101 then some ((s.keepVal e n v).writeCap v)
  else if e = 0x701001 then
    ok (decide (v < 8) && d.pwr.partHold.getLsbD v && d.recheck (BitVec.ofNat 3 v)) { s with dev := doSafeHoldRelease (BitVec.ofNat 8 v) true d }
  else if e = 0x801001 then some (s.secCommand .mgmt (BitVec.ofNat 32 v))
  else if e = 0x801003 then ok (decide (bs.length ≤ 1024)) { s with dev := { d with sec := { d.sec with argMgmt := bs } } }
  else some (s.keepVal e n v)
/-- Writes to the firmware, core and engine entries. -/
def State.storeC (s : State) (e v n : Nat) (bs : List Byte) : Option State :=
  let d := s.dev
  let p := e % 256 - 1
  let ix := e / 256
  let ok (b : Bool) (t : State) : Option State := if b then some t else none
  let free := d.fw.stager != 1
  let fw (f : Fw) : State := { s with dev := { d with fw := f } }
  if e = 0xA01001 then some (s.fwCommand .mgmt v)
  else if e = 0xA01101 then ok free (fw { d.fw with off := v })
  else if e = 0xA01102 then
    ok (free && decide (1 ≤ bs.length) && decide (d.fw.off + bs.length ≤ d.fw.len)) { s with dev := d.writePiece bs }
  else if e = 0xA01103 then ok free (fw { d.fw with len := v })
  else if e = 0xB00001 then ok (v % 256 == 0 && !d.windowCuts v) (s.keepVal e n v)
  else if ix = 0xB001 then ok (!d.rangeBad p v) (s.keepVal e n v)
  else if ix = 0xB020 then ok (!d.maskBad p v) (State.keepVal { s with dev := d.slotsLeave p v } e n v)
  else if ix = 0xB041 then
    ok (!d.vineBad p v) { s with dev := (d.writeVine (BitVec.ofNat 3 p) v).vineResizeAll }
  else if e = 0xB04301 then ok (f32Unit v) (s.keepVal e n v)
  else some (s.keepVal e n v)
/-- A value written to a writable entry by a path: none where it is denied. -/
def State.store (s : State) (p : OdPath) (e : Nat) (r : OdRow) (bs : List Byte) : Option State :=
  let v := if r.typ.fixed then leNat bs else 0
  let g := odRange e
  if v < g.1 ∨ g.2 < v then none
  else if (cursorDflt e).isSome then
    (if e = 0x900101 ∧ sourceDefined v = false then none else some { s with dev := s.dev.setCursor p e v })
  else if e < 0x500000 then s.storeA e v r.typ.size
  else if e < 0xA00000 then s.storeB e v r.typ.size bs
  else s.storeC e v r.typ.size bs
/-- Commands of the firmware hold tags that a larger host window takes in: the WRITE completes only after them (R119). -/
def Dev.windowWaits (d : Dev) (e : Nat) (bs : List Byte) : Bool :=
  e == 0xB00001 && d.fwHolds fun t => decide (d.hostWindow ≤ t ∧ t < leNat bs)

/-! Requests (R495, R500 to R510). -/

/-- An operation with its request VALUE. -/
inductive OdOp where
  | read
  | write (value : List Byte)
  | describe
  | next
  | restore
deriving DecidableEq, Repr
def OdOp.code : OdOp → Nat
  | .read => 1
  | .write _ => 2
  | .describe => 3
  | .next => 4
  | .restore => 5
def OdOp.writes : OdOp → Bool
  | .write _ | .restore => true
  | _ => false
def OdOp.isWrite : OdOp → Bool
  | .write _ => true
  | _ => false
/-- The entry's owner does not run (R507). -/
def Dev.notReady (d : Dev) (o : OdOp) (ix : Nat) : Bool :=
  let id := decide (0x1000 ≤ ix ∧ ix < 0x2000)
  if d.fw.dead then !(id && o == .read)
  else if d.pins.phase ≠ .ready then !id
  else if d.fw.recovery then !(id || decide (0x8000 ≤ ix ∧ ix < 0x9000) || decide (0xA000 ≤ ix ∧ ix < 0xB000))
  else if d.pwr.st = .deep then o.writes && !(o.isWrite && decide (0x6000 ≤ ix ∧ ix < 0x8000))
  else false
/-- The path may not do it (R504). -/
def Dev.pathDenies (d : Dev) (p : OdPath) (o : OdOp) (ix : Nat) : Bool :=
  let sat := d.links.group == .satellite
  match p with
  | .vf _ => o.writes || !decide (0x1000 ≤ ix ∧ ix < 0x2000)
  | _ =>
    o.writes && ((p == .vdm && d.od.wpVdm) || (p == .side && d.od.wpSide) ||
      (sat && !(o.isWrite && (ix == 0x5012 || ix == 0x5013 || decide (0x6000 ≤ ix ∧ ix < 0x8000)))))
/-- A value stored, with R502's code: 2 where it is denied, 8 where an RWP value's program or erase in the boot flash fails verify, which the spec
leaves to the flash: a free value says whether it does, and the entry keeps its old value (R509). -/
def State.keep (s : State) (p : OdPath) (e : Nat) (r : OdRow) (bs : List Byte) : Nat × State :=
  match s.store p e r bs with
  | none => (2, s)
  | some t =>
    if (lookupKey e rwpList).isNone then (0, t)
    else
      let f := t.dev.freeNat
      if f.1 % 2 = 1 then (8, { s with dev := { s.dev with draws := f.2.draws } }) else (0, { t with dev := f.2 })
/-- RESTORE: each RWP entry's default written in ascending order; the number that kept their value. -/
def State.restoreAll (s : State) (p : OdPath) : Nat × State :=
  rwpList.foldl (fun (a : Nat × State) x =>
    match entryAt x.1 with
    | none => a
    | some r =>
      let k := a.2.keep p x.1 r (natLe r.typ.size x.2)
      (if k.1 = 0 then a.1 else a.1 + 1, k.2)) (0, s)
/-- Checks 4 to 9 of R502 and the operation. -/
def State.odLocal (s : State) (p : OdPath) (o : OdOp) (e : Nat) : OdResp × State :=
  let d := s.dev
  let ix := e / 256
  let no (c : Nat) : OdResp × State := (odCode c, s)
  let row := entryAt e
  let named := match o with
    | .next | .restore => true
    | _ => row.isSome
  if !named then no 1
  else if d.notReady o ix then no 3
  else if d.pathDenies p o ix then no 2
  else match o with
    | .next => match nextEntry e with
      | some x => ((⟨0, natLe 2 (x / 256) ++ natLe 1 (x % 256), 0, 0⟩ : OdResp), s)
      | none => no 1
    | .restore =>
      let r := s.restoreAll p
      ((⟨0, natLe 2 r.1, 0, 0⟩ : OdResp), r.2)
    | .read => match row with
      | some r => ((⟨0, s.odValue p e r, 0, 0⟩ : OdResp), s)
      | none => no 1
    | .describe => match row with
      | some r => ((⟨0, natLe 2 r.largest, BitVec.ofNat 4 r.typ.code, BitVec.ofNat 2 r.acc.code⟩ : OdResp), s)
      | none => no 1
    | .write bs => match row with
      | none => no 1
      | some r =>
        if !r.acc.writable then no 2
        else if (if r.typ.fixed then bs.length != r.typ.size else decide (r.typ.size < bs.length)) then no 4
        else
          let k := s.keep p e r bs
          (odCode k.1, k.2)
/-- The path is there (R495), and its binding has an endpoint ID (R498). -/
def Dev.pathUp (d : Dev) (p : OdPath) : Bool :=
  match p with
  | .pf => d.hif.ready
  | .vf v => d.hif.ready && decide (v.val < d.hif.numVfs)
  | .vdm => d.pins.perstN && d.pins.pwrGood && (Tbl.get Mctp.reset d.od.mctp 0).eid != 0
  | .side => d.pins.auxUp && (Tbl.get Mctp.reset d.od.mctp 1).eid != 0
/-- The body of an MGMT packet (log entry 58): 8 bytes, the path and what R500's header holds but for version, sequence and length, then
VALUE; the largest VALUE, 4,096 bytes, fills the 4,104 of R332. -/
def mgmtBody (p : OdPath) (op member : Nat) (e : Nat) (result : Byte) (desc : Nat) (value : List Byte) : List Byte :=
  natLe 1 (OdPath.num p) ++ [BitVec.ofNat 8 op, BitVec.ofNat 8 member] ++ natLe 2 (e / 256) ++ natLe 1 (e % 256) ++ [result] ++
  natLe 1 desc ++ value
/-- A request bridged to a member (R508). -/
def State.bridge (s : State) (p : OdPath) (m : MemberNo) (o : OdOp) (e : Nat) : State :=
  let x := s.dev.nextXid 0 m
  let v := match o with
    | .write bs => bs
    | _ => []
  let d := x.2.send (x.2.mkPkt 0x20 0 m x.1 0 (mgmtBody p o.code m.toNat e 0 0 v))
  let d := { d with links := { d.links with bridged := d.links.bridged ++ [(⟨m, BitVec.ofNat 16 x.1, p⟩ : Bridged)] } }
  ({ s with dev := d.odBusy p }).xidGuard
/-- A WRITE wakes a device in NAP (R507). -/
def State.odWake (s : State) (o : OdOp) : State :=
  if o.isWrite ∧ s.dev.pwr.st = .nap ∧ s.dev.pins.coolOk = true then s.wake else s
/-- A request on a path: BUSY, BAD_REQUEST, UNREACHABLE, then served here or bridged (R502, R508). -/
def State.odServe (s : State) (p : OdPath) (member : BitVec 8) (o : OdOp) (e : Nat) : State :=
  let d := s.dev
  let m := member.toNat
  let say (c : Nat) : State := { s with dev := d.odReply p (odCode c) }
  let here : State :=
    match o with
    | .write bs =>
      let s := s.odWake o
      let r := s.odLocal p o e
      if d.windowWaits e bs && r.1.result == 0 then
        { r.2 with dev := ({ r.2.dev with od := { r.2.dev.od with draining := r.2.dev.od.draining ++ [p] } }).odBusy p }
      else { r.2 with dev := r.2.dev.odReply p r.1 }
    | _ =>
      let r := s.odLocal p o e
      { r.2 with dev := r.2.dev.odReply p r.1 }
  if !d.pathUp p then s
  else if 8 ≤ (d.links.bridged.filter (·.path == p)).length then say 5
  else if m = 0xFF then here
  else if !isHead d.links.group then say 7
  else if m = 0 then here
  else if 64 ≤ m ∨ (d.memberOf m).present = false then say 7
  else s.bridge p (BitVec.ofNat 6 m) o e

def execOdRead (path : OdPath) (member : BitVec 8) (entry : BitVec 24) (s : State) : Host.Outcome State Fault Refusal :=
  .next (s.odServe path member .read entry.toNat)
def execOdWrite (path : OdPath) (member : BitVec 8) (entry : BitVec 24) (value : List Byte) (s : State) : Host.Outcome State Fault Refusal :=
  .next (s.odServe path member (.write value) entry.toNat)
def execOdDescribe (path : OdPath) (member : BitVec 8) (entry : BitVec 24) (s : State) : Host.Outcome State Fault Refusal :=
  .next (s.odServe path member .describe entry.toNat)
def execOdNext (path : OdPath) (member : BitVec 8) (entry : BitVec 24) (s : State) : Host.Outcome State Fault Refusal :=
  .next (s.odServe path member .next entry.toNat)
def execOdRestore (path : OdPath) (member : BitVec 8) (s : State) : Host.Outcome State Fault Refusal :=
  .next (s.odServe path member .restore 0)

/-! MGMT packets (R508). -/

/-- The operation of a bridged request. -/
def opOf (code : Nat) (v : List Byte) : Option OdOp :=
  if code = 1 then some .read else if code = 2 then some (.write v) else if code = 3 then some .describe
  else if code = 4 then some .next else if code = 5 then some .restore else none
/-- A request at a member, served and answered; a response at the head, handed to its path. -/
def State.mgmtIn (s : State) (k : Pkt) (b : List Byte) : State :=
  let op := leNat ((b.drop 1).take 1)
  let e := leNat ((b.drop 3).take 2) * 256 + leNat ((b.drop 5).take 1)
  let p := pathOf (leNat (b.take 1))
  let v := b.drop 8
  if s.dev.links.group = .satellite then
    match opOf op v with
    | none => s
    | some o =>
      let r := s.odLocal p o e
      let desc := r.1.typ.toNat * 16 + r.1.access.toNat
      { r.2 with dev := r.2.dev.answer 0x20 k (mgmtBody p (op + 128) (leNat ((b.drop 2).take 1)) e r.1.result desc r.1.value) }
  else
    match s.dev.links.bridged.find? fun x => x.member == k.hdr.src && x.xid == k.hdr.xid with
    | none => s
    | some x =>
      let desc := leNat ((b.drop 7).take 1)
      let r : OdResp := ⟨BitVec.ofNat 8 (leNat ((b.drop 6).take 1)), v, BitVec.ofNat 4 (desc / 16), BitVec.ofNat 2 desc⟩
      let d := { s.dev with links := { s.dev.links with bridged := s.dev.links.bridged.filter (· ≠ x) } }
      { s with dev := d.odReply x.path r }
def execMgmt (k : Pkt) (s : State) : Host.Outcome State Fault Refusal := .next (s.recv 0x20 k fun b s => s.mgmtIn k b)

end Sys2Proof.Machine
end

