-- ==== Sys2Proof/Machine/Mctp.lean ====
section
/-! DEFINITION. MCTP control commands, MGMT_ALERT_N and the I3C address (spec/18 R496 to R499; spec/02 R36). A response is recorded as its
completion code and data bytes; the layouts of DSP0236, which the spec names and does not print, are log entry 69. -/

namespace Sys2Proof.Machine

/-- Number of a binding. -/
def Binding.num : Binding → Nat
  | .vdm => 0
  | .side => 1
/-- The binding's path is there (R495). -/
def Dev.bindUp (d : Dev) (b : Binding) : Bool :=
  match b with
  | .vdm => d.pins.perstN && d.pins.pwrGood
  | .side => d.pins.auxUp
/-- A response sent on a binding. -/
def Dev.ctrlReply (d : Dev) (b : Binding) (bs : List Byte) : Dev :=
  if d.bindUp b then { d with od := { d.od with ctrl := Tbl.set [] d.od.ctrl (Binding.num b) bs } } else d
def Dev.binding (d : Dev) (b : Binding) : Mctp := Tbl.get Mctp.reset d.od.mctp (Binding.num b)
/-- A binding changed while its path is there. -/
def Dev.modBinding (d : Dev) (b : Binding) (f : Mctp → Mctp) : Dev :=
  if d.bindUp b then { d with od := { d.od with mctp := Tbl.mod Mctp.reset d.od.mctp (Binding.num b) f } } else d
/-- ERROR_UNSUPPORTED_CMD and ERROR_INVALID_DATA. -/
def mctpUnsupported : Byte := 0x05
def mctpInvalid : Byte := 0x02

/-- Set Endpoint ID: taken from the binding's bus owner alone; 0 and 0xFF are no endpoint IDs. -/
def doSetEndpointId (b : Binding) (eid : Byte) (fromOwner : Bool) (d : Dev) : Dev :=
  if eid = 0 ∨ eid = 0xFF then d.ctrlReply b [mctpInvalid]
  else if fromOwner then (d.modBinding b fun _ => ⟨eid, true⟩).ctrlReply b [0, 0x00, eid, 0]
  else d.ctrlReply b [0, 0x10, (d.binding b).eid, 0]
def execSetEndpointId (b : Binding) (eid : Byte) (fromOwner : Bool) (s : State) : Host.Outcome State Fault Refusal :=
  s.onDev (doSetEndpointId b eid fromOwner)
/-- Get Endpoint ID: a simple endpoint with a dynamic ID. -/
def doGetEndpointId (b : Binding) (d : Dev) : Dev := d.ctrlReply b [0, (d.binding b).eid, 0x00, 0x00]
def execGetEndpointId (b : Binding) (s : State) : Host.Outcome State Fault Refusal := s.onDev (doGetEndpointId b)
/-- Get Endpoint UUID. -/
def doGetEndpointUuid (b : Binding) (d : Dev) : Dev := d.ctrlReply b (0 :: natLe 16 (Config.uuid Config.serial).toNat)
def execGetEndpointUuid (b : Binding) (s : State) : Host.Outcome State Fault Refusal := s.onDev (doGetEndpointUuid b)
/-- Get MCTP Version Support: 1.3. -/
def doGetMctpVersionSupport (b : Binding) (d : Dev) : Dev := d.ctrlReply b [0, 1, 0xF1, 0xF3, 0xFF, 0x00]
def execGetMctpVersionSupport (b : Binding) (s : State) : Host.Outcome State Fault Refusal := s.onDev (doGetMctpVersionSupport b)
/-- Get Message Type Support: 0x00 and 0x7E. -/
def doGetMessageTypeSupport (b : Binding) (d : Dev) : Dev := d.ctrlReply b [0, 2, 0x00, 0x7E]
def execGetMessageTypeSupport (b : Binding) (s : State) : Host.Outcome State Fault Refusal := s.onDev (doGetMessageTypeSupport b)
/-- Get Vendor Defined Message Support: the one set there is. -/
def doGetVendorDefinedMsgSupport (b : Binding) (d : Dev) : Dev :=
  d.ctrlReply b ([0, 0xFF, 0x00] ++ (natLe 2 Config.vendorId.toNat).reverse ++ [0x00, 0x01])
def execGetVendorDefinedMsgSupport (b : Binding) (s : State) : Host.Outcome State Fault Refusal := s.onDev (doGetVendorDefinedMsgSupport b)
/-- Prepare for Endpoint Discovery, on VDM. -/
def doPrepareForEndpointDiscovery (b : Binding) (d : Dev) : Dev :=
  match b with
  | .vdm => (d.modBinding b fun m => { m with discovered := false }).ctrlReply b [0]
  | .side => d.ctrlReply b [mctpUnsupported]
def execPrepareForEndpointDiscovery (b : Binding) (s : State) : Host.Outcome State Fault Refusal := s.onDev (doPrepareForEndpointDiscovery b)
/-- Endpoint Discovery, on VDM. -/
def doEndpointDiscovery (b : Binding) (d : Dev) : Dev :=
  match b with
  | .vdm => d.ctrlReply b [0]
  | .side => d.ctrlReply b [mctpUnsupported]
def execEndpointDiscovery (b : Binding) (s : State) : Host.Outcome State Fault Refusal := s.onDev (doEndpointDiscovery b)
/-- Any other control command. -/
def doUnsupportedControlCmd (b : Binding) (code : Byte) (d : Dev) : Dev :=
  if [0x01, 0x02, 0x03, 0x04, 0x05, 0x06, 0x0B, 0x0C, 0x0D].contains code then d else d.ctrlReply b [mctpUnsupported]
def execUnsupportedControlCmd (b : Binding) (code : Byte) (s : State) : Host.Outcome State Fault Refusal := s.onDev (doUnsupportedControlCmd b code)
/-- Discovery Notify after a link-up. -/
def doDiscoveryNotify (d : Dev) : Dev :=
  if d.bindUp .vdm then { d with od := { d.od with notifies := d.od.notifies + 1 } } else d
def execDiscoveryNotify (s : State) : Host.Outcome State Fault Refusal := s.onDev doDiscoveryNotify

/-! The alert (R499) and the I3C address (R496). -/

/-- The device's SMBus address, or its static I3C address. -/
def Pins.address (p : Pins) : BitVec 7 := 0x60 + p.addrSel.setWidth 7
/-- Alert Response Address: the device answers with its own address while it drives the pin. -/
def doAlertResponse (d : Dev) : Dev :=
  if d.pins.auxUp && !d.pins.mgmtMode && d.pins.alertDrv then ({ d with od := { d.od with ara := some d.pins.address } }).alertRelease else d
def execAlertResponse (s : State) : Host.Outcome State Fault Refusal := s.onDev doAlertResponse
/-- A condition begins: the pin goes low in SMBus mode, one IBI is raised in I3C mode. -/
def doMgmtAlert (d : Dev) : Dev :=
  if !(d.pins.auxUp && d.alertCond) then d
  else if d.pins.mgmtMode then { d with od := { d.od with ibis := d.od.ibis + 1 } }
  else { d with pins := { d.pins with alertDrv := true } }
def execMgmtAlert (s : State) : Host.Outcome State Fault Refusal := s.onDev doMgmtAlert
/-- SETDASA or ENTDAA in I3C mode. -/
def doI3cAddress (addr : BitVec 7) (d : Dev) : Dev :=
  if d.pins.auxUp && d.pins.mgmtMode then { d with od := { d.od with i3c := some addr } } else d
def execI3cDynamicAddressAssignment (addr : BitVec 7) (s : State) : Host.Outcome State Fault Refusal := s.onDev (doI3cAddress addr)

end Sys2Proof.Machine
end

