-- ==== Sys2Proof/Machine/Mover.lean ====
section
/-! DEFINITION. MOVE (spec/04 R110 to R112). -/

namespace Sys2Proof.Machine

/-- MOVE copies its region and completes with the rows written; a damaged source granule ends it UNCORRECTABLE (R212), and a missed or
moving granule makes it wait. -/
def doMove (t : Tag) (d : Dev) : Dev :=
  let x := (d.tagE t).desc
  if !d.runs t 0x20 then d
  else match d.access (mvReads x) (mvWrites x) with
    | (.damaged _ _, d) => d.uncorrectable t 0 0
    | (.waits, d) => d
    | (.ready, d) => ((moveRows x d).bankStall x.core).completeOk t (mvRows x)

def execMove (t : Tag) (s : State) : Host.Outcome State Fault Refusal := s.onDev (doMove t)

end Sys2Proof.Machine
end

