-- ==== Sys2Proof/Machine/Registers.lean ====
section
/-! DEFINITION. REGISTER_WRITE: a write of a BAR takes effect under the access code of each field it covers (spec/00 R9 to R11; spec/13
R364 to R367, R375, R388 to R394; spec/02 R54; spec/09 R238 to R241; spec/14 R408 to R412; spec/15 R432; spec/16 R463, R464;
spec/18 R511 to R513). -/

namespace Sys2Proof.Machine

/-- Bits `hi` to `lo` of `old` replaced by those of `v`. -/
def setFld (old v hi lo : Nat) : Nat := old - fld old hi lo * 2 ^ lo + fld v hi lo * 2 ^ lo
/-- The half of a 64-bit value at word `h` (0 low, 1 high) replaced. -/
def setHalf (old : W64) (h v : Nat) : W64 := BitVec.ofNat 64 (setFld old.toNat (v * 2 ^ (32 * h)) (32 * h + 31) (32 * h))
/-- Bits written 1 cleared. -/
def Dev.clearEvt (d : Dev) (r : EvtReg) (v : Nat) : Dev :=
  { d with evt := Tbl.mod (0 : W32) d.evt (evtKey r) fun w => w &&& ~~~ (BitVec.ofNat 32 v) }
/-- A write that R470 lists takes the device out of NAP. -/
def State.writeWake (s : State) : State := if s.dev.pwr.st = .nap ∧ s.dev.pins.coolOk = true then s.wake else s

/-! HIF_ registers (R388 to R394). -/

/-- HIF_PTM.PERIOD_US, HIF_FEAT_REQ, HIF_LEASE_ID and HIF_LEASE_CFG. -/
def Dev.putHif (d : Dev) (f : Func) (off v : Nat) : Dev :=
  let h := d.hif
  let l := d.lease f.val
  let half := off / 4 % 2
  if off = 0x10 then
    let p := fld v 15 0
    if 100 ≤ p ∧ p ≤ 10000 then { d with hif := { h with ptmPeriod := BitVec.ofNat 16 p } } else d
  else if 0x30 ≤ off ∧ off < 0x40 then
    if f.val ≠ 0 then d
    else
      let lo := 32 * ((off - 0x30) / 4)
      { d with hif := { h with req := BitVec.ofNat 128 (setFld h.req.toNat (v * 2 ^ lo) (lo + 31) lo) } }
  else if off = 0x50 ∨ off = 0x54 then d.setLease f.val { l with regId := setHalf l.regId half v }
  else if off = 0x58 then d.setLease f.val { l with regCfg := BitVec.ofNat 32 v }
  else if off = 0x100 then d.clearEvt (.hifEvt f) v
  else d
/-- HIF_ATTACH. -/
def State.putAttach (s : State) (f : Func) (v : Nat) : State :=
  match fld v 1 0 with
  | 1 => s.attach f (bitN v 4)
  | 2 => s.renew f
  | 3 => s.detach f
  | _ => s
/-- HIF_QOWN: the PF's, while the queue is disabled (R374). -/
def Dev.putQown (d : Dev) (q : QueueNo) (v : Nat) : Dev :=
  let k := d.queue q
  if k.en ∨ 8 < fld v 3 0 then d else d.setQueue q { k with func := BitVec.ofNat 4 v }
/-- Queue registers at offset `r`: the base addresses and the configuration while EN is 0, then EN (R375, R383). -/
def Dev.putQueue (d : Dev) (f : Func) (q : QueueNo) (r v : Nat) : Dev :=
  let k := d.queue q
  if !d.ownsQ f q then d
  else
    let base (old : W64) : W64 := BitVec.ofNat 64 (setFld (setHalf old (r / 4 % 2) v).toNat 0 11 0)
    let cfg : W64 := setHalf k.cfg (r / 4 % 2) v &&& BitVec.ofNat 64 qcfgMask
    let k' :=
      if k.en then k
      else if r < 8 then { k with sqBase := base k.sqBase }
      else if r < 16 then { k with cqBase := base k.cqBase }
      else if r < 24 then { k with cfg := cfg }
      else k
    let d := d.setQueue q k'
    if r ≠ 16 then d
    else if bitN v 0 then doQueueEnable f q d
    else doQueueDisable f q d
/-- Mailbox indices (R385, R394). -/
def Dev.putMbox (d : Dev) (off v : Nat) : Dev :=
  let h := d.hif
  if off = 0x8000 then
    if d.feature 0 ∧ !h.drain then { d with hif := { h with inTail := fld v 17 0 } } else d
  else if off = 0x8008 then { d with hif := { h with outHead := fld v 15 0 } }
  else d
/-- A doorbell page. -/
def State.putDoor (s : State) (f : Func) (off v : Nat) : State :=
  let q : QueueNo := BitVec.ofNat 6 ((off - 0x100000) / 0x1000)
  let r := off % 0x1000
  if r = 0 then s.sqDoorbell f q (BitVec.ofNat 12 v)
  else if r = 4 then { s with dev := doCqDoorbell f q (BitVec.ofNat 16 v) s.dev }
  else s
/-- The MSI-X table (R361, R364). -/
def State.putMsix (s : State) (f : Func) (off v : Nat) : State :=
  let h := s.dev.hif
  let k := msixKey f.val ((off - 0x140000) / 16)
  let r := off % 16
  let keep (h : Hif) : State := { s with dev := { s.dev with hif := h } }
  if r < 8 then keep { h with msixAddr := Tbl.mod (0 : W64) h.msixAddr k fun a => setHalf a (r / 4) v }
  else if r = 8 then keep { h with msixData := Tbl.set (0 : W32) h.msixData k (BitVec.ofNat 32 v) }
  else (keep { h with msixOn := Tbl.set false h.msixOn k (!bitN v 0) }).msixFlush

/-! The OD_ window (R511 to R513). -/

/-- The requester path of a function. -/
def pathOfFunc (f : Func) : OdPath := if h : f.val = 0 then .pf else .vf ⟨f.val - 1, by have := f.isLt; omega⟩
/-- GO: the request held in OD_REQ and OD_DATA. -/
def State.odGo (s : State) (f : Func) : State :=
  let w := Tbl.get OdWin.reset s.dev.od.win f.val
  let q := w.req.toNat
  let p := pathOfFunc f
  let e := fld q 31 8
  let n := fld q 44 32
  let member : BitVec 8 := BitVec.ofNat 8 (fld q 55 48)
  let bad : State := if s.dev.pathUp p then { s with dev := s.dev.odReply p (odCode 6) } else s
  if 4096 < n ∨ (fld q 2 0 ≠ 2 ∧ n ≠ 0) ∨ (fld q 2 0 = 5 ∧ e ≠ 0) then bad
  else match opOf (fld q 2 0) (Memory.readN w.data 0 n) with
    | none => bad
    | some o => s.odServe p member o e
/-- OD_ registers: OD_REQ and OD_DATA only while not BUSY, the write protections of the PF, then GO. -/
def State.putOd (s : State) (f : Func) (r v : Nat) : State :=
  let busy := (Tbl.get OdWin.reset s.dev.od.win f.val).resp.getLsbD 31
  let win (g : OdWin → OdWin) : State := if busy then s else { s with dev := s.dev.modWin f.val g }
  if r < 8 then
    win fun w => { w with req := setHalf w.req (r / 4) v &&& 0x00FF1FFFFFFFFF07 }
  else if r = 8 then
    let d := s.dev
    let d := if f.val = 0 then { d with od := { d.od with wpVdm := bitN v 1, wpSide := bitN v 2 } } else d
    if bitN v 0 ∧ !busy then State.odGo { s with dev := d } f else { s with dev := d }
  else if 0x1000 ≤ r ∧ r < 0x2000 then win fun w => { w with data := Memory.writeLe w.data (r - 0x1000) 4 v }
  else s

/-! FW_, SEC_, EVC_ and FLC_ registers. -/

def State.putFw (s : State) (r v : Nat) : State :=
  let fw (f : Fw) : State := { s with dev := { s.dev with fw := f } }
  if r = 0x10 ∨ r = 0x14 then fw { s.dev.fw with regAddr := setHalf s.dev.fw.regAddr (r / 4 % 2) v }
  else if r = 0x18 then fw { s.dev.fw with regLen := BitVec.ofNat 32 v }
  else if r = 0x20 then s.fwCommand .host v
  else s
def State.putSec (s : State) (r v : Nat) : State :=
  if r = 4 then s.secCommand .host (BitVec.ofNat 32 v)
  else if 0x1000 ≤ r ∧ r < 0x1400 then
    { s with dev := { s.dev with sec := { s.dev.sec with arg := Memory.writeLe s.dev.sec.arg (r - 0x1000) 4 v } } }
  else s
/-- EVC_GCFG of group `g`. -/
def EvcCore.writeGcfg (g v : Nat) (e : EvcCore) : EvcCore :=
  let b : BitVec 16 := BitVec.ofNat 16 (2 ^ g)
  { e with
    msiEn := if bitN v 16 then e.msiEn ||| b else e.msiEn &&& ~~~ b
    holdoff := Tbl.set (0 : BitVec 4) e.holdoff g (BitVec.ofNat 4 (fld v 11 8))
    vector := Tbl.set (0 : BitVec 6) e.vector g (BitVec.ofNat 6 v) }
def Dev.putEvc (d : Dev) (r v : Nat) : Dev :=
  let w : W32 := BitVec.ofNat 32 v
  if r = 0 then doEvcGdisWrite w d
  else if r = 0x10 then doEvcCntclr w d
  else if r = 0x14 then doEvcSwset w d
  else if r = 0x18 then d.modEvc fun e => { e with sat := e.sat &&& ~~~ (BitVec.ofNat 16 v) }
  else if r = 0x1C then (if bitN v 0 then { d with evc := { d.evc with restored := false } } else d)
  else if 0x100 ≤ r ∧ r < 0x120 then d.modEvc (EvcCore.clearPend ((r - 0x100) / 4) w)
  else if 0x200 ≤ r ∧ r < 0x220 then doEvcEnWrite (BitVec.ofNat 3 ((r - 0x200) / 4)) w d
  else if 0x800 ≤ r ∧ r < 0x840 then d.modEvc (EvcCore.writeGcfg ((r - 0x800) / 4) v)
  else d
/-- FLC_CMD: a reserved OP or a reserved bit set is FLC_BAD_ADDR (R242). -/
def Dev.putFlcCmd (d : Dev) (v : Nat) : Dev :=
  match v with
  | 0x01 => doFlcReadId d
  | 0x02 => doFlcReadCal d
  | 0x03 => doFlcReadCw d
  | 0x04 => doFlcReadBlk d
  | 0x10 => doFlcClaim d
  | 0x11 => doFlcRelease d
  | 0x12 => doFlcErase d
  | 0x13 => doFlcProgram d
  | _ => if d.cellar.busy then d.flcTouch.setEvt .flcEvt 0x40 else d.flcTouch.flcResult 3
/-- FLC_ registers: every write restarts the lock's time (R238). -/
def Dev.putFlc (d : Dev) (r v : Nat) : Dev :=
  let cell (d : Dev) (c : Cellar) : Dev := { d with cellar := c }
  if r = 0 then doFlcUnlock (BitVec.ofNat 16 v) d
  else if r = 8 then d.putFlcCmd v
  else
    let d := d.flcTouch
    if r = 4 then cell d { d.cellar with addr := BitVec.ofNat 32 v }
    else if r = 0x100 then d.clearEvt .flcEvt v
    else if 0x10000 ≤ r ∧ r < 0x14000 then cell d { d.cellar with data := Memory.writeLe d.cellar.data (r - 0x10000) 4 v }
    else d

/-! The map (R364, R365). -/

/-- The write reaches an emulated register or a doorbell (R367, R470). -/
def emulated (off : Nat) : Bool :=
  decide (off < 0x10000) || decide (0x12000 ≤ off ∧ off < 0x20000) || decide (0x38000 ≤ off ∧ off < 0x39000) || decide (0x100000 ≤ off ∧ off < 0x140000)
/-- A HIF_ register. -/
def State.putHifBlock (s : State) (f : Func) (off v : Nat) : State :=
  let dev (d : Dev) : State := { s with dev := d }
  if off = 0x60 then s.putAttach f v
  else if 0x200 ≤ off ∧ off < 0x300 then (if f.val = 0 then dev (s.dev.putQown (BitVec.ofNat 6 ((off - 0x200) / 4)) v) else s)
  else if 0x1000 ≤ off ∧ off < 0x2000 then dev (s.dev.putQueue f (BitVec.ofNat 6 ((off - 0x1000) / 0x40)) (off % 0x40) v)
  else if 0x8000 ≤ off then (if f.val = 0 then dev (s.dev.putMbox off v) else s)
  else dev (s.dev.putHif f off v)
/-- A block of the PF's alone. -/
def State.putPf (s : State) (off v : Nat) : State :=
  let d := s.dev
  let dev (d : Dev) : State := { s with dev := d }
  if 0x40000 ≤ off ∧ off < 0x60000 then dev (d.putFlc (off - 0x40000) v)
  else match evtAt off with
    | some r => dev (d.clearEvt r v)
    | none =>
      if off = 0x10100 then
        dev { d with pins := { d.pins with uvSeen := d.pins.uvSeen && !bitN v 1, excursion := d.pins.excursion && !bitN v 0 } }
      else if 0x13000 ≤ off ∧ off < 0x14000 then s.putFw (off - 0x13000) v
      else if 0x14000 ≤ off ∧ off < 0x18000 then s.putSec (off - 0x14000) v
      else if 0x20000 ≤ off ∧ off < 0x30000 then dev (d.putEvc (off - 0x20000) v)
      else s
/-- What a function's BAR0 answers (R365). -/
def Dev.answers (d : Dev) (f : Func) (off : Nat) : Bool :=
  if f.val = 0 then
    d.links.group != .satellite || decide (0x10000 ≤ off ∧ off < 0x11000) || decide (0x18000 ≤ off ∧ off < 0x20000)
  else decide (off < 0x200000)
/-- A 32-bit word written at an aligned offset; a write of a reserved offset or of a read-only field has no effect. -/
def State.putWord (s : State) (f : Func) (off v : Nat) : State :=
  if !s.dev.answers f off then s
  else
    let s := if emulated off then s.writeWake else s
    if off < 0x10000 then s.putHifBlock f off v
    else if 0x18000 ≤ off ∧ off < 0x20000 then s.putOd f (off - 0x18000) v
    else if 0x100000 ≤ off ∧ off < 0x140000 then s.putDoor f off v
    else if 0x140000 ≤ off ∧ off < 0x140400 then s.putMsix f off v
    else if f.val = 0 then s.putPf off v
    else s
/-- The base of a queue's HIF_QCFG, whose high half a 64-bit write sets before EN is taken. -/
def isQcfg (off : Nat) : Bool := decide (0x1000 ≤ off ∧ off < 0x2000) && off % 0x40 == 0x10
/-- Bytes written into a mailbox ring, as far as it reaches. -/
def State.putRing (s : State) (out : Bool) (a : Nat) (bs : List Byte) : State :=
  let s := s.writeWake
  let h := s.dev.hif
  let bs := bs.take (0x100000 - a)
  let h := if out then { h with mboxOut := Memory.writeN h.mboxOut a bs } else { h with mboxIn := Memory.writeN h.mboxIn a bs }
  { s with dev := { s.dev with hif := h } }
/-- A write of BAR0: the mailbox rings take any size, register blocks aligned 32-bit and 64-bit ones (R366); a function in D3hot takes none. -/
def State.regWrite (s : State) (f : Func) (off : Nat) (size : AccSize) (v : Nat) : State :=
  let d := s.dev
  let n := AccSize.bytes size
  let hi := v / 2 ^ 32 % 2 ^ 32
  let lo := v % 2 ^ 32
  if Tbl.get false d.hif.d3 f.val then s
  else match if f.val = 0 ∧ d.links.group ≠ .satellite then mboxAt off else none with
    | some (out, a) =>
      s.putRing out a (natLe n v)
    | none =>
      if (n ≠ 4 ∧ n ≠ 8) ∨ off % n ≠ 0 then { s with dev := { d with hif := { d.hif with aer := d.hif.aer + 1 } } }
      else if n = 4 then s.putWord f off lo
      else if isQcfg off then (s.putWord f (off + 4) hi).putWord f off lo
      else (s.putWord f off lo).putWord f (off + 4) hi
/-- NumVFs written by the PF: a VF that it no longer enables is reset (log entry 99). -/
def State.putNumVfs (s : State) (f : Func) (n : Nat) : State :=
  if f.val ≠ 0 ∨ 8 < n then s
  else
    let gone := (List.finRange 9).filter fun g => decide (n < g.val ∧ g.val ≤ s.dev.hif.numVfs)
    let s := gone.foldl State.flrOne s
    { s with dev := { s.dev with hif := { s.dev.hif with numVfs := n } } }
/-- The power state written: the PF's return to D0 takes the device out of DEEP (R470). -/
def State.putDState (s : State) (f : Func) (hot : Bool) : State :=
  let s := { s with dev := { s.dev with hif := { s.dev.hif with d3 := Tbl.set false s.dev.hif.d3 f.val hot } } }
  if f.val = 0 ∧ hot = false ∧ s.dev.pwr.st = .deep then s.wake else s
/-- PTM Enable, a bit of the PF. -/
def Dev.putPtmEn (d : Dev) (f : Func) (on : Bool) : Dev := if f.val = 0 then { d with hif := { d.hif with ptmEn := on } } else d
/-- A value written to a place. A power state is 0 for D0 and 3 for D3hot, and a write of another one has no effect (log entry 99). -/
def State.registerWrite (s : State) (f : Func) (place : RegPlace) (size : AccSize) (v : Nat) : State :=
  match place with
  | .bar off => s.regWrite f off.toNat size v
  | .numVfs => s.putNumVfs f v
  | .powerState => if v = 0 ∨ v = 3 then s.putDState f (v == 3) else s
  | .ptmEnable => { s with dev := s.dev.putPtmEn f (bitN v 0) }
def execRegisterWrite (f : Func) (place : RegPlace) (size : AccSize) (v : Nat) (s : State) : Host.Outcome State Fault Refusal :=
  .next (s.registerWrite f place size v)

end Sys2Proof.Machine
end

