-- ==== Sys2Proof/Machine/Dispatch.lean ====
section
/-! DEFINITION. The meaning of each command, one arm per constructor. -/

namespace Sys2Proof.Machine

def exec (i : Instr) (s : State) : Host.Outcome State Fault Refusal :=
  match i with
  | .auxPowerUp mgmtMode addrSel => Sys2Proof.Machine.execAuxPowerUp mgmtMode addrSel s
  | .pwrEnRise => Sys2Proof.Machine.execPwrEnRise s
  | .pwrGoodAssert => Sys2Proof.Machine.execPwrGoodAssert s
  | .pwrEnFall => Sys2Proof.Machine.execPwrEnFall s
  | .perstNAssert => Sys2Proof.Machine.execPerstNAssert s
  | .perstNDeassert rcvyN tickPrsntN => Sys2Proof.Machine.execPerstNDeassert rcvyN tickPrsntN s
  | .bootInit failed => Sys2Proof.Machine.execBootInit failed s
  | .firmwareReady => Sys2Proof.Machine.execFirmwareReady s
  | .mainPowerLoss => Sys2Proof.Machine.execMainPowerLoss s
  | .p48vDip excursion => Sys2Proof.Machine.execP48vDip excursion s
  | .railFault rail => Sys2Proof.Machine.execRailFault rail s
  | .thermTrip cask sensor => Sys2Proof.Machine.execThermTrip cask sensor s
  | .tickEdge => Sys2Proof.Machine.execTickEdge s
  | .coolOkChange level => Sys2Proof.Machine.execCoolOkChange level s
  | .nop t => Sys2Proof.Machine.execNop t s
  | .barrier t => Sys2Proof.Machine.execBarrier t s
  | .barrierTimeout bar => Sys2Proof.Machine.execBarrierTimeout bar s
  | .cancel t => Sys2Proof.Machine.execCancel t s
  | .matmul t parity => Sys2Proof.Machine.execMatmul t parity s
  | .vecop t => Sys2Proof.Machine.execVecop t s
  | .sample t => Sys2Proof.Machine.execSample t s
  | .expand t => Sys2Proof.Machine.execExpand t s
  | .slotLoad t => Sys2Proof.Machine.execSlotLoad t s
  | .slotPin t => Sys2Proof.Machine.execSlotPin t s
  | .slotUnpin t => Sys2Proof.Machine.execSlotUnpin t s
  | .maskFill t => Sys2Proof.Machine.execMaskFill t s
  | .maskAdvance t => Sys2Proof.Machine.execMaskAdvance t s
  | .move t => Sys2Proof.Machine.execMove t s
  | .attend t => Sys2Proof.Machine.execAttend t s
  | .objCreate t => Sys2Proof.Machine.execObjCreate t s
  | .objDestroy t => Sys2Proof.Machine.execObjDestroy t s
  | .decant t => Sys2Proof.Machine.execDecant t s
  | .layDown t => Sys2Proof.Machine.execLayDown t s
  | .pin t => Sys2Proof.Machine.execPin t s
  | .unpin t => Sys2Proof.Machine.execUnpin t s
  | .windowAdvance t => Sys2Proof.Machine.execWindowAdvance t s
  | .objSeal t => Sys2Proof.Machine.execObjSeal t s
  | .objQuery t => Sys2Proof.Machine.execObjQuery t s
  | .linkPut t => Sys2Proof.Machine.execLinkPut t s
  | .linkWait t => Sys2Proof.Machine.execLinkWait t s
  | .linkWaitTimeout t => Sys2Proof.Machine.execLinkWaitTimeout t s
  | .waitResolve t => Sys2Proof.Machine.execWaitResolve t s
  | .fenceClear t => Sys2Proof.Machine.execFenceClear t s
  | .commandStart t upsets => Sys2Proof.Machine.execCommandStart t upsets s
  | .completionRecordWrite src => Sys2Proof.Machine.execCompletionRecordWrite src s
  | .watchdogExpiry t => Sys2Proof.Machine.execWatchdogExpiry t s
  | .tilePush c => Sys2Proof.Machine.execTilePush c s
  | .tilePop c => Sys2Proof.Machine.execTilePop c s
  | .drainLost t => Sys2Proof.Machine.execDrainLost t s
  | .wxBlockPresent t corrupt => Sys2Proof.Machine.execWxBlockPresent t corrupt s
  | .invalidBlockRefetch t => Sys2Proof.Machine.execInvalidBlockRefetch t s
  | .onDemandFetch o g => Sys2Proof.Machine.execOnDemandFetch o g s
  | .granuleMoveCommit o g => Sys2Proof.Machine.execGranuleMoveCommit o g s
  | .objectFree o => Sys2Proof.Machine.execObjectFree o s
  | .readG ch d => Sys2Proof.Machine.execReadG ch d s
  | .progG ch d => Sys2Proof.Machine.execProgG ch d s
  | .eraseBlk ch d => Sys2Proof.Machine.execEraseBlk ch d s
  | .readCal ch d => Sys2Proof.Machine.execReadCal ch d s
  | .readCw ch d => Sys2Proof.Machine.execReadCw ch d s
  | .progCw ch d rec => Sys2Proof.Machine.execProgCw ch d rec s
  | .dieReset ch d => Sys2Proof.Machine.execDieReset ch d s
  | .cellarOpComplete ch die r => Sys2Proof.Machine.execCellarOpComplete ch die r s
  | .suspend ch die => Sys2Proof.Machine.execSuspend ch die s
  | .eraseDone ch b => Sys2Proof.Machine.execEraseDone ch b s
  | .granuleLost entry g => Sys2Proof.Machine.execGranuleLost entry g s
  | .blockRelocate ch b => Sys2Proof.Machine.execBlockRelocate ch b s
  | .blockRetire ch b => Sys2Proof.Machine.execBlockRetire ch b s
  | .catalogueCommit => Sys2Proof.Machine.execCatalogueCommit s
  | .catalogueDelete entry => Sys2Proof.Machine.execCatalogueDelete entry s
  | .plannedRetirement ch => Sys2Proof.Machine.execPlannedRetirement ch s
  | .channelRetire ch => Sys2Proof.Machine.execChannelRetire ch s
  | .flcUnlock key => Sys2Proof.Machine.execFlcUnlock key s
  | .flcLockTimeout => Sys2Proof.Machine.execFlcLockTimeout s
  | .flcReadId => Sys2Proof.Machine.execFlcReadId s
  | .flcReadCal => Sys2Proof.Machine.execFlcReadCal s
  | .flcReadCw => Sys2Proof.Machine.execFlcReadCw s
  | .flcReadBlk => Sys2Proof.Machine.execFlcReadBlk s
  | .flcClaim => Sys2Proof.Machine.execFlcClaim s
  | .flcRelease => Sys2Proof.Machine.execFlcRelease s
  | .flcErase => Sys2Proof.Machine.execFlcErase s
  | .flcProgram => Sys2Proof.Machine.execFlcProgram s
  | .pageLand t page => Sys2Proof.Machine.execPageLand t page s
  | .submit q => Sys2Proof.Machine.execSubmit q s
  | .endSeq q => Sys2Proof.Machine.execEndSeq q s
  | .park q => Sys2Proof.Machine.execPark q s
  | .resume q => Sys2Proof.Machine.execResume q s
  | .decantDone q => Sys2Proof.Machine.execDecantDone q s
  | .planLoad q => Sys2Proof.Machine.execPlanLoad q s
  | .planRetire q => Sys2Proof.Machine.execPlanRetire q s
  | .adapterLoad q => Sys2Proof.Machine.execAdapterLoad q s
  | .adapterDrop q => Sys2Proof.Machine.execAdapterDrop q s
  | .stepStart p => Sys2Proof.Machine.execStepStart p s
  | .stepRetire p => Sys2Proof.Machine.execStepRetire p s
  | .tickPredict p => Sys2Proof.Machine.execTickPredict p s
  | .holdRetainExpiry q => Sys2Proof.Machine.execHoldRetainExpiry q s
  | .eventBacklogDrain => Sys2Proof.Machine.execEventBacklogDrain s
  | .prompt => Sys2Proof.Machine.execPrompt s
  | .mboxCancel => Sys2Proof.Machine.execMboxCancel s
  | .mboxBadType => Sys2Proof.Machine.execMboxBadType s
  | .attach f force => Sys2Proof.Machine.execAttach f force s
  | .renew f => Sys2Proof.Machine.execRenew f s
  | .detach f => Sys2Proof.Machine.execDetach f s
  | .leaseExpiry f => Sys2Proof.Machine.execLeaseExpiry f s
  | .holdEnd f => Sys2Proof.Machine.execHoldEnd f s
  | .functionLevelReset f => Sys2Proof.Machine.execFunctionLevelReset f s
  | .hotReset => Sys2Proof.Machine.execHotReset s
  | .queueEnable f q => Sys2Proof.Machine.execQueueEnable f q s
  | .queueDisable f q => Sys2Proof.Machine.execQueueDisable f q s
  | .sqDoorbell f q tail => Sys2Proof.Machine.execSqDoorbell f q tail s
  | .cqDoorbell f q head => Sys2Proof.Machine.execCqDoorbell f q head s
  | .queueFault q => Sys2Proof.Machine.execQueueFault q s
  | .h2d q xid => Sys2Proof.Machine.execH2d q xid s
  | .d2h q xid => Sys2Proof.Machine.execD2h q xid s
  | .xfHostFault q xid => Sys2Proof.Machine.execXfHostFault q xid s
  | .queueInterrupt q => Sys2Proof.Machine.execQueueInterrupt q s
  | .ptmDialogue hostTime => Sys2Proof.Machine.execPtmDialogue hostTime s
  | .ptmLost => Sys2Proof.Machine.execPtmLost s
  | .registerWrite f place size v => Sys2Proof.Machine.execRegisterWrite f place size v s
  | .flitReceive p fl => Sys2Proof.Machine.execFlitReceive p fl s
  | .replayTimeout p => Sys2Proof.Machine.execReplayTimeout p s
  | .initMsg p m => Sys2Proof.Machine.execInitMsg p m s
  | .nak p lastGood => Sys2Proof.Machine.execNak p lastGood s
  | .retuneReq p l switchPoint => Sys2Proof.Machine.execRetuneReq p l switchPoint s
  | .retuneAck p => Sys2Proof.Machine.execRetuneAck p s
  | .retuneDone p ok => Sys2Proof.Machine.execRetuneDone p ok s
  | .width p rejoin => Sys2Proof.Machine.execWidth p rejoin s
  | .retuneCheck p l why => Sys2Proof.Machine.execRetuneCheck p l why s
  | .laneRetuneRequest v => Sys2Proof.Machine.execLaneRetuneRequest v s
  | .partnerDetect p => Sys2Proof.Machine.execPartnerDetect p s
  | .trainDone p passed order => Sys2Proof.Machine.execTrainDone p passed order s
  | .portRetrain p => Sys2Proof.Machine.execPortRetrain p s
  | .openPkt k => Sys2Proof.Machine.execOpenPkt k s
  | .openAck k => Sys2Proof.Machine.execOpenAck k s
  | .openRetry t => Sys2Proof.Machine.execOpenRetry t s
  | .dataPkt p k => Sys2Proof.Machine.execDataPkt p k s
  | .donePkt k => Sys2Proof.Machine.execDonePkt k s
  | .abortPkt k => Sys2Proof.Machine.execAbortPkt k s
  | .nack k => Sys2Proof.Machine.execNack k s
  | .rcmd k => Sys2Proof.Machine.execRcmd k s
  | .rdone k => Sys2Proof.Machine.execRdone k s
  | .stepPkt k => Sys2Proof.Machine.execStepPkt k s
  | .mgmt k => Sys2Proof.Machine.execMgmt k s
  | .beat k => Sys2Proof.Machine.execBeat k s
  | .beatTimer => Sys2Proof.Machine.execBeatTimer s
  | .time k arrived => Sys2Proof.Machine.execTime k arrived s
  | .timeExchangeTimer => Sys2Proof.Machine.execTimeExchangeTimer s
  | .epoch k => Sys2Proof.Machine.execEpoch k s
  | .group g => Sys2Proof.Machine.execGroup g s
  | .memberLoss m => Sys2Proof.Machine.execMemberLoss m s
  | .headLoss => Sys2Proof.Machine.execHeadLoss s
  | .groupForm found => Sys2Proof.Machine.execGroupForm found s
  | .groupDissolve => Sys2Proof.Machine.execGroupDissolve s
  | .groupAdd m d => Sys2Proof.Machine.execGroupAdd m d s
  | .groupRemove m => Sys2Proof.Machine.execGroupRemove m s
  | .sourceFire r bit => Sys2Proof.Machine.execSourceFire r bit s
  | .evcCntclr v => Sys2Proof.Machine.execEvcCntclr v s
  | .evcSwset v => Sys2Proof.Machine.execEvcSwset v s
  | .evcEnWrite j v => Sys2Proof.Machine.execEvcEnWrite j v s
  | .evcGdisWrite v => Sys2Proof.Machine.execEvcGdisWrite v s
  | .groupDelivery g => Sys2Proof.Machine.execGroupDelivery g s
  | .groupHoldoffExpiry g => Sys2Proof.Machine.execGroupHoldoffExpiry g s
  | .fwStage path mask => Sys2Proof.Machine.execFwStage path mask s
  | .stagingDone => Sys2Proof.Machine.execStagingDone s
  | .stagingLockTimeout => Sys2Proof.Machine.execStagingLockTimeout s
  | .fwActivate path mask resetMode => Sys2Proof.Machine.execFwActivate path mask resetMode s
  | .componentSwitch c => Sys2Proof.Machine.execComponentSwitch c s
  | .actWaitExpiry => Sys2Proof.Machine.execActWaitExpiry s
  | .fwCommit path mask => Sys2Proof.Machine.execFwCommit path mask s
  | .trialTimeExpiry => Sys2Proof.Machine.execTrialTimeExpiry s
  | .fwCancel path mask => Sys2Proof.Machine.execFwCancel path mask s
  | .fwAbort path mask => Sys2Proof.Machine.execFwAbort path mask s
  | .componentFault c x => Sys2Proof.Machine.execComponentFault c x s
  | .create path cmd => Sys2Proof.Machine.execCreate path cmd s
  | .remove path cmd => Sys2Proof.Machine.execRemove path cmd s
  | .partitionRetiring p => Sys2Proof.Machine.execPartitionRetiring p s
  | .epochChange p => Sys2Proof.Machine.execEpochChange p s
  | .scrubDone p => Sys2Proof.Machine.execScrubDone p s
  | .assign path cmd => Sys2Proof.Machine.execAssign path cmd s
  | .bindVf path cmd => Sys2Proof.Machine.execBindVf path cmd s
  | .unbindVf path cmd => Sys2Proof.Machine.execUnbindVf path cmd s
  | .rotate path cmd => Sys2Proof.Machine.execRotate path cmd s
  | .reencryptMove x => Sys2Proof.Machine.execReencryptMove x s
  | .oldVintageDestroy p => Sys2Proof.Machine.execOldVintageDestroy p s
  | .attest path cmd => Sys2Proof.Machine.execAttest path cmd s
  | .dbgUnlock path cmd => Sys2Proof.Machine.execDbgUnlock path cmd s
  | .revoke path cmd => Sys2Proof.Machine.execRevoke path cmd s
  | .entropyFail => Sys2Proof.Machine.execEntropyFail s
  | .drbgReseed => Sys2Proof.Machine.execDrbgReseed s
  | .samplerReseed => Sys2Proof.Machine.execSamplerReseed s
  | .limiterSample power avg1ms avg100ms => Sys2Proof.Machine.execLimiterSample power avg1ms avg100ms s
  | .sensorRead temps => Sys2Proof.Machine.execSensorRead temps s
  | .emergencyClear => Sys2Proof.Machine.execEmergencyClear s
  | .emergencyLevelDrop => Sys2Proof.Machine.execEmergencyLevelDrop s
  | .levelChange => Sys2Proof.Machine.execLevelChange s
  | .capForceTimeout => Sys2Proof.Machine.execCapForceTimeout s
  | .idleEntry => Sys2Proof.Machine.execIdleEntry s
  | .napEntry => Sys2Proof.Machine.execNapEntry s
  | .napWake => Sys2Proof.Machine.execNapWake s
  | .deepEntry => Sys2Proof.Machine.execDeepEntry s
  | .deepWake => Sys2Proof.Machine.execDeepWake s
  | .retest u passed => Sys2Proof.Machine.execRetest u passed s
  | .unitRetire u => Sys2Proof.Machine.execUnitRetire u s
  | .safeHold sc cause => Sys2Proof.Machine.execSafeHold sc cause s
  | .safeHoldRelease p recheckOk => Sys2Proof.Machine.execSafeHoldRelease p recheckOk s
  | .patrolRead x r => Sys2Proof.Machine.execPatrolRead x r s
  | .odRead path member entry => Sys2Proof.Machine.execOdRead path member entry s
  | .odWrite path member entry value => Sys2Proof.Machine.execOdWrite path member entry value s
  | .odDescribe path member entry => Sys2Proof.Machine.execOdDescribe path member entry s
  | .odNext path member entry => Sys2Proof.Machine.execOdNext path member entry s
  | .odRestore path member => Sys2Proof.Machine.execOdRestore path member s
  | .setEndpointId b eid fromOwner => Sys2Proof.Machine.execSetEndpointId b eid fromOwner s
  | .getEndpointId b => Sys2Proof.Machine.execGetEndpointId b s
  | .getEndpointUuid b => Sys2Proof.Machine.execGetEndpointUuid b s
  | .getMctpVersionSupport b => Sys2Proof.Machine.execGetMctpVersionSupport b s
  | .getMessageTypeSupport b => Sys2Proof.Machine.execGetMessageTypeSupport b s
  | .getVendorDefinedMsgSupport b => Sys2Proof.Machine.execGetVendorDefinedMsgSupport b s
  | .prepareForEndpointDiscovery b => Sys2Proof.Machine.execPrepareForEndpointDiscovery b s
  | .endpointDiscovery b => Sys2Proof.Machine.execEndpointDiscovery b s
  | .discoveryNotify => Sys2Proof.Machine.execDiscoveryNotify s
  | .unsupportedControlCmd b code => Sys2Proof.Machine.execUnsupportedControlCmd b code s
  | .alertResponse => Sys2Proof.Machine.execAlertResponse s
  | .mgmtAlert => Sys2Proof.Machine.execMgmtAlert s
  | .auxPowerLoss => Sys2Proof.Machine.execAuxPowerLoss s
  | .p48vInRange => Sys2Proof.Machine.execP48vInRange s
  | .thermTripRelease => Sys2Proof.Machine.execThermTripRelease s
  | .idleFlitTimer p => Sys2Proof.Machine.execIdleFlitTimer p s
  | .msixEnableWrite f enable mask => Sys2Proof.Machine.execMsixEnableWrite f enable mask s
  | .debugPortAccess a => Sys2Proof.Machine.execDebugPortAccess a s
  | .i3cDynamicAddressAssignment addr => Sys2Proof.Machine.execI3cDynamicAddressAssignment addr s

end Sys2Proof.Machine
end

