-- ==== Sys2Proof/Safety.lean ====
section
/-! DEFINITION. What the statements speak of: the canonical form of the host's memory, a command that has completed, and the parts
of the device that a completion leaves alone. -/

namespace Sys2Proof.Machine

/-- The host's memory is in its canonical form. -/
def State.HostWf (s : State) : Prop := Memory.wf s.host = true

/-- The entry of a tag whose command has completed (R92, R93, R103): COMPLETING, with its status, DETAIL, RESULT and TIME_LO. -/
structure TagE.Done (e : TagE) (st : Byte) (detail : BitVec 16) (result : Nat) (now : W64) : Prop where
  state : e.st = .completing
  status : e.status = st
  detail : e.detail = detail
  result : e.result = BitVec.ofNat 32 result
  time : e.timeLo = now.truncate 32

/-- The status of a success (R105): RETRIED_DONE where an access was retried. -/
def TagE.okStatus (e : TagE) : Byte := if e.retries = 0 then stDONE else stRETRIED

/-- The parts of the device that no completion of a command changes: all but the tag table, tile queues, slots and barriers of the
cores, references on objects, counters and event bits; no byte of memory is among them. -/
structure Dev.AsideCompletion (d e : Dev) : Prop where
  pins : e.pins = d.pins
  cellar : e.cellar = d.cellar
  srv : e.srv = d.srv
  links : e.links = d.links
  hif : e.hif = d.hif
  fw : e.fw = d.fw
  sec : e.sec = d.sec
  pwr : e.pwr = d.pwr
  od : e.od = d.od
  draws : e.draws = d.draws
  scratch : e.cores.scratch = d.cores.scratch
  written : e.cores.written = d.cores.written
  mem : e.tier.mem = d.tier.mem
  cntHeld : e.cntHeld = d.cntHeld
  totHeld : e.totHeld = d.totHeld

/-- The command of tag `t` has completed between `d` and `e`, and what no completion touches is as it was. -/
def Dev.Completed (d e : Dev) (t : Tag) (st : Byte) (detail : BitVec 16) (result : Nat) : Prop :=
  (e.tagE t).Done st detail result d.hif.devTime ∧ d.AsideCompletion e

/-- The parts of the device. -/
inductive DevPart where
  | pins | cores | tier | cellar | srv | links | hif | evc | fw | sec | pwr | od | evt | cnt | tot | cntHeld | totHeld | draws
deriving DecidableEq, Repr

/-- A part of the device is the same in `d` and `e`. -/
def Dev.SamePart (d e : Dev) : DevPart → Prop
  | .pins => e.pins = d.pins
  | .cores => e.cores = d.cores
  | .tier => e.tier = d.tier
  | .cellar => e.cellar = d.cellar
  | .srv => e.srv = d.srv
  | .links => e.links = d.links
  | .hif => e.hif = d.hif
  | .evc => e.evc = d.evc
  | .fw => e.fw = d.fw
  | .sec => e.sec = d.sec
  | .pwr => e.pwr = d.pwr
  | .od => e.od = d.od
  | .evt => e.evt = d.evt
  | .cnt => e.cnt = d.cnt
  | .tot => e.tot = d.tot
  | .cntHeld => e.cntHeld = d.cntHeld
  | .totHeld => e.totHeld = d.totHeld
  | .draws => e.draws = d.draws

/-- Between `d` and `e` no part of the device but those listed has changed. -/
def Dev.OnlyIn (ks : List DevPart) (d e : Dev) : Prop := ∀ k, k ∉ ks → d.SamePart e k

/-- Bytes of the scratchpad that a scratchpad-form address word plus an offset names (R84). -/
def Dev.spAt (d : Dev) (w off n : Nat) : List Byte := Memory.readN d.cores.scratch (spKey (spCore w) (spOff w + off)) n

/-- No scratchpad byte outside those `n` bytes differs between `d` and `e`. -/
def Dev.SpKept (d e : Dev) (w off n : Nat) : Prop :=
  ∀ a, (a < spKey (spCore w) (spOff w + off) ∨ spKey (spCore w) (spOff w + off) + n ≤ a) →
    Memory.read e.cores.scratch a = Memory.read d.cores.scratch a

/-- FLC_CMD is taken at this lock level: no command is busy, the level is reached, and FLC_ADDR names a place there is (R238 to R240). -/
structure Dev.FlcReady (d : Dev) (level : Nat) : Prop where
  idle : d.cellar.busy = false
  lock : level ≤ d.cellar.lock
  channel : d.cellar.chmap.getLsbD (fld d.cellar.addr.toNat 30 25) = true
  block : fld d.cellar.addr.toNat 24 12 < 5472
  word : fld d.cellar.addr.toNat 11 0 < 3072
  top : bitN d.cellar.addr.toNat 31 = false

/-- The completion ring of serving queue `q` can take an event now (R378). -/
structure State.RingOpen (s : State) (q : QueueNo) : Prop where
  fault : (s.dev.queue q).fault = false
  on : (s.dev.queue q).en = true
  kind : (s.dev.queue q).kind = 1
  room : (s.dev.queue q).full = false
  first : s.dev.inBacklog (some q) = false

/-- Host memory differs between `s` and `u` only by one event at the completion tail of queue `q` (R287, R376). -/
def State.EventAt (s u : State) (q : QueueNo) (e : SrvEv) : Prop :=
  u.host = Memory.writeN s.host ((s.dev.queue q).cqBase.toNat + (s.dev.queue q).cqTail * (s.dev.queue q).cqEntry)
    (withPhase (s.dev.queue q).phase (s.dev.queue q).phaseAt (s.dev.evBytes e))

/-- The mailbox OUT ring differs between `s` and `u` only by one entry at its tail (R386). -/
def State.OutAt (s u : State) (bs : List Byte) : Prop :=
  u.dev.hif.mboxOut = Memory.writeN s.dev.hif.mboxOut (s.dev.hif.outTail * 16) (withPhase s.dev.hif.outPhase 14 bs) ∧
    u.dev.hif.outTail = (s.dev.hif.outTail + 1) % 65536

/-- The submission head of queue `q` has passed one entry (R377). -/
def State.Taken (s u : State) (q : QueueNo) : Prop :=
  (u.dev.queue q).sqHead = ((s.dev.queue q).sqHead + 1) % (s.dev.queue q).sqSize

end Sys2Proof.Machine
end

