-- ==== Sys2Proof/Certificates/Slice0/Obligations.lean ====
section
/-! DEFINITION. The statements about the model, family by family. A docstring names the rules of spec/ a statement follows, and the log
entries of the model's own choices it rests on. -/

open Sys2Proof Sys2Proof.Machine

/-- The sequencer's own commands: a NOP ends with success; a BARRIER opens its barrier, joins it, completes every arrival as the last one,
or is turned away for its partition or its COUNT; an expired barrier ends every arrival with 0x81; a CANCEL ends a command that has not
started, and does nothing to one that runs or has ended.
Where the manual is open it rests on the model's choice in log entry 82. -/
def Obligations.SequencerOwnCommands : Prop :=
  (∀ (s : State) (t : Tag), s.dev.runs t 0x01 = true →
    ∃ d, exec (.nop t) s = .next { s with dev := d } ∧ s.dev.Completed d t (s.dev.tagE t).okStatus 0 0) ∧
  (∀ (s : State) (t : Tag), s.dev.runs t 0x02 = true →
    let x := (s.dev.tagE t).desc
    let b := s.dev.bar (barId x)
    (b = Bar.reset → barCount x ≠ 1 → exec (.barrier t) s = .next { s with dev := s.dev.setBar (barId x) (Bar.mk true x.part (barCount x)
      (if barTimeout x = 0 then none else some (s.dev.now + barTimeout x * 1000)) [t]) }) ∧
    (b.isOpen = true → b.part = x.part → b.count = barCount x → t ∉ b.arrivals → b.arrivals.length + 1 ≠ b.count →
      exec (.barrier t) s = .next { s with dev := s.dev.setBar (barId x) { b with arrivals := b.arrivals ++ [t] } }) ∧
    (b.isOpen = true → b.part = x.part → b.count = barCount x → t ∉ b.arrivals → b.arrivals.length + 1 = b.count →
      ∃ d, exec (.barrier t) s = .next { s with dev := d } ∧ s.dev.AsideCompletion d ∧
        ∀ u ∈ b.arrivals ++ [t], (s.dev.tagE u).live = true → (d.tagE u).Done (s.dev.tagE u).okStatus 0 0 s.dev.hif.devTime) ∧
    (b.isOpen = true → b.part ≠ x.part → t ∉ b.arrivals →
      ∃ d, exec (.barrier t) s = .next { s with dev := d } ∧ s.dev.Completed d t stRIGHTS 0x0003 0) ∧
    (b.isOpen = true → b.part = x.part → b.count ≠ barCount x → t ∉ b.arrivals →
      ∃ d, exec (.barrier t) s = .next { s with dev := d } ∧ s.dev.Completed d t 0x80 0 0)) ∧
  (∀ (s : State) (n : BitVec 6) (l : Nat), (s.dev.bar n.toNat).isOpen = true → (s.dev.bar n.toNat).limit = some l → l ≤ s.dev.now →
    ∃ d, exec (.barrierTimeout n) s = .next { s with dev := d } ∧ s.dev.AsideCompletion d ∧
      ∀ u ∈ (s.dev.bar n.toNat).arrivals, (s.dev.tagE u).live = true → (d.tagE u).Done 0x81 0 0 s.dev.hif.devTime) ∧
  (∀ (s : State) (t : Tag), s.dev.runs t 0x03 = true →
    let u := cancelTarget (s.dev.tagE t).desc
    (s.dev.tagE u).desc.part = (s.dev.tagE t).desc.part →
    ((s.dev.tagE u).st = .waiting ∨ (s.dev.tagE u).st = .ready →
      ∃ d, exec (.cancel t) s = .next { s with dev := d } ∧ (d.tagE u).Done stABORTED 0x0008 t.toNat s.dev.hif.devTime ∧
        (d.tagE t).Done (s.dev.tagE t).okStatus 0 1 s.dev.hif.devTime ∧
        (((s.dev.tagE u).checked = false ∨ (s.dev.tagE u).desc.op ≠ 0x13) → s.dev.AsideCompletion d)) ∧
    ((s.dev.tagE u).st = .running ∨ (s.dev.tagE u).st = .free →
      ∃ d, exec (.cancel t) s = .next { s with dev := d } ∧ s.dev.Completed d t (s.dev.tagE t).okStatus 0 0))

/-- Waits, fences, starts, the watchdog: a decided wait frees its command or ends it ABORTED with the failed tag, a cleared fence frees it;
a READY command whose checks pass and whose unit is free runs; one that a check refuses ends with that check's status and DETAIL; one with a
zero size ends with success; one past the watchdog's limit ends UNCORRECTABLE and the core's event bit stands.
Where the manual is open it rests on the model's choice in log entries 16, 19 and 81. -/
def Obligations.WaitsAndStarts : Prop :=
  (∀ (s : State) (t : Tag), (s.dev.tagE t).st = .waiting → ((s.dev.tagE t).wait0.decided || (s.dev.tagE t).wait1.decided) = true →
    ((s.dev.tagE t).wait0.failed = none → (s.dev.tagE t).wait1.failed = none →
      let e := TagE.ripen { s.dev.tagE t with wait0 := (s.dev.tagE t).wait0.settle, wait1 := (s.dev.tagE t).wait1.settle }
      exec (.waitResolve t) s = .next { s with dev := s.dev.setTag t e }) ∧
    (∀ u, (s.dev.tagE t).wait0.failed = some u →
      ∃ d, exec (.waitResolve t) s = .next { s with dev := d } ∧ s.dev.Completed d t stABORTED 0x0007 u.toNat) ∧
    (∀ u, (s.dev.tagE t).wait0.failed = none → (s.dev.tagE t).wait1.failed = some u →
      ∃ d, exec (.waitResolve t) s = .next { s with dev := d } ∧ s.dev.Completed d t stABORTED 0x0007 u.toNat)) ∧
  (∀ (s : State) (t : Tag), (s.dev.tagE t).st = .waiting → (s.dev.tagE t).fence = some [] →
    let e := TagE.ripen { s.dev.tagE t with fence := none }
    exec (.fenceClear t) s = .next { s with dev := s.dev.setTag t e }) ∧
  (∀ (s : State) (t : Tag), (s.dev.tagE t).st = .ready → (s.dev.tagE t).checked = false →
    let e := s.dev.tagE t
    (∀ f, firstBad (s.dev.checksA e) = some f →
      ∃ d, exec (.commandStart t []) s = .next { s with dev := d } ∧ s.dev.Completed d t f.1 f.2 0) ∧
    (firstBad (s.dev.checksA e) = none → hasZero e.desc (opSpec e.desc) = true →
      ∃ d, exec (.commandStart t []) s = .next { s with dev := d } ∧ s.dev.Completed d t e.okStatus 0 0) ∧
    (∀ f, firstBad (s.dev.checksA e) = none → hasZero e.desc (opSpec e.desc) = false → firstBad (s.dev.checksB e) = some f →
      ∃ d, exec (.commandStart t []) s = .next { s with dev := d } ∧ s.dev.Completed d t f.1 f.2 0) ∧
    (firstBad (s.dev.checksA e) = none → hasZero e.desc (opSpec e.desc) = false → firstBad (s.dev.checksB e) = none →
      firstBad (s.dev.checksC e) = none → e.desc.op ≠ 0x13 → ∀ dm1, (s.dev.pass t).startOn { e with checked := true } = some dm1 →
      ∃ d, exec (.commandStart t []) s = .next { s with dev := d } ∧ (d.tagE t).st = .running ∧ (d.tagE t).started = s.dev.hif.devTime ∧
        (d.tagE t).dm1 = dm1 ∧ (d.tagE t).desc = e.desc ∧ d.cores.scratch = s.dev.cores.scratch ∧ d.tier.mem = s.dev.tier.mem)) ∧
  (∀ (s : State) (t : Tag), (s.dev.tagE t).st = .running → (s.dev.tagE t).started.toNat + s.dev.watchdogNs < s.dev.now →
    ∃ d, exec (.watchdogExpiry t) s = .next { s with dev := d } ∧ 
      (d.tagE t).Done stUNCORR 0x000C (s.dev.badResult t (s.dev.tagE t).desc (s.dev.stopMove (s.dev.tagE t).desc).1 0) s.dev.hif.devTime ∧
      (opChip (s.dev.tagE t).desc.op = false → (d.evtReg (.coreEvt (s.dev.tagE t).desc.core)).getLsbD 2 = true))

/-- A completion record goes to its queue: its bytes, with the ring's phase, stand at the completion tail in host memory and nowhere else is
host memory changed; a full ring keeps the record waiting and sets HIF_EVT.CQ_FULL. The record of an ATTEND that ended in doubt places the live
sequence it names in Safe Hold.
Where the manual is open it rests on the model's choice in log entry 14. -/
def Obligations.RecordsReachTheirRing : Prop :=
  (∀ (s : State) (t : Tag) (q : QueueNo), (s.dev.tagE t).st = .completing → (s.dev.tagE t).iss = .queue q →
    ((s.dev.tagE t).desc.quiet && ((s.dev.tagE t).status == stDONE || (s.dev.tagE t).status == stRETRIED)) = false →
    (s.dev.queue q).fault = false → attDoubt (s.dev.tagE t).desc (s.dev.tagE t).status (s.dev.tagE t).detail = false →
    ((s.dev.queue q).full = false →
      ∃ u, exec (.completionRecordWrite (.tag t)) s = .next u ∧ u.nv = s.nv ∧ u.pending = s.pending ∧
        u.host = Memory.writeN s.host ((s.dev.queue q).cqBase.toNat + (s.dev.queue q).cqTail * (s.dev.queue q).cqEntry)
          (withPhase (s.dev.queue q).phase (s.dev.queue q).phaseAt (s.dev.tagRecord (s.dev.tagE t)).bytes)) ∧
    ((s.dev.queue q).full = true →
      exec (.completionRecordWrite (.tag t)) s =
        .next { s with dev := s.dev.setEvt (.hifEvt ⟨(s.dev.queue q).func.toNat % 9, Nat.mod_lt _ (by decide)⟩) 0x10 })) ∧
  (∀ (s : State) (t : Tag) (q : QueueNo), (s.dev.tagE t).st = .completing → (s.dev.tagE t).iss = .queue q →
    attDoubt (s.dev.tagE t).desc (s.dev.tagE t).status (s.dev.tagE t).detail = true →
    (s.dev.seq (atSeq (s.dev.tagE t).desc)).alive = true → (s.dev.seq (atSeq (s.dev.tagE t).desc)).part = (s.dev.tagE t).desc.part →
    (s.dev.seq (atSeq (s.dev.tagE t).desc)).gen.toNat = atGen (s.dev.tagE t).desc →
      ∃ u, exec (.completionRecordWrite (.tag t)) s = .next u ∧ (u.dev.seq (atSeq (s.dev.tagE t).desc)).st = .safeHold) ∧
  (∀ (s : State) (q : QueueNo) (r : Rec) (rs : List Rec), (s.dev.queue q).due = r :: rs → (s.dev.queue q).fault = false →
    (s.dev.queue q).full = false →
      ∃ u, exec (.completionRecordWrite (.queue q)) s = .next u ∧ u.nv = s.nv ∧ u.pending = s.pending ∧
        u.host = Memory.writeN s.host ((s.dev.queue q).cqBase.toNat + (s.dev.queue q).cqTail * (s.dev.queue q).cqEntry)
          (withPhase (s.dev.queue q).phase (s.dev.queue q).phaseAt r.bytes))

/-- MATMUL (R120 to R133). With A in scratchpad and its output in scratchpad it computes every tile and completes with the number of
tiles as RESULT; an output of one row stores its elements at CO and nowhere else. With its output in the tile queue it forms the tiles
in grid order, the last one marked LAST, and keeps running. A parity error ends it 0x82 with the engine in RESULT.
Where the manual is open it rests on the model's choice in log entry 80. -/
def Obligations.MatmulComputesItsTiles : Prop :=
  ∀ (s : State) (t : Tag), s.dev.runs t 0x10 = true →
    let x := (s.dev.tagE t).desc
    (∀ m, ∃ d, exec (.matmul t (some m)) s = .next { s with dev := d } ∧ (d.tagE t).Done 0x82 0 m.toNat s.dev.hif.devTime ∧
      (d.evtReg (.mxeEvt x.core)).getLsbD 2 = true) ∧
    (mmWx x = false → mmTiles x ≠ [] → s.dev.pushedOf t = 0 →
      (mmOut x = true → ∃ d, exec (.matmul t none) s = .next { s with dev := d } ∧
        (d.tagE t).Done (s.dev.tagE t).okStatus 0 (mmTiles x).length s.dev.hif.devTime ∧
        s.dev.OnlyIn [.cores, .tier, .evc, .evt, .cnt, .tot, .draws] d ∧
        (mmTiles x = [(0, 0)] → mmM x = 1 → isSp (x.w 6) = true →
          d.spAt (x.w 6) 0 (4 * min 16 (mmN x)) = ((mmTileData s.dev t x 0 0).1.take (min 16 (mmN x))).flatMap (fun e => natLe 4 e.toNat) ∧
          s.dev.SpKept d (x.w 6) 0 (4 * min 16 (mmN x)))) ∧
      (mmOut x = false → (s.dev.core x.core).due = [] → ∃ d, exec (.matmul t none) s = .next { s with dev := d } ∧
        (d.core x.core).due = (List.range (mmTiles x).length).map (fun q =>
          mmTile s.dev t x ((mmTiles x).getD q (0, 0)) (decide (q + 1 = (mmTiles x).length))) ∧
        d.cores.tag = s.dev.cores.tag ∧ d.cores.scratch = s.dev.cores.scratch ∧
        s.dev.OnlyIn [.cores, .evc, .evt, .cnt, .tot, .draws] d))

/-- The tile queue (R124, R131, R133, R171 to R174). TILE_PUSH moves the oldest finished tile to the end of its core's queue, and the
last one completes the MATMUL with the tiles pushed; a full queue takes none. TILE_POP takes the head of the queue: the last expected
tile completes the VECOP with the tile count; a tile of another producer, one out of the grid or out of its place, one without scales
that the command needs, and an empty queue whose producer has ended, end it 0x80, 0x82, 0x83 and 0x81; a producer's failure marker ends
it ABORTED. A MATMUL whose drainer is gone ends 0x81 with its tiles discarded.
Where the manual is open it rests on the model's choice in log entry 81. -/
def Obligations.TileQueueDelivers : Prop :=
  (∀ (s : State) (c : CoreNo) (t : Tag) (e : Tile) (es : List Tile), (s.dev.core c).producer = some t → (s.dev.core c).due = e :: es →
    s.dev.runs t 0x10 = true → (s.dev.tagE t).desc.core = c → s.dev.cores.lost.contains t = false → e.fail = false →
    let n := s.dev.pushedOf t + 1
    let total := (mmTiles (s.dev.tagE t).desc).length
    ((s.dev.core c).queue.length < 16 → n ≠ total → ∃ d, exec (.tilePush c) s = .next { s with dev := d } ∧
      (d.core c).queue = (s.dev.core c).queue ++ [e] ∧ (d.core c).due = es ∧ d.pushedOf t = n ∧ d.cores.tag = s.dev.cores.tag ∧
      d.cores.scratch = s.dev.cores.scratch ∧ s.dev.OnlyIn [.cores] d) ∧
    ((s.dev.core c).queue.length < 16 → n = total → ∃ d, exec (.tilePush c) s = .next { s with dev := d } ∧
      (s.dev.drainedBy t (s.dev.tagE t) = [] → (d.core c).queue = (s.dev.core c).queue ++ [e]) ∧
      s.dev.Completed d t (s.dev.tagE t).okStatus 0 n) ∧
    (16 ≤ (s.dev.core c).queue.length → ∃ d, exec (.tilePush c) s = .next { s with dev := d } ∧ d.cores = s.dev.cores)) ∧
  (∀ (s : State) (c : CoreNo) (t : Tag), s.dev.drainer c = some t → s.dev.runs t 0x11 = true → vTq (s.dev.tagE t).desc = true →
    (s.dev.tagE t).desc.core = c →
    let x := (s.dev.tagE t).desc
    let k := s.dev.drainedOf t
    ((s.dev.core c).queue = [] → (s.dev.tagE (vProd x)).inFlight = false → ∃ d, exec (.tilePop c) s = .next { s with dev := d } ∧
      s.dev.Completed d t 0x81 0 (s.dev.tagE (vProd x)).status.toNat) ∧
    (∀ e es, (s.dev.core c).queue = e :: es →
      (e.prod ≠ vProd x → ∃ d, exec (.tilePop c) s = .next { s with dev := d } ∧ s.dev.Completed d t 0x80 0 e.prod.toNat) ∧
      (e.prod = vProd x → e.fail = true → ∃ d, exec (.tilePop c) s = .next { s with dev := d } ∧
        s.dev.Completed d t stABORTED 0x0007 (vProd x).toNat) ∧
      (e.prod = vProd x → e.fail = false → e.drain = t →
        (ceilDiv (vRows x) 16 ≤ e.i.toNat ∨ ceilDiv (vCols x) 16 ≤ e.j.toNat ∨ e.last ≠ decide (k + 1 = vTiles x) →
          ∃ d, exec (.tilePop c) s = .next { s with dev := d } ∧ s.dev.Completed d t 0x82 0 k) ∧
        (e.i.toNat < ceilDiv (vRows x) 16 → e.j.toNat < ceilDiv (vCols x) 16 → e.last = decide (k + 1 = vTiles x) →
          (vCs x = 1 → e.scalesValid = false → ∃ d, exec (.tilePop c) s = .next { s with dev := d } ∧ s.dev.Completed d t 0x83 0 k) ∧
          ((vCs x = 1 → e.scalesValid = true) → k + 1 = vTiles x → ∃ d, exec (.tilePop c) s = .next { s with dev := d } ∧
            (d.tagE t).Done (s.dev.tagE t).okStatus 0 (vTiles x) s.dev.hif.devTime) ∧
          ((vCs x = 1 → e.scalesValid = true) → k + 1 ≠ vTiles x → ∃ d, exec (.tilePop c) s = .next { s with dev := d } ∧
            (d.core c).queue = es ∧ d.drainedOf t = k + 1 ∧ d.cores.tag = s.dev.cores.tag))))) ∧
  (∀ (s : State) (t : Tag), s.dev.runs t 0x10 = true → s.dev.cores.lost.contains t = true →
    let c := (s.dev.tagE t).desc.core
    ∃ d, exec (.drainLost t) s = .next { s with dev := d } ∧ (d.tagE t).Done 0x81 0 (s.dev.pushedOf t) s.dev.hif.devTime ∧
      d.cores.scratch = s.dev.cores.scratch ∧ d.tier.mem = s.dev.tier.mem ∧ s.dev.OnlyIn [.cores, .tier, .evc, .evt, .cnt, .tot, .draws] d ∧
      (s.dev.drainedBy t (s.dev.tagE t) = [] → (d.core c).queue = (s.dev.core c).queue.filter (fun e => e.prod ≠ t)) ∧
      (d.evtReg (.mxeEvt c)).getLsbD 3 = true)

/-- VECOP and SAMPLE (R170, R180, R184 to R189). A stream-mode VECOP computes its rows and completes with their number; one row stores its
element codes at D and nowhere else. A SAMPLE of one row whose logits and parameters are sound stores the token, its LOGPROB and KEPT and a
status of 0 in the row's slot and completes with 1; one whose row fails stores the failing status and completes 0x80 with 1.
Where the manual is open it rests on the model's choice in log entries 6, 20, 21, 22 and 80. -/
def Obligations.VectorEngineCompletes : Prop :=
  (∀ (s : State) (t : Tag), s.dev.runs t 0x11 = true → vTq (s.dev.tagE t).desc = false →
    let x := (s.dev.tagE t).desc
    ∃ d, exec (.vecop t) s = .next { s with dev := d } ∧ (d.tagE t).Done (s.dev.tagE t).okStatus 0 (vRows x) s.dev.hif.devTime ∧
      s.dev.OnlyIn [.cores, .tier, .evc, .evt, .cnt, .tot, .draws] d ∧
      (vRows x = 1 → vOp x ≠ 0x21 → isSp (x.w 3) = true →
        let bs := (vStreamRow s.dev x 0).codes.flatMap (natLe (tyW (vDType x)))
        d.spAt (x.w 3) 0 bs.length = bs ∧ s.dev.SpKept d (x.w 3) 0 bs.length)) ∧
  (∀ (s : State) (t : Tag), s.dev.runs t 0x12 = true → smRows (s.dev.tagE t).desc = 1 → isSp ((s.dev.tagE t).desc.w 2) = true →
    let x := (s.dev.tagE t).desc
    let o := smpRow s.dev x 0 (Config.samplerDraw s.dev.draws)
    (o.st = stDONE → ∃ d, exec (.sample t) s = .next { s with dev := d } ∧
      (d.tagE t).Done (s.dev.tagE t).okStatus 0 1 s.dev.hif.devTime ∧
      d.spAt (x.w 2) 16 16 = natLe 4 o.token ++ natLe 4 o.logp.toNat ++ natLe 2 o.kept ++ [0, 0, 0, 0, 0, 0] ∧ s.dev.SpKept d (x.w 2) 16 16) ∧
    (o.st ≠ stDONE → ∃ d, exec (.sample t) s = .next { s with dev := d } ∧ (d.tagE t).Done 0x80 0 1 s.dev.hif.devTime ∧
      d.spAt (x.w 2) 16 4 = natLe 4 o.token ∧ d.spAt (x.w 2) 26 1 = [o.st] ∧ s.dev.SpKept d (x.w 2) 16 16 ∧
      (d.evtReg (.veEvt x.core)).getLsbD 3 = true))

/-- The weight expander (R79, R127, R147, R149 to R151, R157 to R160). A presented block that is valid advances the read by one block
and its stored bytes; an invalid one is fetched again while retries are left, which counts one retry of the command, and ends it
UNCORRECTABLE after them; one that is not the next of the sequence ends it 0x80 with its place. An EXPAND whose blocks are all written
stores the channel scales behind its tiles and completes with the number of blocks.
Where the manual is open it rests on the model's choice in log entry 80. -/
def Obligations.ExpanderReadsBlocks : Prop :=
  (∀ (s : State) (t : Tag) (d1 d2 : Dev), s.dev.readsBlocks t = true → (s.dev.wx t).again = false →
    let x := (s.dev.tagE t).desc
    let r := s.dev.wx t
    let o := urObj (wxAddr x)
    let off := urOff (wxAddr x) + r.pos
    r.next < wxTotal x → off + 64 ≤ (s.dev.obj o).size →
    s.dev.accessGrans ((gransOf off 64).map fun g => (o, g)) [] = (.ready, d1) →
    let h := BlkHdr.ofBytes (d1.objRead o off 64)
    (r.tries + 1 ≤ d1.retryLimit → ∃ d, exec (.wxBlockPresent t true) s = .next { s with dev := d } ∧
      (d.wx t).again = true ∧ (d.wx t).tries = r.tries + 1 ∧ (d.wx t).next = r.next ∧ d.cores.tag = s.dev.cores.tag ∧
      d.cores.scratch = s.dev.cores.scratch) ∧
    (d1.retryLimit < r.tries + 1 → ∃ d, exec (.wxBlockPresent t true) s = .next { s with dev := d } ∧
      (d.tagE t).Done stUNCORR 0x000D 0 s.dev.hif.devTime) ∧
    (headerOk h (d1.slot h.slot) (d1.slotOwned x.part h.slot) = true → seqOk x r.next h = false →
      ∃ d, exec (.wxBlockPresent t false) s = .next { s with dev := d } ∧ (d.tagE t).Done 0x80 0 r.next s.dev.hif.devTime) ∧
    (headerOk h (d1.slot h.slot) (d1.slotOwned x.part h.slot) = true → seqOk x r.next h = true → off + h.stored ≤ (d1.obj o).size →
      (d1.readHdr t h).accessGrans ((gransOf off h.stored).map fun g => (o, g)) [] = (.ready, d2) →
      let sc := if h.sidecar then d2.objRead o (off + 64) 128 else []
      let pay := d2.objRead o (off + 64 + sc.length) h.payload
      h.crc = blockCrc (d1.objRead o off 64) sc pay → sidecarOk (d2.wx t) h sc = true →
      ∀ codes escs, blockRows h (d2.slot h.slot).image pay = some (codes, escs) →
        ∃ d, exec (.wxBlockPresent t false) s = .next { s with dev := d } ∧ (d.wx t).next = r.next + 1 ∧ (d.wx t).pos = wxAfter x r.pos h ∧
          (d.wx t).again = false ∧ (d.wx t).blocks = r.blocks ++ [⟨h.rowBlk, h.colBlk, codes, blockScales h sc, h.scale2, if h.sidecar then some sc else none⟩] ∧
          d.cores.tag = s.dev.cores.tag)) ∧
  (∀ (s : State) (t : Tag), s.dev.readsBlocks t = true → (s.dev.wx t).again = true →
    ∃ d, exec (.invalidBlockRefetch t) s = .next { s with dev := d } ∧
      d.tagE t = { s.dev.tagE t with retries := if (s.dev.tagE t).retries = 255 then 255 else (s.dev.tagE t).retries + 1 } ∧
      d.wx t = { s.dev.wx t with again := false } ∧ d.cores.scratch = s.dev.cores.scratch ∧ s.dev.OnlyIn [.cores] d) ∧
  (∀ (s : State) (t : Tag), s.dev.runs t 0x13 = true → exFunc (s.dev.tagE t).desc = 0 → (s.dev.wx t).next = wxTotal (s.dev.tagE t).desc →
    let x := (s.dev.tagE t).desc
    ∃ d, exec (.expand t) s = .next { s with dev := d } ∧ (d.tagE t).Done (s.dev.tagE t).okStatus 0 (wxTotal x) s.dev.hif.devTime ∧
      (isSp (x.w 2) = true → d.spAt (x.w 2) (exTiles x) (4 * exN x) = (List.range (exN x)).flatMap (fun n => natLe 4 ((s.dev.wx t).scale x n).toNat) ∧
        s.dev.SpKept d (x.w 2) (exTiles x) (4 * exN x)))

/-- The slot functions (R149 to R151, R159, R160). A SLOT_LOAD of a valid image of another version leaves the slot READY with the image's
kind, element type, codebook width and version; an invalid image ends it 0x82 and a version already there or 0 ends it 0x81, with the slot's
version as RESULT. SLOT_PIN and SLOT_UNPIN at the slot's version add to and take from PINS, and refuse a count out of range (0x83) and
another version (0x81).
Where the manual is open it rests on the model's choice in log entry 81. -/
def Obligations.SlotFunctions : Prop :=
  (∀ (s : State) (t : Tag) (d1 : Dev), s.dev.runs t 0x13 = true → exFunc (s.dev.tagE t).desc = 1 →
    let x := (s.dev.tagE t).desc
    let n := exSlot x
    s.dev.access [(x.w 1, 4096)] [] = (.ready, d1) →
    let im := (d1.memRead (x.w 1) 0 4096).1
    (imageOk im = true → imgVersion im ≠ 0 → BitVec.ofNat 32 (imgVersion im) ≠ (s.dev.slot n).version →
      ∃ d, exec (.slotLoad t) s = .next { s with dev := d } ∧ (d.tagE t).Done (s.dev.tagE t).okStatus 0 (imgVersion im) s.dev.hif.devTime ∧
        (d.slot n).st = .ready ∧ (d.slot n).kind = BitVec.ofNat 4 (imgKind im) ∧ (d.slot n).etype = BitVec.ofNat 4 (imgEtype im) ∧
        (d.slot n).cbkW = BitVec.ofNat 4 (imgCbkW im) ∧ (d.slot n).version = BitVec.ofNat 32 (imgVersion im) ∧ (d.slot n).part = x.part ∧
        (d.slot n).image = im ∧ (d.slot n).pins = (s.dev.slot n).pins) ∧
    (imageOk im = false → ∃ d, exec (.slotLoad t) s = .next { s with dev := d } ∧ (d.tagE t).Done 0x82 0 0 s.dev.hif.devTime ∧
      (d.slot n).version = (s.dev.slot n).version ∧ (d.slot n).image = (s.dev.slot n).image ∧ (d.slot n).pins = (s.dev.slot n).pins) ∧
    (imageOk im = true → (imgVersion im = 0 ∨ BitVec.ofNat 32 (imgVersion im) = (s.dev.slot n).version) →
      ∃ d, exec (.slotLoad t) s = .next { s with dev := d } ∧ (d.tagE t).Done 0x81 0 (s.dev.slot n).version.toNat s.dev.hif.devTime ∧
        (d.slot n).version = (s.dev.slot n).version ∧ (d.slot n).image = (s.dev.slot n).image ∧ (d.slot n).pins = (s.dev.slot n).pins)) ∧
  (∀ (s : State) (t : Tag), s.dev.runs t 0x13 = true →
    let x := (s.dev.tagE t).desc
    let n := exSlot x
    let v := s.dev.slot n
    (exFunc x = 2 →
      (v.st = .ready → v.version = exSlotVer x → v.pins.toNat + exCount x ≤ 65535 → ∃ d, exec (.slotPin t) s = .next { s with dev := d } ∧
        (d.tagE t).Done (s.dev.tagE t).okStatus 0 (v.pins.toNat + exCount x) s.dev.hif.devTime ∧
        (d.slot n).pins.toNat = v.pins.toNat + exCount x ∧ (d.slot n).version = v.version ∧ (d.slot n).image = v.image ∧ (d.slot n).st = .ready) ∧
      (v.st = .ready → v.version = exSlotVer x → 65535 < v.pins.toNat + exCount x → ∃ d, exec (.slotPin t) s = .next { s with dev := d } ∧
        (d.tagE t).Done 0x83 0 v.pins.toNat s.dev.hif.devTime ∧ (d.slot n).pins = v.pins) ∧
      (v.st ≠ .ready ∨ v.version ≠ exSlotVer x → ∃ d, exec (.slotPin t) s = .next { s with dev := d } ∧
        (d.tagE t).Done 0x81 0 v.version.toNat s.dev.hif.devTime ∧ (d.slot n).pins = v.pins)) ∧
    (exFunc x = 3 →
      (v.st = .ready → v.version = exSlotVer x → exCount x ≤ v.pins.toNat → ∃ d, exec (.slotUnpin t) s = .next { s with dev := d } ∧
        (d.tagE t).Done (s.dev.tagE t).okStatus 0 (v.pins.toNat - exCount x) s.dev.hif.devTime ∧
        (d.slot n).pins.toNat = v.pins.toNat - exCount x ∧ (d.slot n).version = v.version ∧ (d.slot n).image = v.image ∧ (d.slot n).st = .ready) ∧
      (v.st = .ready → v.version = exSlotVer x → v.pins.toNat < exCount x → ∃ d, exec (.slotUnpin t) s = .next { s with dev := d } ∧
        (d.tagE t).Done 0x83 0 v.pins.toNat s.dev.hif.devTime ∧ (d.slot n).pins = v.pins)))

/-- MOVE (R110 to R112). A MOVE whose granules are all there completes with the rows written. Of one row it stores, at DST, the bytes of SRC
(zeros where it fills), and stores nowhere else; a damaged source granule ends it UNCORRECTABLE with a number of rows, at most those whose
granules were all there, and of one row nothing outside DST is stored.
Where the manual is open it rests on the model's choice in log entry 2.
Where the manual is open it rests on the model's choice in log entry 82. -/
def Obligations.MoveCopiesItsRows : Prop :=
  ∀ (s : State) (t : Tag) (a : Acc) (d1 : Dev), s.dev.runs t 0x20 = true →
    let x := (s.dev.tagE t).desc
    s.dev.access (mvReads x) (mvWrites x) = (a, d1) →
    (a = .ready → ∃ d, exec (.move t) s = .next { s with dev := d } ∧
      (d.tagE t).Done (s.dev.tagE t).okStatus 0 (mvRows x) s.dev.hif.devTime ∧
      s.dev.OnlyIn [.cores, .tier, .evc, .evt, .cnt, .tot, .draws] d ∧
      (mvRows x = 1 → isSp (x.w 2) = true →
        d.spAt (x.w 2) 0 (mvBytes x) = (if mvZero x then List.replicate (mvBytes x) 0 else (d1.memRead (x.w 1) 0 (mvBytes x)).1) ∧
        s.dev.SpKept d (x.w 2) 0 (mvBytes x) ∧ d.tier.mem = d1.tier.mem)) ∧
    (∀ o g, a = .damaged o g → ∃ d n, exec (.move t) s = .next { s with dev := d } ∧ (d.tagE t).Done stUNCORR 0 n s.dev.hif.devTime ∧
      n = (s.dev.stopMove x).1 ∧ n ≤ s.dev.openRows x ∧ s.dev.OnlyIn [.cores, .tier, .evc, .evt, .cnt, .tot, .draws] d ∧
      (mvRows x = 1 → isSp (x.w 2) = true → s.dev.SpKept d (x.w 2) 0 (mvBytes x))) ∧
    (a = .waits → exec (.move t) s = .next { s with dev := d1 } ∧ d1.cores = s.dev.cores)

/-- The MASK unit (R307 to R310). MASK_FILL and MASK_ADVANCE on an automaton whose header is not valid end 0x80; on a valid one they run
every row and complete with the rows, or 0x81 with the number of rows that failed; of one row whose work area is in T1 FILL stores the
bitmap, STATUS and FINAL, and ADVANCE stores NEXT, STATUS and FINAL.
Where the manual is open it rests on the model's choice in log entry 26. -/
def Obligations.MaskUnitCompletes : Prop :=
  ∀ (s : State) (t : Tag) (f : Nat) (d1 : Dev), (f = 0 ∨ f = 1) → s.dev.runs t 0x14 = true → mkFunc (s.dev.tagE t).desc = f →
    let x := (s.dev.tagE t).desc
    let c := if f = 0 then Instr.maskFill t else Instr.maskAdvance t
    s.dev.access [(x.w 1, 64), (x.w 2, 16 * mkRows x)] [] = (.ready, d1) →
    (d1.auOk (urObj (x.w 1)) (mkVocab x) = false → ∃ d, exec c s = .next { s with dev := d } ∧
      (d.tagE t).Done 0x80 0 0 s.dev.hif.devTime ∧ (d.evtReg .srvEvt).getLsbD 7 = true ∧ d.cores.scratch = s.dev.cores.scratch) ∧
    (∀ d2, d1.auOk (urObj (x.w 1)) (mkVocab x) = true →
      d1.access ((List.range (mkRows x)).flatMap (maskReads d1 x)) [((mkWork x).addr, (mkWork x).span)] = (.ready, d2) →
      let bad := ((List.range (mkRows x)).filter fun r => (maskRow d2 x r).st ≠ 0).length
      ∃ d, exec c s = .next { s with dev := d } ∧
        (bad = 0 → (d.tagE t).Done (s.dev.tagE t).okStatus 0 (mkRows x) s.dev.hif.devTime) ∧
        (bad ≠ 0 → (d.tagE t).Done 0x81 0 bad s.dev.hif.devTime ∧ (d.evtReg .srvEvt).getLsbD 7 = true) ∧
        s.dev.OnlyIn [.cores, .tier, .evc, .evt, .cnt, .tot, .draws] d ∧
        (mkRows x = 1 → isSp (x.w 2) = false →
          (∀ g ∈ gransOf (urOff (x.w 2)) (mkWork x).span, (d2.gran (urObj (x.w 2)) g).t1.isSome = true ∧ (d2.gran (urObj (x.w 2)) g).damaged = false) →
          let m := maskRow d2 x 0
          let at_ (k n : Nat) : List Byte := Memory.readN d.tier.mem (objKey (urObj (x.w 2)) (urOff (x.w 2) + k)) n
          (f = 1 → at_ 8 8 = natLe 4 m.next ++ [m.st, if m.final then 1 else 0, 0, 0]) ∧
          (f = 0 → at_ 12 4 = [m.st, if m.final then 1 else 0, 0, 0] ∧ at_ 64 m.bits.length = m.bits)))

/-- ATTEND (R254 to R264). A sequence that is free or of another generation ends it STALE, one of another partition RIGHTS, and its
snapshot is taken once: the walk set is chosen, every row starts empty, and the command keeps running. PAGE_LAND of one of the first four
pages left processes it; the last one completes the command with the pages walked, unless a row is NaN (0x85) or empty (0x84).
Where the manual is open it rests on the model's choice in log entries 23 and 84. -/
def Obligations.AttendWalksItsPages : Prop :=
  (∀ (s : State) (t : Tag), s.dev.runs t 0x30 = true → (s.dev.attRun t).on = false →
    let x := (s.dev.tagE t).desc
    let q := s.dev.seq (atSeq x)
    (q.st = .free ∨ q.gen.toNat ≠ atGen x → ∃ d, exec (.attend t) s = .next { s with dev := d } ∧ s.dev.Completed d t stSTALE 0 0) ∧
    (q.st ≠ .free → q.gen.toNat = atGen x → q.part ≠ x.part →
      ∃ d, exec (.attend t) s = .next { s with dev := d } ∧ s.dev.Completed d t stRIGHTS (locator 4 36 4) 0) ∧
    (∀ d1, q.st ≠ .free → q.gen.toNat = atGen x → q.part = x.part → s.dev.accessGrans (atMapGrans s.dev x q.kvObj) [] = (.ready, d1) →
      let es := (List.range (atE x)).zip (atEntries d1 x q.kvObj)
      let walk := atWalk d1 x q.kvObj es
      (∀ f, atReject d1 x q.kvObj es walk = some f → ∃ d, exec (.attend t) s = .next { s with dev := d } ∧
        (d.tagE t).Done f.1 f.2.1 f.2.2 s.dev.hif.devTime) ∧
      (atReject d1 x q.kvObj es walk = none → atDamaged x es = none → walk ≠ [] → ∃ d, exec (.attend t) s = .next { s with dev := d } ∧
        (d.attRun t).on = true ∧ (d.attRun t).walk = walk ∧ (d.attRun t).todo = walk ∧ (d.attRun t).recs = [] ∧
        (d.attRun t).rows = List.replicate (atHg x * atR x) ⟨negInf, 0, List.replicate (atD x) 0, false⟩ ∧
        d.cores.tag = s.dev.cores.tag ∧ d.cores.scratch = s.dev.cores.scratch ∧ d.tier.mem = s.dev.tier.mem))) ∧
  (∀ (s : State) (t : Tag) (page : BitVec 14) (d1 : Dev), s.dev.runs t 0x30 = true → (s.dev.attRun t).on = true →
    let x := (s.dev.tagE t).desc
    let run := s.dev.attRun t
    let b := page.toNat
    let w := (Tbl.get (0 : W64) run.pages b).toNat
    (run.todo.take 4).contains b = true →
    s.dev.accessGrans (atPageGrans x run b (peObj w, peGran w)).1 (atPageGrans x run b (peObj w, peGran w)).2 = (.ready, d1) →
    let e := atPage t x b (peObj w) (peGran w) (peFill w) d1
    let outs := (e.attRun t).rows.map (atOut x)
    let nans := (outs.filter fun o => rowNan o.1).length
    let empties := (outs.filter (·.2)).length
    (run.todo.erase b ≠ [] → ∃ d, exec (.pageLand t page) s = .next { s with dev := d } ∧ (d.attRun t).todo = run.todo.erase b ∧
      (d.attRun t).on = true ∧ d.cores.tag = s.dev.cores.tag) ∧
    (run.todo.erase b = [] → ∃ d, exec (.pageLand t page) s = .next { s with dev := d } ∧
      (nans ≠ 0 → (d.tagE t).Done 0x85 0 nans s.dev.hif.devTime) ∧
      (nans = 0 → empties ≠ 0 → (d.tagE t).Done 0x84 0 empties s.dev.hif.devTime) ∧
      (nans = 0 → empties = 0 → (d.tagE t).Done (s.dev.tagE t).okStatus 0 run.walk.length s.dev.hif.devTime)))

/-- OBJ_CREATE (R194, R195, R206, R208). A creation that a check or the lack of room turns away completes with that code and RESULT. Otherwise it
completes with the lowest free object number, which is then LIVE, OPEN with its staged bytes counted, or SEALED over its catalogue entry, of
the command's partition, PLACE and SIZE.
Where the manual is open it rests on the model's choice in log entry 85. -/
def Obligations.ObjCreateMakesObjects : Prop :=
  ∀ (s : State) (t : Tag), s.dev.runs t 0x40 = true →
    let x := (s.dev.tagE t).desc
    let n := ceilDiv (trSize x) granSize
    let place := tierOf (trTier x)
    (∀ f, createCheck s.dev x = some f → ∃ d, exec (.objCreate t) s = .next { s with dev := d } ∧ s.dev.Completed d t f.1 0 f.2) ∧
    (createCheck s.dev x = none → trAttach x = true →
      let o : ObjNo := BitVec.ofNat 16 (freeObj s.dev.tier.obj 1)
      ∃ d, exec (.objCreate t) s = .next { s with dev := d } ∧ (d.tagE t).Done (s.dev.tagE t).okStatus 0 o.toNat s.dev.hif.devTime ∧
        (d.obj o).st = .sealed ∧ (d.obj o).part = x.part ∧ (d.obj o).place = place ∧ (d.obj o).size = (s.dev.cat (trCat x)).size ∧
        (d.obj o).cat = BitVec.ofNat 12 (trCat x) ∧ (d.obj o).age = s.dev.hif.devTime ∧ d.tier.mem = s.dev.tier.mem ∧
        d.cellar = s.dev.cellar) ∧
    (∀ e, createCheck s.dev x = none → trAttach x = false → s.dev.room x.part place n = (true, e) →
      let o : ObjNo := BitVec.ofNat 16 (freeObj e.tier.obj 1)
      ∃ d, exec (.objCreate t) s = .next { s with dev := d } ∧ (d.tagE t).Done (s.dev.tagE t).okStatus 0 o.toNat s.dev.hif.devTime ∧
        (d.obj o).st = (if trKind x then .opened else .live) ∧ (d.obj o).part = x.part ∧ (d.obj o).place = place ∧ (d.obj o).size = trSize x ∧
        (d.obj o).readOnly = trKind x ∧ (d.obj o).gran = [] ∧ (d.obj o).age = s.dev.hif.devTime ∧ d.tier.mem = e.tier.mem) ∧
    (∀ e, createCheck s.dev x = none → trAttach x = false → s.dev.room x.part place n = (false, e) →
      ∃ d, exec (.objCreate t) s = .next { s with dev := d } ∧
        s.dev.Completed d t 0x80 0 (e.taken place + n + s.dev.heldBackFrames - s.dev.capacity place / granSize))

/-- Destruction (R195, R196). An OBJ_DESTROY whose object is DYING and that only this command still refers to completes, the object number is
FREE and its bytes are gone; OBJECT_FREE does the same, and frees a DYING object that nothing refers to; while another reference stands
neither does anything.
Where the manual is open it rests on the model's choice in log entry 82. -/
def Obligations.DestroyedObjectsBecomeFree : Prop :=
  (∀ (s : State) (t : Tag), s.dev.runs t 0x41 = true →
    let o := urObj ((s.dev.tagE t).desc.w 1)
    (s.dev.obj o).st = .dying → s.dev.destroyers o = [t] →
    ((s.dev.obj o).refs = 1 → ∃ d, exec (.objDestroy t) s = .next { s with dev := d } ∧ exec (.objectFree o) s = .next { s with dev := d } ∧
      (d.tagE t).Done (s.dev.tagE t).okStatus 0 0 s.dev.hif.devTime ∧ d.obj o = Obj.reset ∧
      (∀ off, off < 2 ^ 40 → Memory.read d.tier.mem (objKey o off) = 0) ∧
      (∀ a, (a < objKey o 0 ∨ objKey o 0 + 2 ^ 40 ≤ a) → Memory.read d.tier.mem a = Memory.read s.dev.tier.mem a)) ∧
    ((s.dev.obj o).refs ≠ 1 → exec (.objDestroy t) s = .next s ∧ exec (.objectFree o) s = .next s)) ∧
  (∀ (s : State) (o : ObjNo), (s.dev.obj o).st = .dying → s.dev.destroyers o = [] → (s.dev.obj o).refs = 0 →
    ∃ d, exec (.objectFree o) s = .next { s with dev := d } ∧ d.obj o = Obj.reset ∧ d.cores = s.dev.cores ∧ s.dev.OnlyIn [.tier] d)

/-- The range commands DECANT, LAY_DOWN, PIN and WINDOW_ADVANCE (R206, R208, R209). The command waits while one accepted earlier has a granule of
its ranges still to deal with; then the whole range is checked, and a check that
fails ends the command with its code and granule. A range that is dealt with at once completes the command with the granules acted on; one
with granules left or moves in flight keeps it running with the rest noted.
Where the manual is open it rests on the model's choice in log entry 85. -/
def Obligations.RangeCommandsRun : Prop :=
  ∀ (s : State) (t : Tag) (op : Nat) (c : Instr), ((op, c) = (0x42, .decant t) ∨ (op, c) = (0x43, .layDown t) ∨ (op, c) = (0x44, .pin t) ∨
      (op, c) = (0x46, .windowAdvance t)) →
    s.dev.runs t op = true → s.dev.tierRun t = none →
    (s.dev.rangeBlocked t = true → exec c s = .next s) ∧
    (s.dev.rangeBlocked t = false →
    let x := (s.dev.tagE t).desc
    (∀ f, rangeCheck s.dev x = some f → ∃ d, exec c s = .next { s with dev := d } ∧ s.dev.Completed d t f.1 0 f.2) ∧
    (rangeCheck s.dev x = none →
      let gs := (trGrans x).filter fun g => !trShared x g
      let n0 := (trGrans x).length - gs.length
      let e := if op = 0x46 then s.dev.unpinAll (urObj (x.w 5)) ((trRelGrans x).filter fun g => !trShared x g) true else s.dev
      (∀ n e', Dev.granSteps t gs n0 (e.setTierRun t ⟨gs, n0⟩) = some ([], n, e') → e'.movesOf t = false →
        ∃ d, exec c s = .next { s with dev := d } ∧ (d.tagE t).Done (s.dev.tagE t).okStatus 0 n s.dev.hif.devTime ∧ d.tier.mem = e'.tier.mem) ∧
      (∀ left n e', Dev.granSteps t gs n0 (e.setTierRun t ⟨gs, n0⟩) = some (left, n, e') → (left ≠ [] ∨ e'.movesOf t = true) →
        ∃ d, exec c s = .next { s with dev := d } ∧ d.tierRun t = some ⟨left, n⟩ ∧ d.cores = s.dev.cores) ∧
      (Dev.granSteps t gs n0 (e.setTierRun t ⟨gs, n0⟩) = none →
        ∃ d, exec c s = .next { s with dev := d } ∧ (d.tagE t).Done stUNCORR 0x000D 0 s.dev.hif.devTime)))

/-- UNPIN and OBJ_QUERY (R206, R208). UNPIN of a range whose granules are all pinned completes with their number, and a range of one granule
has one pin less; an unpinned one ends it 0x84 with its number. OBJ_QUERY whose DST is in T1 stores the 64-byte
report of its object at DST and nowhere else. -/
def Obligations.UnpinAndQuery : Prop :=
  (∀ (s : State) (t : Tag), s.dev.runs t 0x45 = true → s.dev.rangeBlocked t = false →
    let x := (s.dev.tagE t).desc
    let o := urObj (x.w 1)
    (∀ f, rangeCheck s.dev x = some f → ∃ d, exec (.unpin t) s = .next { s with dev := d } ∧ s.dev.Completed d t f.1 0 f.2) ∧
    (rangeCheck s.dev x = none → ∃ d, exec (.unpin t) s = .next { s with dev := d } ∧
      (d.tagE t).Done (s.dev.tagE t).okStatus 0 (trGrans x).length s.dev.hif.devTime ∧ d.tier.mem = s.dev.tier.mem ∧
      ∀ g, trGrans x = [g] → (d.gran o g).pins = (s.dev.gran o g).pins - 1 ∧ (d.gran o g).t1 = (s.dev.gran o g).t1 ∧
        (d.gran o g).t2 = (s.dev.gran o g).t2)) ∧
  (∀ (s : State) (t : Tag) (d1 : Dev), s.dev.runs t 0x48 = true →
    let x := (s.dev.tagE t).desc
    let dst := objKey (urObj (x.w 2)) (urOff (x.w 2))
    s.dev.access [] [(x.w 2, 64)] = (.ready, d1) → isSp (x.w 2) = false →
    (∀ g ∈ gransOf (urOff (x.w 2)) 64, (s.dev.gran (urObj (x.w 2)) g).t1.isSome = true ∧ (s.dev.gran (urObj (x.w 2)) g).damaged = false) →
      ∃ d, exec (.objQuery t) s = .next { s with dev := d } ∧ (d.tagE t).Done (s.dev.tagE t).okStatus 0 0 s.dev.hif.devTime ∧
        Memory.readN d.tier.mem dst 64 = objReport s.dev (urObj (x.w 1)) ∧ d.cores.scratch = s.dev.cores.scratch ∧
        ∀ a, (a < dst ∨ dst + 64 ≤ a) → Memory.read d.tier.mem a = Memory.read s.dev.tier.mem a)

/-- Sealing and the catalogue (R224, R225, R246). OBJ_SEAL is checked once; one that passes takes its blocks and stands among the changes until a
commit. CATALOGUE_COMMIT of a programmed seal writes its entry with the next sequence number, makes the object SEALED over it and completes
the command with the entry number; of a deletion it frees the entry and leaves its blocks to be erased.
Where the manual is open it rests on the model's choice in log entry 86. -/
def Obligations.SealAndCatalogueCommit : Prop :=
  (∀ (s : State) (t : Tag), s.dev.runs t 0x47 = true → s.dev.sealOf t = none →
    let o := urObj ((s.dev.tagE t).desc.w 1)
    let gs := (s.dev.obj o).granCount
    (∀ f, sealCheck s.dev o = some f → ∃ d, exec (.objSeal t) s = .next { s with dev := d } ∧ s.dev.Completed d t f.1 0 f.2) ∧
    (sealCheck s.dev o = none → s.dev.sealShort gs ≠ 0 → ∃ d, exec (.objSeal t) s = .next { s with dev := d } ∧
      (d.tagE t).Done 0x80 0 (s.dev.sealShort gs) s.dev.hif.devTime) ∧
    (sealCheck s.dev o = none → s.dev.sealShort gs = 0 → ∃ d pr, exec (.objSeal t) s = .next { s with dev := d } ∧
      CatChange.seal t o (BitVec.ofNat 12 (s.dev.freeEntry.getD 0)) pr (s.dev.sealEntry o (s.dev.placement gs)) ∈ d.cellar.changes ∧
      d.cellar.sealCtr = s.dev.cellar.sealCtr + 1 ∧ (d.obj o).t3 = s.dev.storedSize gs ∧ (d.obj o).st = (s.dev.obj o).st ∧
      d.cores = s.dev.cores ∧ d.tier.mem = s.dev.tier.mem ∧ d.cellar.cat = s.dev.cellar.cat)) ∧
  (∀ (s : State) (t : Tag) (o : ObjNo) (n : BitVec 12) (e : CatE),
    s.dev.cellar.changes.find? (·.ready) = some (CatChange.seal t o n true e) → (s.dev.tagE t).live = true →
    (s.dev.obj o).st ≠ .dying → ∃ d, exec .catalogueCommit s = .next { s with dev := d } ∧
      (d.tagE t).Done (s.dev.tagE t).okStatus 0 n.toNat s.dev.hif.devTime ∧
      d.cat n.toNat = { e with sealTime := s.dev.hif.devTime, seqNo := s.dev.cellar.catSeq + 1 } ∧
      d.cellar.catSeq = s.dev.cellar.catSeq + 1 ∧ (d.obj o).st = .sealed ∧ (d.obj o).cat = n ∧ (d.obj o).t3 = 0 ∧
      d.tier.mem = s.dev.tier.mem ∧
      (∀ a, dataBlk (a / blkBytes % 5472) = true → Memory.read d.cellar.mem a = Memory.read s.dev.cellar.mem a)) ∧
  (∀ (s : State) (n : BitVec 12), s.dev.cellar.changes.find? (·.ready) = some (CatChange.delete n) →
    ∃ d, exec .catalogueCommit s = .next { s with dev := d } ∧ d.cat n.toNat = CatE.reset ∧ d.cellar.catSeq = s.dev.cellar.catSeq + 1 ∧
      (∀ ch b, (s.dev.blk ch b).entry = n → (s.dev.blk ch b).committed = true →
        (d.blk ch b).st = .erasePending ∧ (d.blk ch b).entry = 0 ∧ (d.blk ch b).committed = false) ∧
      (∀ ch ∈ s.dev.catChans, (Tbl.get CatCopy.reset d.cellar.copies ch).seq = s.dev.cellar.catSeq + 1) ∧
      d.cores = s.dev.cores ∧ d.tier = s.dev.tier)

/-- Moves and on-demand fetch (R203, R204, R209, R217). A move that commits, with no range command waiting to go on, leaves the granule's frame at
the destination, its pinners' pins taken there and the move gone; it does nothing while an earlier granule of its command is on the move; a missed access starts a fetch of its granule and TIER_EVT bit 0 stands, or,
where no frame can be made free, the granule is read through and TIER_EVT bit 2 stands.
Where the manual is open it rests on the model's choice in log entry 85. -/
def Obligations.MovesCommitAndMissesFetch : Prop :=
  (∀ (s : State) (o : ObjNo) (g : GranNo) (m : Mv), s.dev.moveOf o g.toNat = some m → (s.dev.gran o g.toNat).damaged = false →
    s.dev.notFirst m = false → s.dev.tier.run = [] → s.dev.tier.fetchQ = [] → m.dst ≠ .t3 → (m.dropT1 = true → m.dst = .t2) →
    ∃ d, exec (.granuleMoveCommit o g) s = .next { s with dev := d } ∧
      (d.gran o g.toNat).at m.dst = some m.frame ∧ (d.gran o g.toNat).pins = (s.dev.gran o g.toNat).pins + m.pinners.length ∧
      d.tier.moves = s.dev.tier.moves.filter (· ≠ m) ∧ d.cores = s.dev.cores ∧
      (∀ u, u ≠ o → d.obj u = s.dev.obj u) ∧
      (m.working = true → ∀ src, m.src = some src → src ≠ m.dst → (d.gran o g.toNat).at src = none ∧ d.tier.mem = s.dev.tier.mem)) ∧
  (∀ (s : State) (o : ObjNo) (g : GranNo) (m : Mv), s.dev.moveOf o g.toNat = some m → s.dev.notFirst m = true →
    exec (.granuleMoveCommit o g) s = .next s) ∧
  (∀ (s : State) (o : ObjNo) (g : GranNo) (e : Dev), s.dev.tier.misses.contains (Miss.mk o g.toNat) = true → s.dev.tier.moves.length < 256 →
    (s.dev.obj o).eff = .sealed → (s.dev.gran o g.toNat).at (s.dev.obj o).place = none → s.dev.moving o g.toNat = false →
    (s.dev.gran o g.toNat).damaged = false → g.toNat < (s.dev.obj o).granCount →
    let s1 := { s.dev with tier := { s.dev.tier with misses := s.dev.tier.misses.filter (· ≠ Miss.mk o g.toNat) } }
    (s1.room (s.dev.obj o).part (s.dev.obj o).place 1 = (true, e) → ∃ d, exec (.onDemandFetch o g) s = .next { s with dev := d } ∧
      d.moving o g.toNat = true ∧ Miss.mk o g.toNat ∉ d.tier.misses ∧ (d.evtReg .tierEvt).getLsbD 0 = true ∧ d.cores = s.dev.cores) ∧
    (s1.room (s.dev.obj o).part (s.dev.obj o).place 1 = (false, e) → ∃ d, exec (.onDemandFetch o g) s = .next { s with dev := d } ∧
      Miss.mk o g.toNat ∈ d.tier.through ∧ Miss.mk o g.toNat ∉ d.tier.misses ∧ (d.evtReg .tierEvt).getLsbD 2 = true ∧ d.cores = s.dev.cores))

/-- The channel queues (R226, R236, R237). An operation put on an empty queue of an idle die starts when its check passes, and completes at
once with the check's result when it does not; on a busy die it waits at the end of the queue; a queue of 64 takes none. A DIE_RESET ends
what runs on the die and completes with 0. No user byte of the Cellar changes by queueing. A PROG_CW whose START record of another block must wait
for the INTERRUPTED ones (R233) is not taken.
Where the manual is open it rests on the model's choice in log entries 87 and 88. -/
def Obligations.ChannelQueuesTakeOperations : Prop :=
  (∀ (s : State) (ch : ChanNo) (f : FlcDesc) (o : DieOp) (c : Instr),
    ((o, c) = (⟨.readG, f, none, false, 0⟩, Instr.readG ch f) ∨ (o, c) = (⟨.progG, f, none, false, 0⟩, Instr.progG ch f) ∨
     (o, c) = (⟨.erase, f, none, false, 0⟩, Instr.eraseBlk ch f) ∨ (o, c) = (⟨.readCal, f, none, false, 0⟩, Instr.readCal ch f) ∨
     (o, c) = (⟨.readCw, f, none, false, 0⟩, Instr.readCw ch f) ∨ ∃ j, s.dev.startHeld ch.toNat j = false ∧ (o, c) = (⟨.progCw, f, j, false, 0⟩, Instr.progCw ch f j)) →
    (64 ≤ (s.dev.flcQueue ch.toNat).length → exec c s = .next s) ∧
    ((s.dev.flcQueue ch.toNat).length < 64 → (s.dev.die ch.toNat o.die).run.isSome = true →
      ∃ d, exec c s = .next { s with dev := d } ∧ d.flcQueue ch.toNat = s.dev.flcQueue ch.toNat ++ [o] ∧
        d.cellar.die = s.dev.cellar.die ∧ d.cellar.mem = s.dev.cellar.mem ∧ s.dev.OnlyIn [.cellar] d) ∧
    (s.dev.flcQueue ch.toNat = [] → s.dev.die ch.toNat o.die = DieSt.reset →
      (s.dev.flcCheck ch.toNat o = 0 → ∃ d, exec c s = .next { s with dev := d } ∧ d.flcQueue ch.toNat = [] ∧
        d.die ch.toNat o.die = ⟨some { o with since := s.dev.now }, none, 0⟩ ∧ d.cellar.mem = s.dev.cellar.mem ∧ s.dev.OnlyIn [.cellar] d) ∧
      (s.dev.flcCheck ch.toNat o ≠ 0 → ∃ d, exec c s = .next { s with dev := d } ∧ d.flcQueue ch.toNat = [] ∧
        Tbl.get [] d.cellar.done ch.toNat = Tbl.get [] s.dev.cellar.done ch.toNat ++
          [⟨f.qtag, BitVec.ofNat 8 (s.dev.flcCheck ch.toNat o), 0, 0, 0⟩] ∧ d.cellar.mem = s.dev.cellar.mem))) ∧
  (∀ (s : State) (ch : ChanNo) (f : FlcDesc) (j : Option JRec), s.dev.startHeld ch.toNat j = true → exec (.progCw ch f j) s = .next s) ∧
  (∀ (s : State) (ch : ChanNo) (f : FlcDesc), s.dev.flcQueue ch.toNat = [] →
    let o : DieOp := ⟨.dieReset, f, none, false, 0⟩
    s.dev.flcCheck ch.toNat o = 0 → (∀ p, (s.dev.die ch.toNat o.die).run = some p ∨ (s.dev.die ch.toNat o.die).susp = some p → p.reg = false) →
      ∃ d, exec (.dieReset ch f) s = .next { s with dev := d } ∧ d.die ch.toNat o.die = DieSt.reset ∧
        Tbl.get [] d.cellar.done ch.toNat = Tbl.get [] s.dev.cellar.done ch.toNat ++ [⟨f.qtag, 0, 0, 0, 0⟩])

/-- Operations finish (R223, R224, R227, R231, R233, R236). A finished READ_G puts the granule's bytes into its buffer; a finished PROG_G puts its
buffer's bytes at its code words and nowhere else and moves the write pointer past them; a verified erase of an ERASING block clears its
write pointer and marks it verified; one of a metadata block clears its write pointer, and the journal records it held are gone (R221); each completion is returned with the outcome's figures. ERASE_DONE makes the verified block FREE, or
ALLOCATED where a seal waits for it, with one more erase. A program or erase that has run its least time gives way to a queued read.
Where the manual is open it rests on the model's choice in log entries 10 and 87. -/
def Obligations.CellarOperationsFinish : Prop :=
  (∀ (s : State) (ch : ChanNo) (die : DieNo) (r : FlashOutcome) (o : DieOp), (s.dev.die ch.toNat die.toNat) = ⟨some o, none, 0⟩ →
    s.dev.flcQueue ch.toNat = [] → o.reg = false →
    let k := s.dev.blk ch.toNat o.blk
    (o.op = .readG → r.fail = false → k.st ≠ .interrupted → o.cw + 4 ≤ k.wp →
      ∃ d, exec (.cellarOpComplete ch die r) s = .next { s with dev := d } ∧ (d.die ch.toNat die.toNat).run = none ∧
        Memory.readN d.cellar.buf o.desc.buf.toNat 65536 = Memory.readN s.dev.cellar.mem (cwKey ch.toNat o.blk o.cw) 65536 ∧
        Tbl.get [] d.cellar.done ch.toNat = Tbl.get [] s.dev.cellar.done ch.toNat ++ [⟨o.desc.qtag, 0, r.cbits, r.rlvl, r.loops⟩] ∧
        d.cellar.mem = s.dev.cellar.mem ∧ d.cellar.blk = s.dev.cellar.blk) ∧
    (o.op = .progG → r.fail = false → o.jrec = none →
      ∃ d, exec (.cellarOpComplete ch die r) s = .next { s with dev := d } ∧ (d.die ch.toNat die.toNat).run = none ∧
        Memory.readN d.cellar.mem (cwKey ch.toNat o.blk o.cw) 65536 = Memory.readN s.dev.cellar.buf o.desc.buf.toNat 65536 ∧
        (∀ a, (a < cwKey ch.toNat o.blk o.cw ∨ cwKey ch.toNat o.blk o.cw + 65536 ≤ a) →
          Memory.read d.cellar.mem a = Memory.read s.dev.cellar.mem a) ∧
        d.blk ch.toNat o.blk = { k with wp := o.cw + 4 } ∧
        Tbl.get [] d.cellar.done ch.toNat = Tbl.get [] s.dev.cellar.done ch.toNat ++ [⟨o.desc.qtag, 0, r.cbits, r.rlvl, r.loops⟩]) ∧
    (o.op = .erase → r.fail = false → dataBlk o.blk = false → o.blk < 11 →
      ∃ d, exec (.cellarOpComplete ch die r) s = .next { s with dev := d } ∧ (d.die ch.toNat die.toNat).run = none ∧
        (d.blk ch.toNat o.blk).wp = 0 ∧ (∀ j ∈ d.journal ch.toNat, j.blk ≠ o.blk) ∧
        (∀ a, dataBlk (a / blkBytes % 5472) = true → Memory.read d.cellar.mem a = Memory.read s.dev.cellar.mem a)) ∧
    (o.op = .erase → r.fail = false → k.st = .erasing → dataBlk o.blk = true →
      ∃ d, exec (.cellarOpComplete ch die r) s = .next { s with dev := d } ∧ (d.die ch.toNat die.toNat).run = none ∧
        d.blk ch.toNat o.blk = { k with wp := 0, fails := 0, verified := true } ∧
        (∀ a, (a < cwKey ch.toNat o.blk 0 ∨ cwKey ch.toNat o.blk 0 + blkBytes ≤ a) →
          Memory.read d.cellar.mem a = Memory.read s.dev.cellar.mem a))) ∧
  (∀ (s : State) (ch : ChanNo) (b : BlockNo), (s.dev.blk ch.toNat b.toNat).st = .erasing → (s.dev.blk ch.toNat b.toNat).verified = true →
    let k := s.dev.blk ch.toNat b.toNat
    ∃ d, exec (.eraseDone ch b) s = .next { s with dev := d } ∧
      d.blk ch.toNat b.toNat = ⟨if k.entry = 0 then .free else .allocated, k.erases + 1, 0, k.entry, false, 0, false⟩ ∧
      (∀ a, dataBlk (a / blkBytes % 5472) = true → Memory.read d.cellar.mem a = Memory.read s.dev.cellar.mem a) ∧ s.dev.OnlyIn [.cellar, .cnt] d) ∧
  (∀ (s : State) (ch : ChanNo) (die : DieNo) (o p : DieOp), s.dev.die ch.toNat die.toNat = ⟨some o, none, 0⟩ →
    (o.op = .progG ∨ o.op = .erase) → dataBlk o.blk = true → bitN o.desc.flags.toNat 1 = false →
    o.since + (if o.op = .progG then 200000 else 1000000) ≤ s.dev.now →
    pickOp (s.dev.flcQueue ch.toNat) die.toNat true = some p → s.dev.flcCheck ch.toNat p = 0 →
      ∃ d, exec (.suspend ch die) s = .next { s with dev := d } ∧
        d.die ch.toNat die.toNat = ⟨some { p with since := s.dev.now }, some o, 0⟩ ∧ d.flcQueue ch.toNat = (s.dev.flcQueue ch.toNat).erase p ∧
        d.cellar.mem = s.dev.cellar.mem ∧ s.dev.OnlyIn [.cellar, .cnt] d)

/-- Lost granules, relocation and retirement (R212, R229 to R231, R235, R246). A lost granule with a copy goes to a FREE block of another channel;
without one it leaves its entry, which is degraded, and is damaged in every object over it. A block relocated leaves its bytes at its new
place and awaits erasure, and in an evacuation the move is a catalogue commit. A block that failed is RETIRED. A deletion and a planned retirement are noted; a channel retired is out of
FLC_CHMAP and its queue is empty.
Where the manual is open it rests on the model's choice in log entries 49 and 86. -/
def Obligations.CellarLosesAndRetires : Prop :=
  (∀ (s : State) (n : BitVec 12) (g : GranNo), (s.dev.cat n.toNat).used = true →
    Tbl.get Place.none (s.dev.cat n.toNat).places g.toNat ≠ Place.none →
    let p := Tbl.get Place.none (s.dev.cat n.toNat).places g.toNat
    (∀ o c b, (s.dev.objsOver n.toNat).find? (fun o => (s.dev.gran o g.toNat).t1.isSome || (s.dev.gran o g.toNat).t2.isSome) = some o →
      s.dev.otherFree p.ch = some (c, b) → ∃ d, exec (.granuleLost n g) s = .next { s with dev := d } ∧
        Tbl.get Place.none (d.cat n.toNat).places g.toNat = ⟨c, b, 0⟩ ∧ (d.cat n.toNat).degraded = (s.dev.cat n.toNat).degraded ∧
        (d.blk c b).st = .allocated ∧ (d.blk c b).entry = n ∧ (d.blk c b).committed = true ∧ d.tier = s.dev.tier ∧
        (d.evtReg .flcEvt).getLsbD 4 = true) ∧
    ((s.dev.objsOver n.toNat).find? (fun o => (s.dev.gran o g.toNat).t1.isSome || (s.dev.gran o g.toNat).t2.isSome) = none →
      ∃ d, exec (.granuleLost n g) s = .next { s with dev := d } ∧ Tbl.get Place.none (d.cat n.toNat).places g.toNat = Place.none ∧
        (d.cat n.toNat).degraded = true ∧ (∀ o ∈ s.dev.objsOver n.toNat, (d.gran o g.toNat).damaged = true) ∧
        (d.evtReg .flcEvt).getLsbD 4 = true ∧ d.cores = s.dev.cores)) ∧
  (∀ (s : State) (ch : ChanNo) (b : BlockNo) (c a : Nat), (s.dev.blk ch.toNat b.toNat).st = .allocated →
    (s.dev.blk ch.toNat b.toNat).committed = true → dataBlk b.toNat = true →
    (Tbl.get false s.dev.cellar.worn (ch.toNat * 5472 + b.toNat) = true ∨ s.dev.cellar.retiring.toNat = ch.toNat) →
    let k := s.dev.blk ch.toNat b.toNat
    (s.dev.relocTo ch.toNat = none → ∃ d, exec (.blockRelocate ch b) s = .next { s with dev := d } ∧ d.cellar = s.dev.cellar ∧
      (Tbl.get false s.dev.cellar.worn (ch.toNat * 5472 + b.toNat) = true → (d.evtReg .flcEvt).getLsbD 1 = true)) ∧
    (s.dev.relocTo ch.toNat = some (c, a) → ∃ d, exec (.blockRelocate ch b) s = .next { s with dev := d } ∧
      (d.blk ch.toNat b.toNat).st = .erasePending ∧ (d.blk ch.toNat b.toNat).entry = 0 ∧
      (k.wp ≤ 3072 → Memory.readN d.cellar.mem (cwKey c a 0) k.bytes = Memory.readN s.dev.cellar.mem (cwKey ch.toNat b.toNat 0) k.bytes) ∧
      (s.dev.cellar.retiring.toNat = ch.toNat → d.cellar.catSeq = s.dev.cellar.catSeq + 1) ∧
      ((s.dev.cat k.entry.toNat).used = true →
        (d.cat k.entry.toNat).places = movePlaces ch.toNat b.toNat c a (s.dev.cat k.entry.toNat).places) ∧
      d.tier = s.dev.tier ∧ d.cores = s.dev.cores)) ∧
  (∀ (s : State) (ch : ChanNo) (b : BlockNo), (s.dev.blk ch.toNat b.toNat).mayFail = true → (s.dev.blk ch.toNat b.toNat).st ≠ .retired →
    dataBlk b.toNat = true → ∃ u, exec (.blockRetire ch b) s = .next u ∧ (u.dev.blk ch.toNat b.toNat).st = .retired ∧
      (u.dev.evtReg .flcEvt).getLsbD 2 = true ∧ (u.dev.evtReg .tierEvt).getLsbD 4 = true ∧
      u.dev.pwr.retiredUnits = s.dev.pwr.retiredUnits + 1 ∧ u.host = s.host ∧
      (s.dev.sealsAt ch.toNat b.toNat = [] → u.dev.cores = s.dev.cores)) ∧
  (∀ (s : State) (n : W32), s.dev.mayDelete n.toNat = true → ∃ d, exec (.catalogueDelete n) s = .next { s with dev := d } ∧
    d.cellar.changes = s.dev.cellar.changes ++ [.delete (BitVec.ofNat 12 n.toNat)] ∧ s.dev.OnlyIn [.cellar] d) ∧
  (∀ (s : State) (ch : BitVec 8), s.dev.mayRetire ch.toNat = true → ∃ d, exec (.plannedRetirement ch) s = .next { s with dev := d } ∧
    d.cellar.retiring = ch ∧ d.cellar.chmap = s.dev.cellar.chmap ∧ s.dev.OnlyIn [.cellar] d) ∧
  (∀ (s : State) (ch : ChanNo), s.dev.cellar.chmap.getLsbD ch.toNat = true →
    (s.dev.cellar.retiring.toNat = ch.toNat → s.dev.allocBlks ch.toNat = 0) →
    ∃ u, exec (.channelRetire ch) s = .next u ∧ u.dev.cellar.chmap.getLsbD ch.toNat = false ∧ u.host = s.host ∧
      u.dev.flcQueue ch.toNat = [] ∧ (u.dev.evtReg .flcEvt).getLsbD 3 = true ∧ (u.dev.evtReg .tierEvt).getLsbD 4 = true)

/-- The Cellar's register interface (R238 to R242): the lock opens by two pairs of keys and falls by a wrong key or 100 ms without a write;
READ_ID, READ_CAL and READ_CW join the die's queue and, finished, give what R240 says; READ_BLK, CLAIM, RELEASE, ERASE and PROGRAM at their level do what R240 says of them, and each is refused with
RESULT 1 below its level and ignored with FLC_EVT bit 6 while a command is busy.
Where the manual is open it rests on the model's choice in log entries 10 and 30. -/
def Obligations.FlashRegisterCommands : Prop :=
  (∀ (s : State) (k : Nat × Bool) (key : BitVec 16) (v : Nat × Bool), (k, key, v) ∈ [((0, false), 0xA55A, (0, true)),
      ((0, true), 0x5AA5, (1, false)), ((1, false), 0xC3E1, (1, true)), ((1, true), 0x1E3C, (2, false))] →
    (s.dev.cellar.lock, s.dev.cellar.half) = k → s.dev.confActive = false →
    ∃ d, exec (.flcUnlock key) s = .next { s with dev := d } ∧ (d.cellar.lock, d.cellar.half) = v ∧ d.cellar.result = s.dev.cellar.result ∧
      d.cellar.lastWrite = s.dev.hif.devTime ∧ d.cellar.blk = s.dev.cellar.blk ∧ d.cellar.mem = s.dev.cellar.mem ∧ s.dev.OnlyIn [.cellar] d) ∧
  (∀ (s : State) (key : BitVec 16), key ∉ [0xA55A, 0x5AA5, 0xC3E1, 0x1E3C] → ∃ d, exec (.flcUnlock key) s = .next { s with dev := d } ∧
    d.cellar.lock = 0 ∧ d.cellar.result = 2 ∧ d.cellar.lastWrite = s.dev.hif.devTime ∧ s.dev.OnlyIn [.cellar] d) ∧
  (∀ (s : State), s.dev.cellar.lastWrite.toNat + 100000000 ≤ s.dev.now → ∃ d, exec .flcLockTimeout s = .next { s with dev := d } ∧
    d.cellar.lock = 0 ∧ d.cellar.half = false ∧ s.dev.OnlyIn [.cellar] d) ∧
  (∀ (s : State) (c : Instr) (level : Nat), ((c, level) ∈ [(Instr.flcReadId, 1), (.flcReadCal, 1), (.flcReadCw, 1), (.flcReadBlk, 1), (.flcClaim, 2),
      (.flcRelease, 2), (.flcErase, 2), (.flcProgram, 2)]) →
    (s.dev.cellar.busy = true → ∃ d, exec c s = .next { s with dev := d } ∧ (d.evtReg .flcEvt).getLsbD 6 = true ∧
      d.cellar.result = s.dev.cellar.result ∧ d.cellar.blk = s.dev.cellar.blk ∧ d.cellar.data = s.dev.cellar.data) ∧
    (s.dev.cellar.busy = false → s.dev.cellar.lock < level → ∃ d, exec c s = .next { s with dev := d } ∧ d.cellar.result = 1 ∧
      d.cellar.blk = s.dev.cellar.blk ∧ d.cellar.mem = s.dev.cellar.mem ∧ s.dev.OnlyIn [.cellar] d)) ∧
  (∀ (s : State), s.dev.FlcReady 1 →
    let k := s.dev.blk s.dev.faCh s.dev.faBlk
    (∀ c op, (c, op) ∈ [(Instr.flcReadId, FlcOp.readId), (.flcReadCal, .readCal), (.flcReadCw, .readCw)] → (op = .readCw → k.st ≠ .retired) →
      ((s.dev.die s.dev.faCh (s.dev.faBlk % 8)).run.isSome = true → ∃ d, exec c s = .next { s with dev := d } ∧
        d.cellar.busy = true ∧ (d.flcQueue s.dev.faCh).length = (s.dev.flcQueue s.dev.faCh).length + 1 ∧ s.dev.OnlyIn [.cellar] d) ∧
      (s.dev.die s.dev.faCh (s.dev.faBlk % 8) = DieSt.reset → s.dev.flcQueue s.dev.faCh = [] → ∃ d, exec c s = .next { s with dev := d } ∧
        d.cellar.busy = true ∧ ((d.die s.dev.faCh (s.dev.faBlk % 8)).run.map fun o => (o.op, o.blk, o.reg)) = some (op, s.dev.faBlk, true) ∧
        s.dev.OnlyIn [.cellar] d)) ∧
    (∃ d, exec .flcReadBlk s = .next { s with dev := d } ∧
      Memory.readN d.cellar.data 0 64 = (List.range 64).map (Config.blkRecord k.st.num k.erases k.wp k.entry.toNat) ∧
      d.cellar.result = 0 ∧ s.dev.OnlyIn [.cellar] d)) ∧
  (∀ (s : State) (ch : ChanNo) (die : DieNo) (r : FlashOutcome) (o : DieOp), s.dev.die ch.toNat die.toNat = ⟨some o, none, 0⟩ →
    s.dev.flcQueue ch.toNat = [] → o.reg = true →
    (o.op = .readId → ∃ d, exec (.cellarOpComplete ch die r) s = .next { s with dev := d } ∧ d.cellar.busy = false ∧ d.cellar.result = 0 ∧
      Memory.readN d.cellar.data 0 64 = (List.range 64).map (Config.dieIdentity (ch.toNat * 8 + o.die))) ∧
    (o.op = .readCal → ∃ d, exec (.cellarOpComplete ch die r) s = .next { s with dev := d } ∧ d.cellar.busy = false ∧ d.cellar.result = 0 ∧
      Memory.readN d.cellar.data 0 4096 = (List.range 4096).map (Config.calibration (ch.toNat * 8 + o.die)))) ∧
  (∀ (s : State), s.dev.FlcReady 2 → s.dev.cellar.lock = 2 →
    let k := s.dev.blk s.dev.faCh s.dev.faBlk
    (k.st = .free → dataBlk s.dev.faBlk = true → s.dev.claimRefused = false → ∃ d, exec .flcClaim s = .next { s with dev := d } ∧
      d.blk s.dev.faCh s.dev.faBlk = { k with st := .test } ∧ d.cellar.result = 0 ∧ d.cellar.lock = 1 ∧ s.dev.OnlyIn [.cellar] d) ∧
    (k.st = .test → ∃ d, exec .flcRelease s = .next { s with dev := d } ∧ d.blk s.dev.faCh s.dev.faBlk = { k with st := .erasePending } ∧
      d.cellar.result = 0 ∧ d.cellar.lock = 1 ∧ s.dev.OnlyIn [.cellar] d) ∧
    (k.st = .test → (s.dev.die s.dev.faCh (s.dev.faBlk % 8)).run.isSome = true →
      (∃ d, exec .flcErase s = .next { s with dev := d } ∧ d.cellar.busy = true ∧ d.cellar.lock = 1 ∧
        ((d.journalLast s.dev.faCh s.dev.faBlk).map fun r => r.start) = some true ∧ s.dev.OnlyIn [.cellar, .cnt, .tot] d) ∧
      (∃ d, exec .flcProgram s = .next { s with dev := d } ∧ d.cellar.busy = true ∧ d.cellar.lock = 1 ∧
        (d.flcQueue s.dev.faCh).length = (s.dev.flcQueue s.dev.faCh).length + 1 ∧ s.dev.OnlyIn [.cellar] d)))

/-- Records that the common checks turn away (R285, R287, R387, R483). A record of an unknown TYPE, one of a held scope, one of another partition
and one with a stray bit are taken from their queue and answered, in that order, by one REPLY, which names the sequence of an END_SEQ or a PARK
(by one rejected ADMIT for a RESUME and a SUBMIT), and change nothing else of the serving engine.
Where the manual is open it rests on the model's choice in log entries 18, 50 and 51. -/
def Obligations.RecordsTurnedAway : Prop :=
  (∀ (s : State) (q : QueueNo) (w : List Nat) (ty : Nat) (c : Instr), ((ty, c) ∈ [(0x02, Instr.endSeq q), (0x03, .park q), (0x08, .planLoad q),
      (0x09, .planRetire q), (0x0A, .adapterLoad q), (0x0B, .adapterDrop q)]) → s.recordAt q ty = some w → s.RingOpen q →
    ∀ (st : Byte) (de : BitVec 16), ((rKnown (rType w) = false ∧ (st, de) = (stNOTSUP, 0)) ∨
        (rKnown (rType w) = true ∧ s.dev.recHeld (rPart w) = true ∧ (st, de) = (stABORTED, 0x0009)) ∨
        (rKnown (rType w) = true ∧ s.dev.recHeld (rPart w) = false ∧ rPart w ≠ (s.dev.queue q).part ∧ (st, de) = (stRIGHTS, 1)) ∨
        (rKnown (rType w) = true ∧ s.dev.recHeld (rPart w) = false ∧ rPart w = (s.dev.queue q).part ∧
          ∃ b, rStray w = some b ∧ (st, de) = (stNOTSUP, BitVec.ofNat 16 b))) →
      ∃ u, exec c s = .next u ∧ s.Taken u q ∧ s.EventAt u q { srvEv evREPLY st (rPart w) (rReq w) s.dev.now with final := true, seq := rSeqOf w, detail := de } ∧
        u.nv = s.nv ∧ u.pending = s.pending ∧ s.dev.OnlyIn [.hif] u.dev) ∧
  (∀ (s : State) (q : QueueNo) (w : List Nat), s.recordAt q 0x04 = some w → rType w = 0x04 → s.RingOpen q → rPart w ≠ (s.dev.queue q).part →
    s.dev.recHeld (rPart w) = false → ∃ u, exec (.resume q) s = .next u ∧ s.Taken u q ∧
      s.EventAt u q { srvEv evADMIT stRIGHTS (rPart w) (rReq w) (Config.freeWord s.dev.draws).toNat with final := true, detail := 1 } ∧
      u.dev.srv = s.dev.srv ∧ u.dev.cores = s.dev.cores) ∧
  (∀ (s : State) (q : QueueNo) (w : List Nat) (r : Rej), s.recordAt q 0x01 = some w → rType w = 0x01 → s.RingOpen q →
    let x := subOf q (s.dev.queue q).func.toNat w
    s.dev.recHeld x.part = false → subChecks1 s.dev x (s.dev.queue q).part w = some r → r.1 ≠ stDONE →
      ∃ u, exec (.submit q) s = .next u ∧ s.Taken u q ∧
        s.EventAt u q { srvEv evADMIT r.1 x.part x.req (Config.freeWord s.dev.draws).toNat with final := true, detail := r.2 } ∧
        u.dev.srv = s.dev.srv ∧ u.dev.cores = s.dev.cores)

/-- SUBMIT and the mailbox's PROMPT (R286, R288, R291, R316, R384 to R386). A request that passes every check and fits is admitted: its entry is
in PREFILL with its request's identity, length and plan. A request that does not fit, and a prompt while the mailbox drains, is turned away
with ADMISSION; while a recompute of its plan or partition is to come, it is held undecided. MBOX_CANCEL leaves no live mailbox sequence of its REQ_ID that is not ending; a word of another TYPE discards the IN ring.
Where the manual is open it rests on the model's choice in log entries 51, 53 and 93. -/
def Obligations.RequestsAreAdmitted : Prop :=
  (∀ (s : State) (q : QueueNo) (w : List Nat), s.recordAt q 0x01 = some w → rType w = 0x01 →
    let x := subOf q (s.dev.queue q).func.toNat w
    let d0 := s.dev.sqPass q
    let n := d0.subPlan x.plan
    let v := d0.subVine x (d0.plan n) (d0.promptToks x)
    s.dev.recHeld x.part = false → subChecks1 d0 x (s.dev.queue q).part w = none → x.promptLen ≠ 0 → x.maxNew ≠ 0 →
    subChecks2 d0 x (d0.plan n) = none →
    (d0.admitWaits n x.part = true → ∃ d, exec (.submit q) s = .next { s with dev := d } ∧ d.srv.seq = s.dev.srv.seq ∧
      d.srv.heldReq = s.dev.srv.heldReq ++ [.sub { x with plan := n, toks := some (d0.promptToks x), kept := true }] ∧
      (d.queue q).sqHead = ((s.dev.queue q).sqHead + 1) % (s.dev.queue q).sqSize) ∧
    (d0.admitWaits n x.part = false → (∀ m due d, v.2.admitSeq x n (d0.promptToks x) v.1 = .inr (m, due, d) → ∃ u, exec (.submit q) s = .next u ∧ s.Taken u q ∧
      (u.dev.seq m).st = .prefill ∧ (u.dev.seq m).reqId = x.req ∧ (u.dev.seq m).part = x.part ∧ (u.dev.seq m).plan = n ∧
      (u.dev.seq m).promptLen = x.promptLen ∧ (u.dev.seq m).maxNew = x.maxNew ∧ (u.dev.seq m).firstDue = due ∧
      (u.dev.seq m).out = [] ∧ (u.dev.seq m).gen = (v.2.seq m).gen + 1 ∧ u.dev.srv = d.srv ∧ u.dev.cores = d.cores) ∧
    (∀ r, v.2.admitSeq x n (d0.promptToks x) v.1 = .inl r → s.RingOpen q → ∃ u, exec (.submit q) s = .next u ∧ s.Taken u q ∧
      s.EventAt u q { srvEv evADMIT stADMISSION x.part x.req (Config.freeWord s.dev.draws).toNat with
        final := true, detail := BitVec.ofNat 16 r } ∧ u.dev.srv = v.2.srv))) ∧
  (∀ (s : State), s.dev.mboxTakes = true → s.dev.hif.inType = 1 → s.dev.hif.inLen = 3 + s.dev.hif.inCount → 0 < s.dev.hif.inCount →
    s.dev.hif.inCount ≤ 262141 →
    let x := s.dev.promptSub
    (s.dev.hif.drain = true → s.dev.recHeld 0 = false → s.dev.hif.outFull = false → s.dev.inBacklog none = false →
      ∃ u, exec .prompt s = .next u ∧ u.dev.hif.inHead = (s.dev.hif.inHead + (3 + s.dev.hif.inCount)) % inWords ∧
        s.OutAt u (outBytes x.req 0 0 4 stADMISSION false true) ∧ u.dev.srv = s.dev.srv) ∧
    (s.dev.hif.drain = false → s.dev.recHeld 0 = false → (s.dev.plan 0).mbox = true → s.dev.defaultCat ≠ 0 → x.maxNew ≠ 0 →
      let d0 := s.dev.inPass (3 + s.dev.hif.inCount)
      let n := d0.subPlan x.plan
      let v := d0.subVine x (d0.plan n) (d0.promptToks x)
      subChecks2 d0 x (d0.plan n) = none → d0.admitWaits n x.part = false → ∀ m due d, v.2.admitSeq x n (d0.promptToks x) v.1 = .inr (m, due, d) →
        ∃ u, exec .prompt s = .next u ∧ u.dev.hif.inHead = (s.dev.hif.inHead + (3 + s.dev.hif.inCount)) % inWords ∧
          (u.dev.seq m).st = .prefill ∧ (u.dev.seq m).mbox = true ∧ (u.dev.seq m).reqId = x.req ∧ (u.dev.seq m).plan = n ∧
          (u.dev.seq m).promptLen = s.dev.hif.inCount ∧ u.host = s.host)) ∧
  (∀ (s : State), s.dev.mboxTakes = true → s.dev.hif.inType = 2 → 3 ≤ s.dev.hif.inLen → ∃ u, exec .mboxCancel s = .next u ∧
    u.dev.hif.inHead = (s.dev.hif.inHead + 3) % inWords ∧
    ∀ n, (s.dev.seq n).mbox = true → (s.dev.seq n).reqId = BitVec.ofNat 32 (s.dev.hif.inAt 1) → (s.dev.seq n).alive = true →
      (u.dev.seq n).st = .ending ∨ (u.dev.seq n).st = .free) ∧
  (∀ (s : State), s.dev.mboxTakes = true → s.dev.hif.inLen ≠ 0 → s.dev.hif.inType ≠ 1 → s.dev.hif.inType ≠ 2 →
    ∃ u, exec .mboxBadType s = .next u ∧ u.dev.hif.inHead = s.dev.hif.inTail ∧ (u.dev.evtReg (.hifEvt 0)).getLsbD 6 = true ∧
      (s.dev.hif.outFull = false → s.dev.inBacklog none = false → s.OutAt u (outBytes 0xFFFFFFFF 0 0 4 stNOTSUP false true)) ∧
      u.dev.srv = s.dev.srv)

/-- END_SEQ, PARK, RESUME, DECANT_DONE and the retention of a Safe Hold (R293, R303, R304, R306). An END_SEQ frees a sequence that no step holds and
decides the end of one that a step holds; PARK and RESUME move a sequence between DECODE and PARKED, the return at DECANT_DONE once its pages
are in T1; an entry kept in SAFE_HOLD longer than the retention time is freed.
Where the manual is open it rests on the model's choice in log entries 90 and 92. -/
def Obligations.SequencesParkAndEnd : Prop :=
  (∀ (s : State) (q : QueueNo) (w : List Nat), s.recordAt q 0x02 = some w → rType w = 0x02 → s.dev.recHeld (rPart w) = false →
    rPart w = (s.dev.queue q).part → rStray w = none → s.dev.seqNamed w = none →
    let n := rSeq w
    let e := s.dev.seq n
    (e.st = .ending → s.RingOpen q → ∃ u, exec (.endSeq q) s = .next u ∧ s.Taken u q ∧ u.dev.srv = s.dev.srv ∧
      s.EventAt u q { srvEv evREPLY svSTATE (rPart w) (rReq w) s.dev.now with final := true, seq := some n }) ∧
    (e.st ≠ .ending → e.st ≠ .safeHold → (s.dev.inStep n || s.dev.inRerun n) = true → ∃ u, exec (.endSeq q) s = .next u ∧ s.Taken u q ∧
      (u.dev.seq n).st = .ending ∧ (u.dev.seq n).endCode = stABORTED ∧ (u.dev.seq n).endDetail = 0x0008 ∧ (u.dev.seq n).out = e.out) ∧
    (e.st ≠ .ending → (e.st = .safeHold ∨ (s.dev.inStep n || s.dev.inRerun n) = false) → ∃ u, exec (.endSeq q) s = .next u ∧ s.Taken u q ∧
      (u.dev.seq n).st = .free ∧ (u.dev.seq n).gen = e.gen ∧ (u.dev.seq n).edit = e.edit + 1)) ∧
  (∀ (s : State) (q : QueueNo) (w : List Nat), s.recordAt q 0x03 = some w → rType w = 0x03 → s.dev.recHeld (rPart w) = false →
    rPart w = (s.dev.queue q).part → rStray w = none → s.dev.seqNamed w = none →
    let n := rSeq w
    let e := s.dev.seq n
    (e.st = .decode → e.parkReq = none → (s.dev.inStep n || s.dev.inRerun n) = true → ∃ d, exec (.park q) s = .next { s with dev := d } ∧
      d.seq n = { e with parkReq := some (q, rReq w) } ∧ (d.queue q).sqHead = ((s.dev.queue q).sqHead + 1) % (s.dev.queue q).sqSize) ∧
    (e.st = .decode → e.parkReq = none → (s.dev.inStep n || s.dev.inRerun n) = false →
      s.dev.neBytes e.part .t2 + granSize * ((s.dev.heldPages e).filter (s.dev.pageMoves .t2)).length ≤ s.dev.floor .t2 e.part.toNat →
      ∃ u, exec (.park q) s = .next u ∧ s.Taken u q ∧ u.dev.seq n = { e with st := .parked, cost := 0, costPf := 0, parkReq := none } ∧
        u.dev.tier.mem = s.dev.tier.mem ∧ u.dev.cores = s.dev.cores)) ∧
  (∀ (s : State) (q : QueueNo) (w : List Nat), s.recordAt q 0x04 = some w → rType w = 0x04 → s.dev.recHeld (rPart w) = false →
    rPart w = (s.dev.queue q).part → rStray w = none → s.dev.seqNamed w = none →
    let n := rSeq w
    let e := s.dev.seq n
    e.st = .parked → e.resuming = false → qf w 4 31 0 ≠ 0xFFFFFFFF → s.dev.admitWaits e.plan e.part = false →
    (s.dev.sqPass q).resumeNo e ((s.dev.sqPass q).heldPages e).length (w.getD 3 0) (qf w 4 31 0) = none →
      ∃ u, exec (.resume q) s = .next u ∧ s.Taken u q ∧ (u.dev.seq n).st = .parked ∧ (u.dev.seq n).resuming = true ∧
        (u.dev.seq n).parkReq = some (q, rReq w) ∧ (u.dev.seq n).firstDl = w.getD 3 0 ∧ (u.dev.seq n).cost = (s.dev.plan e.plan).cost e.pages ∧
        u.host = s.host ∧ u.dev.tier.mem = s.dev.tier.mem) ∧
  (∀ (s : State) (n : SeqNo) (o : QueueNo × W32),
    let e := s.dev.seq n
    e.st = .parked → e.resuming = true → e.parkReq = some o →
    (∀ x ∈ s.dev.heldPages e, (s.dev.gran (peObj x.2.2) (peGran x.2.2)).damaged = false ∧
      (s.dev.obj (peObj x.2.2)).home (s.dev.gran (peObj x.2.2) (peGran x.2.2)) = .t1 ∧ s.dev.moving (peObj x.2.2) (peGran x.2.2) = false) →
    let p := s.dev.plan e.plan
    let k0 := p.firstK (s.dev.now + s.dev.admitLead)
    (e.firstDl = 0 ∨ p.dueAt k0 ≤ e.firstDl → ∃ u, exec (.decantDone n) s = .next u ∧
      u.dev.seq n = { e with st := .decode, resuming := false, parkReq := none, k0 := k0, firstDue := p.dueAt k0 }) ∧
    (e.firstDl ≠ 0 → e.firstDl < p.dueAt k0 → ∃ u, exec (.decantDone n) s = .next u ∧
      u.dev.seq n = { e with resuming := false, parkReq := none, cost := 0 })) ∧
  (∀ (s : State) (n : SeqNo), (s.dev.seq n).st = .safeHold → (s.dev.seq n).heldAt + s.dev.holdRetainMs * 1000000 ≤ s.dev.now →
    ∃ u, exec (.holdRetainExpiry n) s = .next u ∧ (u.dev.seq n).st = .free ∧ (u.dev.seq n).gen = (s.dev.seq n).gen ∧
      (u.dev.seq n).edit = (s.dev.seq n).edit + 1)

/-- Plans and adapters (R281 to R284, R313 to R315). A PLAN_LOAD that passes makes its plan ACTIVE over its objects with a schedule that starts at
the next microsecond; a PLAN_RETIRE leaves a plan with sequences DRAINING and frees one without; ADAPTER_LOAD makes its version the current
one and ADAPTER_DROP leaves its ID without one.
Where the manual is open it rests on the model's choice in log entry 94. -/
def Obligations.PlansAndAdapters : Prop :=
  (∀ (s : State) (q : QueueNo) (w : List Nat) (h : List Byte) (ts : List Tmpl), s.recordAt q 0x08 = some w → rType w = 0x08 →
    s.dev.recHeld (rPart w) = false → rPart w = (s.dev.queue q).part → rStray w = none → loadCheck s.dev w = none →
    s.dev.readPlan (urObj (w.getD 1 0)) = some (h, ts) → (planFeatures h ts (bitN (w.getD 3 0) 8)).all s.dev.feature = true →
      ∃ u, exec (.planLoad q) s = .next u ∧ s.Taken u q ∧
        (let p := u.dev.plan (rPlan w)
         p.st = .active ∧ p.part = rPart w ∧ p.obj = urObj (w.getD 1 0) ∧ p.pool = urObj (w.getD 2 0) ∧ p.hdr = h ∧ p.tmpl = ts ∧
         p.running = false ∧ p.owner = some (q, rReq w) ∧ p.anchor = ceilDiv s.dev.now 1000 * 1000) ∧
        (s.RingOpen q → s.EventAt u q { srvEv evREPLY stDONE (rPart w) (rReq w) s.dev.now with
          final := true, value := BitVec.ofNat 32 (rPlan w).toNat }) ∧ u.dev.srv.seq = s.dev.srv.seq ∧ u.dev.cores = s.dev.cores) ∧
  (∀ (s : State) (q : QueueNo) (w : List Nat), s.recordAt q 0x09 = some w → rType w = 0x09 → s.dev.recHeld (rPart w) = false →
    rPart w = (s.dev.queue q).part → rStray w = none → retireCheck s.dev w = none →
    (s.dev.planSeqs (rPlan w) ≠ [] → ∃ u, exec (.planRetire q) s = .next u ∧ s.Taken u q ∧ (u.dev.plan (rPlan w)).st = .draining ∧
      (u.dev.plan (rPlan w)).successor = BitVec.ofNat 8 (qf w 3 7 0) ∧ u.dev.srv.seq = s.dev.srv.seq) ∧
    (s.dev.planSeqs (rPlan w) = [] → (s.dev.plan (rPlan w)).running = false → (s.dev.plan (rPlan w)).rerun = [] →
      s.dev.planAwaited (rPlan w) = false →
      ∃ u, exec (.planRetire q) s = .next u ∧ s.Taken u q ∧ (u.dev.plan (rPlan w)).st = .free ∧ u.dev.srv.seq = s.dev.srv.seq)) ∧
  (∀ (s : State) (q : QueueNo) (w : List Nat), s.recordAt q 0x0A = some w → rType w = 0x0A → s.dev.recHeld (rPart w) = false →
    rPart w = (s.dev.queue q).part → rStray w = none → adLoadCheck s.dev w = none →
      ∃ u, exec (.adapterLoad q) s = .next u ∧ s.Taken u q ∧ (u.dev.adCurrent (rPart w) (BitVec.ofNat 6 (qf w 3 5 0))) =
        some ⟨s.dev.srv.adSerial, BitVec.ofNat 32 (qf w 3 63 32), urObj (w.getD 1 0), BitVec.ofNat 64 (w.getD 2 0), 0, rPlan w, (q, rReq w), true⟩ ∧
        u.dev.srv.seq = s.dev.srv.seq ∧ u.dev.srv.plan = s.dev.srv.plan) ∧
  (∀ (s : State) (q : QueueNo) (w : List Nat), s.recordAt q 0x0B = some w → rType w = 0x0B → s.dev.recHeld (rPart w) = false →
    rPart w = (s.dev.queue q).part → rStray w = none → s.dev.feature 12 = true →
    (s.dev.adCurrent (rPart w) (BitVec.ofNat 6 (qf w 3 5 0))).isSome = true →
      ∃ u, exec (.adapterDrop q) s = .next u ∧ s.Taken u q ∧ u.dev.adCurrent (rPart w) (BitVec.ofNat 6 (qf w 3 5 0)) = none ∧
        u.dev.srv.seq = s.dev.srv.seq ∧ u.dev.srv.plan = s.dev.srv.plan)

/-- Steps (R295 to R298, R320, R321, R378). A step that starts runs with its batch, number, schedule point and due; a step all of whose commands have
completed retires: its plan runs none, with the time of commit. A predicted edge anchors the next step of a TICK plan. Events of the backlog
leave in order as their ring can take them.
Where the manual is open it rests on the model's choice in log entries 43, 83 and 89. -/
def Obligations.StepsStartAndRetire : Prop :=
  (∀ (s0 : State) (n : PlanNo) (r : Rerun), let s := s0.handSettle
    (s.dev.plan n).runs = true → (s.dev.plan n).running = false → s.dev.held = false →
    s.dev.pwr.partHold.getLsbD (s.dev.plan n).part.toNat = false → s.dev.heldBack n = false → s.dev.nextStep n = some r →
    let s1 := ({ s with dev := s.dev.vineResizeAll } : State).prepareAll (s.dev.plan n) r.batch
    r.batch.filter (fun q => (s1.dev.seq q).active) ≠ [] → ∃ u, exec (.stepStart n) s0 = .next u ∧
      (u.dev.plan n).running = true ∧ (u.dev.plan n).batch = r.batch.filter (fun q => (s1.dev.seq q).active) ∧
      (u.dev.plan n).k = r.k ∧ (u.dev.plan n).sched = r.sched ∧ (u.dev.plan n).due = r.due ∧ u.host = s1.host) ∧
  (∀ (s : State) (n : PlanNo), s.dev.stepOver (s.dev.plan n) = true → ∃ u, exec (.stepRetire n) s = .next u ∧
    (u.dev.plan n).running = false ∧ (u.dev.plan n).commit = s.dev.now ∧ u.nv.area = s.nv.area ∧ u.pending = s.pending) ∧
  (∀ (s : State) (n : PlanNo),
    let p := s.dev.plan n
    let l := p.lastE
    p.tick = true → p.runs = true → l + p.interval + s.dev.tickTol < s.dev.now →
      ∃ d, exec (.tickPredict n) s = .next { s with dev := d } ∧ (d.plan n).edges = p.edges ++ [(p.edgeK, l + p.interval)] ∧
        (d.plan n).edgeK = p.edgeK + 1 ∧ (d.plan n).edge = some (l + p.interval) ∧ (d.plan n).missRow = p.missRow + 1 ∧
        (s.dev.missLimit ≤ p.missRow + 1 → p.tickLost = false → (d.evtReg .srvEvt).getLsbD 5 = true) ∧ d.cores = s.dev.cores ∧ d.tier = s.dev.tier) ∧
  (∀ (s : State) (q : QueueNo) (e : BackEv), s.dev.hif.backlog = [e] → e.q = some q →
    ((s.dev.queue q).en = true → (s.dev.queue q).kind = 1 → (s.dev.queue q).full = false →
      ∃ u, exec .eventBacklogDrain s = .next u ∧ u.dev.hif.backlog = [] ∧
        u.host = Memory.writeN s.host ((s.dev.queue q).cqBase.toNat + (s.dev.queue q).cqTail * (s.dev.queue q).cqEntry)
          (withPhase (s.dev.queue q).phase (s.dev.queue q).phaseAt e.entry.bytes)) ∧
    ((s.dev.queue q).full = true → ∃ u, exec .eventBacklogDrain s = .next u ∧ u.dev.hif.backlog = [e] ∧ u.host = s.host))

/-- Leases (R370 to R373, R390, R305). An ATTACH that a check turns away leaves its RESULT; one that passes makes the lease LIVE under the
registers' identity for a period, with RESULT 1 and its sequences back where it returns from HOLD; RENEW sets the due anew; DETACH, a due
that passes and a function's reset take a LIVE lease to HOLD until its hold end, its queues off; at the hold end the lease is NONE and its
held sequences end.
Where the manual is open it rests on the model's choice in log entry 95. -/
def Obligations.LeasesLiveHoldAndEnd : Prop :=
  (∀ (s : State) (f : Func) (force : Bool),
    let s0 := s.leasePast f
    let l := s0.dev.lease f.val
    (∀ r, s0.dev.attachNo f force = some r → ∃ u, exec (.attach f force) s = .next u ∧
      u.dev.lease f.val = { l with result := BitVec.ofNat 8 r } ∧ u.dev.hif.accepted = s0.dev.hif.accepted ∧ u.host = s0.host) ∧
    (s0.dev.attachNo f force = none → ∃ u, exec (.attach f force) s = .next u ∧ (u.dev.lease f.val).st = .live ∧
      (u.dev.lease f.val).ident = l.regId ∧ (u.dev.lease f.val).due = s.dev.now + fld l.regCfg.toNat 15 0 * 1000000 ∧
      (u.dev.lease f.val).holdS = fld l.regCfg.toNat 31 16 ∧
      (u.dev.lease f.val).result = (if l.st = .hold ∧ l.ident = l.regId then 1 else 0) ∧
      (f.val = 0 → ∀ i, 0 < i → i < 128 → u.dev.feature i = s0.dev.wanted.getLsbD i) ∧
      (l.st = .hold → l.ident = l.regId → f.val ≠ 0 → ∀ n, (s0.dev.seq n).st = .held → (s0.dev.seq n).mbox = false →
        (s0.dev.seq n).func = f.val → ((s0.dev.seq n).firstDue = 0 ∨ s.dev.now ≤ (s0.dev.seq n).firstDue) →
        (u.dev.seq n).st = (s0.dev.seq n).was))) ∧
  (∀ (s : State) (f : Func),
    let l := s.dev.lease f.val
    (l.st = .live → s.dev.now ≤ l.due → l.ident = l.regId → ∃ d, exec (.renew f) s = .next { s with dev := d } ∧
      d.lease f.val = { l with due := s.dev.now + l.periodMs * 1000000, result := 0 } ∧ (∀ g, g ≠ f.val → d.lease g = s.dev.lease g) ∧
      s.dev.OnlyIn [.hif] d ∧ d.hif.queue = s.dev.hif.queue) ∧
    (l.st = .live → s.dev.now ≤ l.due → l.ident ≠ l.regId → ∃ d, exec (.renew f) s = .next { s with dev := d } ∧
      d.lease f.val = { l with result := 6 } ∧ s.dev.OnlyIn [.hif] d) ∧
    (l.st = .none → ∃ d, exec (.renew f) s = .next { s with dev := d } ∧ d.lease f.val = { l with result := 7 } ∧ s.dev.OnlyIn [.hif] d) ∧
    (l.st = .hold → ∃ d, exec (.renew f) s = .next { s with dev := d } ∧ d.lease f.val = { l with result := 8 } ∧ s.dev.OnlyIn [.hif] d)) ∧
  (∀ (s : State) (f : Func) (c : Instr) (from_ : Nat), (s.dev.lease f.val).st = .live →
    ((c = .detach f ∧ s.dev.now ≤ (s.dev.lease f.val).due ∧ from_ = s.dev.now) ∨
      (c = .leaseExpiry f ∧ (s.dev.lease f.val).due < s.dev.now ∧ from_ = (s.dev.lease f.val).due) ∨
      (c = .functionLevelReset f ∧ f.val ≠ 0 ∧ s.dev.now ≤ (s.dev.lease f.val).due ∧ from_ = s.dev.now)) →
    ∃ u, exec c s = .next u ∧ (u.dev.lease f.val).st = .hold ∧
      (u.dev.lease f.val).due = from_ + (s.dev.lease f.val).holdS * 1000000000 ∧ (u.dev.lease f.val).ident = (s.dev.lease f.val).ident ∧
      (∀ g, g ≠ f.val → u.dev.lease g = s.dev.lease g) ∧ (u.dev.evtReg (.hifEvt f)).getLsbD 0 = true ∧
      (∀ q, (s.dev.queue q).func.toNat = f.val → (u.dev.queue q).en = false) ∧
      (∀ t q, (s.dev.tagE t).iss = .queue q → (s.dev.queue q).func.toNat = f.val → (s.dev.queue q).en = true →
        ((s.dev.tagE t).st = .waiting ∨ (s.dev.tagE t).st = .ready) →
        (u.dev.tagE t).st = .completing ∧ (u.dev.tagE t).status = stABORTED ∧ (u.dev.tagE t).iss = .firmware) ∧
      (∀ n, (s.dev.seq n).mbox = false → (s.dev.seq n).func = f.val → ((s.dev.seq n).active || (s.dev.seq n).st == .parked) = true →
        (u.dev.seq n).st = .held)) ∧
  (∀ (s : State) (f : Func), (s.dev.lease f.val).st = .hold → (s.dev.lease f.val).due ≤ s.dev.now →
    ∃ u, exec (.holdEnd f) s = .next u ∧ (u.dev.lease f.val).st = .none ∧ (u.dev.lease f.val).due = 0 ∧ (u.dev.lease f.val).ident = 0 ∧
      (u.dev.evtReg (.hifEvt f)).getLsbD 1 = true ∧
      (∀ n, (s.dev.seq n).st = .held → (s.dev.seq n).mbox = false → (s.dev.seq n).func = f.val →
        (u.dev.seq n).st = .ending ∨ (u.dev.seq n).st = .free))

/-- Resets of the PF (R372, R407, R513). A function level reset of the PF takes every LIVE lease to HOLD and clears the write protection of its
Object Dictionary window; it and a hot reset clear the concentrator's delivery settings and keep its counters and pending bits.
Where the manual is open it rests on the model's choice in log entry 32. -/
def Obligations.PfResetsClearDelivery : Prop :=
  (∀ (s : State), ∃ u, exec (.functionLevelReset 0) s = .next u ∧
    (∀ f : Func, (s.dev.lease f.val).st = .live → (u.dev.lease f.val).st = .hold) ∧ u.dev.od.wpVdm = false ∧ u.dev.od.wpSide = false ∧
    u.dev.evc.core.enable = 0 ∧ u.dev.evc.core.gdis = false ∧ u.dev.evc.core.msiEn = 0 ∧ u.dev.evc.core.armed = 0) ∧
  (∀ (s : State), ∃ d, exec .hotReset s = .next { s with dev := d } ∧ d.evc.core.enable = 0 ∧ d.evc.core.gdis = false ∧
    d.evc.core.msiEn = 0 ∧ d.evc.core.vector = [] ∧ d.evc.core.holdoff = [] ∧ d.evc.core.armed = 0 ∧
    d.evc.core.pend = s.dev.evc.core.pend ∧ d.evc.core.count = s.dev.evc.core.count ∧ d.evc.core.sat = s.dev.evc.core.sat ∧
    d.evc.core.cpEn = s.dev.evc.core.cpEn ∧ s.dev.OnlyIn [.evc] d)

/-- Queues (R374 to R377, R382, R383, R392). EN enables a queue that passes the checks with its indices at 0, or leaves the failing check in ERR;
EN written 0 drains a queue that still owes entries and disables one that owes none; a tail and a head outside the queue, or of a queue
that is off, set EVT and change no index; an entry of a CMD queue is fetched and accepted; a host error faults the queue; an interrupt
that is due is one write of its vector's data, or stays pending while it is masked.
Where the manual is open it rests on the model's choice in log entries 14, 32, 56 and 96. -/
def Obligations.QueuesRun : Prop :=
  (∀ (s : State) (f : Func) (q : QueueNo), s.dev.ownsQ f q = true → (s.dev.queue q).en = false →
    (s.dev.enableErr f q = 0 → ∃ d, exec (.queueEnable f q) s = .next { s with dev := d } ∧
      d.queue q = { s.dev.queue q with en := true, fault := false, draining := false, err := 0, sqHead := 0, sqTail := 0, cqHead := 0,
                                       cqTail := 0, phase := true, due := [], irqDue := false } ∧
      (∀ r, r ≠ q → d.queue r = s.dev.queue r) ∧ s.dev.OnlyIn [.hif] d) ∧
    (s.dev.enableErr f q ≠ 0 → ∃ d, exec (.queueEnable f q) s = .next { s with dev := d } ∧
      d.queue q = { s.dev.queue q with err := BitVec.ofNat 5 (s.dev.enableErr f q) } ∧
      (∀ r, r ≠ q → d.queue r = s.dev.queue r) ∧ s.dev.OnlyIn [.hif] d)) ∧
  (∀ (s : State) (f : Func) (q : QueueNo), s.dev.ownsQ f q = true → (s.dev.queue q).en = true →
    ∃ d, exec (.queueDisable f q) s = .next { s with dev := d } ∧
      d.queue q = (if s.dev.owes q then { s.dev.queue q with draining := true } else { s.dev.queue q with draining := false, en := false }) ∧
      (∀ r, r ≠ q → d.queue r = s.dev.queue r) ∧ s.dev.OnlyIn [.hif] d) ∧
  (∀ (s : State) (f : Func) (q : QueueNo) (tail : BitVec 12), s.dev.ownsQ f q = true →
    (((s.dev.queue q).en = false ∨ (s.dev.queue q).draining = true ∨ (s.dev.queue q).sqSize ≤ tail.toNat) →
      ∃ d, exec (.sqDoorbell f q tail) s = .next { s with dev := d } ∧ (d.evtReg (.hifEvt f)).getLsbD 5 = true ∧ d.hif = s.dev.hif ∧
        s.dev.OnlyIn [.evt, .evc] d) ∧
    ((s.dev.queue q).en = true → (s.dev.queue q).draining = false → tail.toNat < (s.dev.queue q).sqSize →
      ∃ u, exec (.sqDoorbell f q tail) s = .next u ∧ (u.dev.queue q).sqTail = tail.toNat ∧ u.host = s.host ∧ u.nv = s.nv ∧
        ((s.dev.queue q).kind = 1 → (u.dev.queue q).sqHead = (s.dev.queue q).sqHead) ∧
        ((s.dev.queue q).kind = 0 → (s.dev.queue q).fault = false → (s.dev.queue q).sqHead ≠ tail.toNat →
          ((s.dev.queue q).sqHead + 1) % (s.dev.queue q).sqSize = tail.toNat →
          let x := Desc.ofBytes (s.sqEntryAt q (s.dev.queue q).sqHead)
          s.dev.acceptCheck x true (s.dev.queue q).part = none → s.dev.covered x = false → (opChip x.op = true ∨ s.dev.accepted x.core < 128) →
          (u.dev.queue q).sqHead = tail.toNat ∧ (u.dev.tagE x.tag).desc = x ∧ (u.dev.tagE x.tag).iss = .queue q ∧
          ((u.dev.tagE x.tag).st = .waiting ∨ (u.dev.tagE x.tag).st = .ready)))) ∧
  (∀ (s : State) (f : Func) (q : QueueNo) (head : BitVec 16), s.dev.ownsQ f q = true →
    (((s.dev.queue q).en = false ∨ (s.dev.queue q).draining = true ∨ (s.dev.queue q).cqSize ≤ head.toNat) →
      ∃ d, exec (.cqDoorbell f q head) s = .next { s with dev := d } ∧ (d.evtReg (.hifEvt f)).getLsbD 5 = true ∧ d.hif = s.dev.hif ∧
        s.dev.OnlyIn [.evt, .evc] d) ∧
    ((s.dev.queue q).en = true → (s.dev.queue q).draining = false → head.toNat < (s.dev.queue q).cqSize →
      ∃ d, exec (.cqDoorbell f q head) s = .next { s with dev := d } ∧ d.queue q = { s.dev.queue q with cqHead := head.toNat } ∧
        (∀ r, r ≠ q → d.queue r = s.dev.queue r) ∧ s.dev.OnlyIn [.hif] d)) ∧
  (∀ (s : State) (q : QueueNo), (s.dev.queue q).en = true → (s.dev.queue q).fault = false →
    ∃ d, exec (.queueFault q) s = .next { s with dev := d } ∧ (d.queue q).fault = true ∧ (d.queue q).err = 5 ∧ (d.queue q).due = [] ∧
      (∀ e ∈ d.hif.backlog, e.q ≠ some q) ∧ d.hif.aer = s.dev.hif.aer + 1 ∧ (d.evtReg (s.dev.queue q).evt).getLsbD 3 = true ∧
      (∀ r, r ≠ q → d.queue r = s.dev.queue r) ∧ s.dev.OnlyIn [.hif, .evt, .evc] d) ∧
  (∀ (s : State) (q : QueueNo),
    let k := s.dev.queue q
    let v := msixKey k.func.toNat k.vector
    k.irqDue = true → (∀ t, k.irqLast = some t → t.toNat + k.holdNs ≤ s.dev.now) → s.dev.msixEnabled k.func.toNat = true →
    (Tbl.get false s.dev.hif.msixMask k.func.toNat = false → Tbl.get false s.dev.hif.msixOn v = true →
      ∃ u, exec (.queueInterrupt q) s = .next u ∧ (u.dev.queue q).irqDue = false ∧ (u.dev.queue q).irqLast = some s.dev.hif.devTime ∧
        u.host = Memory.writeLe s.host (Tbl.get 0 s.dev.hif.msixAddr v).toNat 4 (Tbl.get 0 s.dev.hif.msixData v).toNat ∧
        Tbl.get false u.dev.hif.msixPend v = false ∧ s.dev.OnlyIn [.hif] u.dev) ∧
    ((Tbl.get false s.dev.hif.msixMask k.func.toNat = true ∨ Tbl.get false s.dev.hif.msixOn v = false) →
      ∃ d, exec (.queueInterrupt q) s = .next { s with dev := d } ∧ (d.queue q).irqDue = false ∧ Tbl.get false d.hif.msixPend v = true ∧
        s.dev.OnlyIn [.hif] d))

/-- Host transfers (R379 to R381, R455). A piece moves at most 4 KiB in order; what the host sends is what stands at the device's address after it,
and the other way; a confidential partition's pieces are opened and sealed, and a unit refused ends the transfer; the last piece and a host
error end it with its record due.
Where the manual is open it rests on the model's choice in log entries 8, 55 and 97. -/
def Obligations.TransfersMoveTheirPieces : Prop :=
  (∀ (s : State) (q : QueueNo) (xid : BitVec 16) (x : Xfer) (d : Dev), s.dev.xferOf q xid true = some x →
    let n := min 4096 (x.len - x.done)
    s.dev.access [] [(x.dev + x.done, n)] = (.ready, d) →
    let y := { x with done := x.done + n }
    (∀ bs e, ({ s with dev := d } : State).h2dBytes x n = some (bs, e) → ((s.dev.part x.part).conf = false → bs = Memory.readN s.host (x.host + x.done) n) ∧
      (y.done ≠ y.len → ∃ u, exec (.h2d q xid) s = .next u ∧ u.dev.tier = (e.memWrite x.dev x.done bs).tier ∧
        u.dev.hif.xfers = s.dev.hif.xfers.map (fun z => if z = x then y else z) ∧ u.host = s.host ∧ u.dev.cores.tag = s.dev.cores.tag) ∧
      (y.done = y.len → ∃ s1 : State, exec (.h2d q xid) s = .next s1.pumpXfers ∧ s1.dev.tier.mem = (e.memWrite x.dev x.done bs).tier.mem ∧
        (∀ z ∈ s1.dev.hif.xfers, z ≠ y) ∧ s1.host = s.host ∧
        ((s.dev.queue q).fault = false → (s1.dev.queue q).due = (s.dev.queue q).due ++ [⟨s.dev.xferRecord x.xid x.part stDONE 0 (y.done / 1024), x.irq⟩]))) ∧
    (({ s with dev := d } : State).h2dBytes x n = none → ∃ s1 : State, exec (.h2d q xid) s = .next s1.pumpXfers ∧
      s1.dev.sec.refused = s.dev.sec.refused + 1 ∧ (s1.dev.evtReg .secEvt).getLsbD 4 = true ∧ (∀ z ∈ s1.dev.hif.xfers, z ≠ x) ∧
      s1.dev.tier.mem = d.tier.mem ∧ s1.host = s.host)) ∧
  (∀ (s : State) (q : QueueNo) (xid : BitVec 16) (x : Xfer) (d : Dev), s.dev.xferOf q xid false = some x →
    let n := min 4096 (x.len - x.done)
    s.dev.access [(x.dev + x.done, n)] [] = (.ready, d) →
    let y := { x with done := x.done + n }
    let bs := (d.memRead x.dev x.done n).1
    y.done ≠ y.len →
    ((s.dev.part x.part).conf = false → ∃ u, exec (.d2h q xid) s = .next u ∧ u.host = Memory.writeN s.host (x.host + x.done) bs ∧
      u.dev.hif.xfers = s.dev.hif.xfers.map (fun z => if z = x then y else z) ∧ u.dev.sec = s.dev.sec ∧ u.dev.tier.mem = d.tier.mem ∧
      u.dev.cores = d.cores) ∧
    ((s.dev.part x.part).conf = true → ∃ u, exec (.d2h q xid) s = .next u ∧ u.dev.part x.part = { s.dev.part x.part with
        d2h := ((s.dev.part x.part).d2h + 1) % 2 ^ 88 } ∧ u.dev.hif.xfers = s.dev.hif.xfers.map (fun z => if z = x then y else z) ∧
      u.dev.tier.mem = d.tier.mem ∧ (∀ a, (a < x.unit ∨ x.unit + 4160 ≤ a) → Memory.read u.host a = Memory.read s.host a))) ∧
  (∀ (s : State) (q : QueueNo) (xid : BitVec 16) (x : Xfer), s.dev.hif.xfers.find? (fun x => x.q == q && x.xid == xid) = some x →
    ∃ s1 : State, exec (.xfHostFault q xid) s = .next s1.pumpXfers ∧ (∀ z ∈ s1.dev.hif.xfers, z ≠ x) ∧
      ((s.dev.queue q).fault = false → (s1.dev.queue q).due = (s.dev.queue q).due ++
        [⟨s.dev.xferRecord x.xid x.part 0x80 0 (x.done / 1024), x.irq⟩]))

/-- DEV_TIME and the host's clock (R338, R368). The first dialogue of a device that is no satellite sets DEV_TIME to the host's time and moves dues with
it; a later one leaves DEV_TIME and changes its rate, towards the host's time, to one of at most 1,000 ppm; ten periods without one lose the lock and keep
the rate; without PTM Enable there is no dialogue. In a group (R338) the first TIME exchange of a satellite sets DEV_TIME to the
head's time plus half the round trip in one step, and a later one corrects it by at most 1 µs.
Where the manual is open it rests on the model's choice in log entries 57 and 78. -/
def Obligations.DeviceTimeFollowsItsClock : Prop :=
  (∀ (s : State) (t : W64), s.dev.links.group ≠ .satellite → s.dev.hif.ptmEn = true →
    (s.dev.hif.aligned = false → ∃ d, exec (.ptmDialogue t) s = .next { s with dev := d } ∧ d.hif.devTime = t ∧ d.hif.aligned = true ∧
      d.hif.ptmLock = true ∧ d.hif.ptmLast = t ∧ (∀ f, (s.dev.lease f).st = .live → (d.lease f).due = (s.dev.lease f).due + t.toNat - s.dev.now) ∧
      (∀ n, (s.dev.plan n).st = .active → (d.plan n).due = (s.dev.plan n).due + t.toNat - s.dev.now) ∧ d.tier = s.dev.tier ∧
      d.cores.scratch = s.dev.cores.scratch) ∧
    (s.dev.hif.aligned = true → ∃ d, exec (.ptmDialogue t) s = .next { s with dev := d } ∧ d.hif.devTime = s.dev.hif.devTime ∧
      d.hif.ptmLock = true ∧ d.hif.ptmLast = s.dev.hif.devTime ∧ d.hif.ptmOffset = (t - s.dev.hif.devTime).truncate 32 ∧
      -1000 ≤ d.hif.ptmRate ∧ d.hif.ptmRate ≤ 1000 ∧ (0 ≤ (t - s.dev.hif.devTime).toInt → 0 ≤ d.hif.ptmRate) ∧
      ((t - s.dev.hif.devTime).toInt < 0 → d.hif.ptmRate ≤ 0) ∧
      s.dev.OnlyIn [.hif, .draws] d ∧ d.hif.lease = s.dev.hif.lease ∧ d.hif.queue = s.dev.hif.queue)) ∧
  (∀ (s : State) (t : W64), s.dev.hif.ptmEn = false → exec (.ptmDialogue t) s = .next s) ∧
  (∀ (s : State), s.dev.hif.ptmLock = true → s.dev.hif.ptmLast.toNat + 10 * s.dev.hif.ptmPeriod.toNat * 1000 ≤ s.dev.now →
    ∃ d, exec .ptmLost s = .next { s with dev := d } ∧ d.hif.ptmLock = false ∧ d.hif.devTime = s.dev.hif.devTime ∧ d.hif.ptmRate = s.dev.hif.ptmRate ∧
      (d.evtReg (.hifEvt 0)).getLsbD 2 = true ∧ s.dev.OnlyIn [.hif, .evt, .evc] d) ∧
  (∀ (s : State) (k : Pkt) (at_ : W64) (b : List Byte), k.typ = 0x31 → s.dev.mine k = true → s.dev.openBody k = some b →
    let t := leNat ((b.drop 1).take 8)
    let d := (s.dev.processed k).seeXid k
    (s.dev.links.group = .satellite → k.hdr.src = 0 → leNat (b.take 1) = 0 →
      exec (.time k at_) s = .next (State.xidGuard { s with dev := Dev.sendPlain 0x31 (timeBody 1 t 0) d 0 })) ∧
    (s.dev.links.group = .grouped → leNat (b.take 1) = 1 →
      exec (.time k at_) s = .next (State.xidGuard { s with
        dev := Dev.sendPlain 0x31 (timeBody 2 s.dev.now (s.dev.now - (s.dev.now - at_.toNat) - t)) d k.hdr.src.toNat }))) ∧
  (∀ (s : State) (k : Pkt) (at_ : W64) (b : List Byte), k.typ = 0x31 → s.dev.mine k = true → s.dev.openBody k = some b → k.hdr.src = 0 →
    (∀ e ∈ s.dev.links.xid, e.2 < 2 ^ 52) → s.dev.links.group = .satellite → leNat (b.take 1) = 2 →
    let v := leNat ((b.drop 1).take 8) + (s.dev.now - at_.toNat) + leNat ((b.drop 9).take 8) / 2
    let diff : Int := (v : Int) - s.dev.now
    (s.dev.links.fresh = true → ∃ d, exec (.time k at_) s = .next { s with dev := d } ∧ d.hif.devTime = BitVec.ofNat 64 v ∧
      d.links.fresh = false ∧ (-2147483648 ≤ diff → diff ≤ 2147483647 → d.links.corr = BitVec.ofInt 32 diff) ∧
      (∀ f, (s.dev.lease f).st = .live → (d.lease f).due = (s.dev.lease f).due + v - s.dev.now) ∧ d.tier = s.dev.tier) ∧
    (s.dev.links.fresh = false → ∃ d, exec (.time k at_) s = .next { s with dev := d } ∧
      d.links.corr = BitVec.ofInt 32 (max (-1000) (min 1000 diff)) ∧
      d.hif.devTime = s.dev.hif.devTime + BitVec.ofInt 64 (max (-1000) (min 1000 diff)) ∧
      s.dev.OnlyIn [.hif, .links] d ∧ d.links.route = s.dev.links.route))

/-- Register writes (R364 to R367, R384, R390 to R394). A write of a wrong size or alignment has no effect but its report; a function in D3hot takes none;
a 32-bit write of HIF_ATTACH, of a doorbell, of FLC_UNLOCK or FLC_CMD, of FW_CMD and of SEC_CMD is the command it spells; a write of a register with no
effect of its own keeps its value, a reserved offset nothing; a write into a mailbox ring of any size stores its bytes; NumVFs, the power state and PTM Enable of configuration space are set
(log entry 99); MSI-X Enable and Function Mask are set and pending messages that they release leave.
Where the manual is open it rests on the model's choice in log entries 29 and 32. -/
def Obligations.RegisterWritesAreTheirCommands : Prop :=
  (∀ (s : State) (f : Func) (off : BitVec 25) (size : AccSize) (v : Nat), Tbl.get false s.dev.hif.d3 f.val = false →
    (f.val ≠ 0 ∨ mboxAt off.toNat = none) → ((AccSize.bytes size ≠ 4 ∧ AccSize.bytes size ≠ 8) ∨ off.toNat % AccSize.bytes size ≠ 0) →
    ∃ d, exec (.registerWrite f (.bar off) size v) s = .next { s with dev := d } ∧ d.hif.aer = s.dev.hif.aer + 1 ∧ s.dev.OnlyIn [.hif] d ∧
      d.hif.queue = s.dev.hif.queue ∧ d.hif.lease = s.dev.hif.lease) ∧
  (∀ (s : State) (f : Func) (off : BitVec 25) (size : AccSize) (v : Nat), Tbl.get false s.dev.hif.d3 f.val = true →
    exec (.registerWrite f (.bar off) size v) s = .next s) ∧
  (∀ (s : State) (f : Func) (v : W32), Tbl.get false s.dev.hif.d3 f.val = false → s.dev.links.group ≠ .satellite → s.dev.pwr.st ≠ .nap →
    (exec (.registerWrite f (.bar 0x60) .dword v.toNat) s = (if v.extractLsb' 0 2 = 1 then exec (.attach f (v.getLsbD 4)) s
      else if v.extractLsb' 0 2 = 2 then exec (.renew f) s else if v.extractLsb' 0 2 = 3 then exec (.detach f) s else .next s)) ∧
    (∀ q : QueueNo, exec (.registerWrite f (.bar (0x100000 + 0x1000 * q.zeroExtend 25)) .dword v.toNat) s =
      exec (.sqDoorbell f q (v.truncate 12)) s) ∧
    (∀ q : QueueNo, exec (.registerWrite f (.bar (0x100004 + 0x1000 * q.zeroExtend 25)) .dword v.toNat) s =
      exec (.cqDoorbell f q (v.truncate 16)) s) ∧
    (∃ d, exec (.registerWrite f (.bar 0x58) .dword v.toNat) s = .next { s with dev := d } ∧
      d.lease f.val = { s.dev.lease f.val with regCfg := v } ∧ s.dev.OnlyIn [.hif] d ∧ d.hif.queue = s.dev.hif.queue)) ∧
  (∀ (s : State) (v : W32), Tbl.get false s.dev.hif.d3 0 = false → s.dev.links.group ≠ .satellite → s.dev.pwr.st ≠ .nap →
    exec (.registerWrite 0 (.bar 0x40000) .dword v.toNat) s = exec (.flcUnlock (v.truncate 16)) s ∧
    exec (.registerWrite 0 (.bar 0x40008) .dword 0x12) s = exec .flcErase s ∧ exec (.registerWrite 0 (.bar 0x40008) .dword 0x13) s = exec .flcProgram s ∧
    exec (.registerWrite 0 (.bar 0x13020) .dword 0x101) s = exec (.fwStage .host 1) s ∧
    (secOp v = 2 → exec (.registerWrite 0 (.bar 0x14004) .dword v.toNat) s = exec (.remove .host v) s) ∧
    exec (.registerWrite 0 (.bar 0x20014) .dword v.toNat) s = exec (.evcSwset v) s ∧
    exec (.registerWrite 0 (.bar 0x0FFC) .dword v.toNat) s = .next s) ∧
  (∀ (s : State) (off : BitVec 25) (size : AccSize) (v a : Nat) (out : Bool), Tbl.get false s.dev.hif.d3 0 = false → s.dev.links.group ≠ .satellite →
    s.dev.pwr.st ≠ .nap → mboxAt off.toNat = some (out, a) → a + AccSize.bytes size ≤ 0x100000 →
    ∃ d, exec (.registerWrite 0 (.bar off) size v) s = .next { s with dev := d } ∧ s.dev.OnlyIn [.hif] d ∧
      (out = false → d.hif = { s.dev.hif with mboxIn := Memory.writeN s.dev.hif.mboxIn a (natLe (AccSize.bytes size) v) }) ∧
      (out = true → d.hif = { s.dev.hif with mboxOut := Memory.writeN s.dev.hif.mboxOut a (natLe (AccSize.bytes size) v) })) ∧
  (∀ (s : State) (n : Nat) (f : Func) (size : AccSize),
    (n ≤ 8 → ∃ u, exec (.registerWrite 0 .numVfs size n) s = .next u ∧ u.dev.hif.numVfs = n ∧ (s.dev.hif.numVfs ≤ n → s.dev.OnlyIn [.hif] u.dev)) ∧
    (8 < n ∨ f.val ≠ 0 → exec (.registerWrite f .numVfs size n) s = .next s) ∧
    (n = 0 ∨ n = 3 → ∃ u, exec (.registerWrite f .powerState size n) s = .next u ∧ Tbl.get false u.dev.hif.d3 f.val = decide (n = 3) ∧
      (f.val = 0 → n = 0 → s.dev.pwr.st = .deep → u.dev.pwr.st = .idle) ∧
      (f.val ≠ 0 ∨ n = 3 ∨ s.dev.pwr.st ≠ .deep → s.dev.OnlyIn [.hif] u.dev)) ∧
    (n ≠ 0 → n ≠ 3 → exec (.registerWrite f .powerState size n) s = .next s) ∧
    (∃ d, exec (.registerWrite 0 .ptmEnable size n) s = .next { s with dev := d } ∧ d.hif = { s.dev.hif with ptmEn := bitN n 0 } ∧
      s.dev.OnlyIn [.hif] d)) ∧
  (∀ (s : State) (f : Func) (enable mask : Bool), ∃ u, exec (.msixEnableWrite f enable mask) s = .next u ∧
    u.dev.msixEnabled f.val = enable ∧ Tbl.get false u.dev.hif.msixMask f.val = mask ∧ u.dev.cores = s.dev.cores ∧ u.dev.tier = s.dev.tier ∧
    (∀ g, g ≠ f.val → u.dev.msixEnabled g = s.dev.msixEnabled g) ∧
    (enable = false → f.val ≠ 0 → ∀ v, v < 64 → Tbl.get false u.dev.hif.msixPend (msixKey f.val v) = Tbl.get false s.dev.hif.msixPend (msixKey f.val v)))

/-- LINK_PUT at its source (R339 to R342, R345). A LINK_PUT opens a transfer with the next XID of its partition and destination and goes on
running; with no route it completes LK_UNREACHABLE, with a codec slot that does not serve it LK_CODEC; the answer of the destination opens
the transfer, ends it with the code's status or makes it wait; a retry asks again; DONE completes the command with the destination's status.
Where the manual is open it rests on the model's choice in log entries 58 and 76. -/
def Obligations.TransfersLeaveTheirSource : Prop :=
  (∀ (s : State) (t : Tag), s.dev.runs t 0x50 = true → s.dev.links.src.any (·.t == t) = false → (∀ e ∈ s.dev.links.xid, e.2 + 1 < 2 ^ 52) →
    let x := (s.dev.tagE t).desc
    let n := Tbl.get 0 s.dev.links.xid (x.part.toNat * 64 + (lkMember x).toNat)
    ((s.dev.routeTo (lkMember x)).valid = true → s.dev.codecOk x.part (lkCodec x) (lkSlot x) (lkSlotVer x) = true →
      ∃ u, exec (.linkPut t) s = .next u ∧ u.dev.links.src = s.dev.links.src ++
          [⟨t, BitVec.ofNat 16 n, n / 65536, lkMember x, false, false, 0, ceilDiv (lkLen x) blkPlain, 0⟩] ∧
        Tbl.get 0 u.dev.links.xid (x.part.toNat * 64 + (lkMember x).toNat) = n + 1 ∧ u.dev.tagE t = s.dev.tagE t ∧ u.dev.tier = s.dev.tier ∧
        u.host = s.host ∧ u.nv = s.nv) ∧
    ((s.dev.routeTo (lkMember x)).valid = false → ∃ u, exec (.linkPut t) s = .next u ∧
      (u.dev.tagE t).Done 0x80 0 0 s.dev.hif.devTime ∧ u.dev.links = s.dev.links ∧ u.host = s.host) ∧
    ((s.dev.routeTo (lkMember x)).valid = true → s.dev.codecOk x.part (lkCodec x) (lkSlot x) (lkSlotVer x) = false →
      ∃ u, exec (.linkPut t) s = .next u ∧ (u.dev.tagE t).Done 0x81 0 (s.dev.slot (lkSlot x)).version.toNat s.dev.hif.devTime ∧
        u.dev.links = s.dev.links ∧ u.host = s.host)) ∧
  (∀ (s : State) (t : Tag) (x : SrcXfer), s.dev.links.src.find? (·.t == t) = some x → x.busy = true →
    ∃ d, exec (.openRetry t) s = .next { s with dev := d } ∧
      d.links.src = s.dev.links.src.map (fun y => if y.t = x.t then { x with busy := false } else y) ∧ d.cores = s.dev.cores ∧ d.tier = s.dev.tier) ∧
  (∀ (s : State) (k : Pkt) (b : List Byte) (x : SrcXfer), k.typ = 0x02 → s.dev.mine k = true → s.dev.openBody k = some b →
    s.dev.answered k = some x → x.opened = false → x.busy = false → s.dev.runs x.t 0x50 = true →
    (b.getD 0 0 = 0 → ∃ u, exec (.openAck k) s = .next u ∧ u.host = s.host ∧
      ((∃ y ∈ u.dev.links.src, y.t = x.t ∧ y.xid = x.xid ∧ y.opened = true) ∨
        ((u.dev.tagE x.t).st = .completing ∧ (u.dev.tagE x.t).status = stUNCORR))) ∧
    (∀ st de res, (b.getD 0 0, st, de, res) ∈ [((1 : Byte), stRIGHTS, locator 2 0 4, 0), (2, stLENGTH, locator 2 0 2, 0), (3, stSTALE, 0, 0),
        (4, 0x81, 0, leNat ((b.drop 1).take 4))] → ∃ u, exec (.openAck k) s = .next u ∧ (u.dev.tagE x.t).Done st de res s.dev.hif.devTime ∧
      (∀ y ∈ u.dev.links.src, y.t ≠ x.t) ∧ u.host = s.host) ∧
    (b.getD 0 0 = 5 → ∃ u, exec (.openAck k) s = .next u ∧
      u.dev.links.src = s.dev.links.src.map (fun y => if y.t = x.t then { x with busy := true } else y) ∧ u.dev.cores = s.dev.cores)) ∧
  (∀ (s : State) (k : Pkt) (b : List Byte) (x : SrcXfer), k.typ = 0x04 → s.dev.mine k = true → s.dev.openBody k = some b →
    s.dev.answered k = some x → s.dev.runs x.t 0x50 = true →
    (stSuccess (doneStatus (b.getD 0 0)) = true → ∃ u, exec (.donePkt k) s = .next u ∧
      (u.dev.tagE x.t).Done (s.dev.tagE x.t).okStatus 0 (min (ceilDiv x.coded 1024) (2 ^ 32 - 1)) s.dev.hif.devTime ∧
      (∀ y ∈ u.dev.links.src, y.t ≠ x.t) ∧ u.dev.tier.mem = s.dev.tier.mem ∧ u.host = s.host) ∧
    (stSuccess (doneStatus (b.getD 0 0)) = false → ∃ u, exec (.donePkt k) s = .next u ∧
      (u.dev.tagE x.t).Done (doneStatus (b.getD 0 0)) (if doneStatus (b.getD 0 0) = stUNCORR then 0x000D else 0) 0 s.dev.hif.devTime ∧
      ((doneStatus (b.getD 0 0)).toNat ≤ 0x0C ∨ 0x80 ≤ (doneStatus (b.getD 0 0)).toNat) ∧
      (∀ y ∈ u.dev.links.src, y.t ≠ x.t) ∧ u.host = s.host))

/-- Link transfers at their destination (R341 to R344, R349, R350). An OPEN is checked, entered and answered; a block is decoded and written, or added
to what stands there, and the last one raises the transfer's notify counter and closes it; a block for no open transfer is answered by NACK;
ABORT closes a transfer. A packet whose tag fails puts its partition in Safe Hold; NACK and STEP change no transfer. A
LINK_WAIT whose target its counter has reached takes that count and completes with what remains; one whose time passes first completes
LK_TIMEOUT with the count it found.
Where the manual is open it rests on the model's choice in log entries 58, 59 and 76. -/
def Obligations.TransfersReachTheirDestination : Prop :=
  (∀ (s : State) (k : Pkt) (b : List Byte), k.typ = 0x01 → s.dev.mine k = true → s.dev.openBody k = some b → s.dev.openDst k = none →
    let d0 := (s.dev.processed k).seeXid k
    let x := openAsk k b
    let c := d0.openCheck k x
    ∃ d : Dev, exec (.openPkt k) s = .next { s with dev := d.answer 0x02 k (BitVec.ofNat 8 c :: natLe 4 (d0.slot x.slot.toNat).version.toNat) } ∧
      d.links.dst = (if c = 0 then s.dev.links.dst ++ [x] else s.dev.links.dst) ∧ d.links.src = s.dev.links.src ∧
      (c = 0 → (d.obj (urObj x.dst.toNat)).refs = (s.dev.obj (urObj x.dst.toNat)).refs + 1) ∧ d.tier.mem = s.dev.tier.mem ∧
      d.cores.tag = s.dev.cores.tag) ∧
  (∀ (s : State) (p : PortNo) (k : Pkt) (b : List Byte) (x : DstXfer) (d1 : Dev) (plain : List Byte), k.typ = 0x03 → s.dev.mine k = true →
    (s.dev.port p).inq.contains k = true → s.dev.openDst k = some x →
    let o := urObj x.dst.toNat
    let off := urOff x.dst.toNat + k.off.toNat * blkPlain
    let gs := (gransOf off (min blkPlain (x.len - k.off.toNat * blkPlain))).map fun g => (o, g)
    s.dev.accessGrans (if x.add then gs else []) gs = (.ready, d1) → d1.openBody k = some b →
    let d0 := (d1.processed k).seeXid k
    d0.decodeBlock x k.off.toNat b = some plain →
    let out := if x.add then addElems (tyOr (Ty.ofCode x.etype.toNat)) (d0.objRead o off plain.length) plain else plain
    let y := { x with got := if x.got.contains k.off.toNat then x.got else x.got ++ [k.off.toNat] }
    (y.got.length ≠ y.blocks → ∃ u, exec (.dataPkt p k) s = .next u ∧ u.dev.tier = (d0.objWrite o off out).tier ∧
      u.dev.links.dst = s.dev.links.dst.map (fun z => if z = x then y else z) ∧ u.dev.links.nctr = s.dev.links.nctr ∧ u.host = s.host ∧
      u.dev.cores.tag = s.dev.cores.tag) ∧
    (y.got.length = y.blocks → ∃ u, exec (.dataPkt p k) s = .next u ∧ u.dev.tier.mem = (d0.objWrite o off out).tier.mem ∧
      (∀ z ∈ u.dev.links.dst, z ≠ y) ∧
      (∀ c, y.notify = some c → u.dev.nctr y.part c.toNat = min (s.dev.nctr y.part c.toNat + 1) (2 ^ 32 - 1)) ∧
      (y.notify = none → u.dev.links.nctr = s.dev.links.nctr) ∧ u.host = s.host)) ∧
  (∀ (s : State) (p : PortNo) (k : Pkt) (b : List Byte), k.typ = 0x03 → s.dev.mine k = true → (s.dev.port p).inq.contains k = true →
    s.dev.openDst k = none → s.dev.openBody k = some b → ∃ (d : Dev) (c : Byte), exec (.dataPkt p k) s = .next { s with dev := d.answer 0x06 k [c] } ∧
      d.links.dst = s.dev.links.dst ∧ d.tier = s.dev.tier ∧ d.cores = s.dev.cores) ∧
  (∀ (s : State) (k : Pkt) (b : List Byte) (x : DstXfer), k.typ = 0x05 → s.dev.mine k = true → s.dev.openBody k = some b →
    s.dev.openDst k = some x → ∃ u, exec (.abortPkt k) s = .next u ∧ (∀ z ∈ u.dev.links.dst, z ≠ x) ∧
      u.dev.links.src = s.dev.links.src ∧ u.dev.links.nctr = s.dev.links.nctr ∧ u.host = s.host ∧ u.nv = s.nv) ∧
  (∀ (s : State) (k : Pkt) (b : List Byte) (p : PortNo) (c : Instr), ((k.typ, c) ∈ [((0x06 : Byte), Instr.nack k), (0x12, .stepPkt k)]) →
    s.dev.mine k = true → s.dev.openBody k = some b → s.dev.portOf k = p → (s.dev.port p).inq.contains k = true →
    ∃ d, exec c s = .next { s with dev := d } ∧ (d.port p).inq = (s.dev.port p).inq.erase k ∧ (d.port p).retry = (s.dev.port p).retry ∧
      d.links.src = s.dev.links.src ∧ d.links.dst = s.dev.links.dst ∧ s.dev.OnlyIn [.links] d) ∧
  (∀ (s : State) (k : Pkt) (c : Instr) (at_ : W64), ((k.typ, c) ∈ [((0x01 : Byte), Instr.openPkt k), (0x02, .openAck k), (0x04, .donePkt k), (0x05, .abortPkt k),
      (0x06, .nack k), (0x10, .rcmd k), (0x11, .rdone k), (0x12, .stepPkt k), (0x20, .mgmt k), (0x30, .beat k), (0x31, .time k at_), (0x32, .epoch k),
      (0x40, .group ⟨k, .leave⟩)]) →
    s.dev.mine k = true → s.dev.openBody k = none → ∃ u, exec c s = .next u ∧ u.dev.pwr.partHold.getLsbD k.hdr.part.toNat = true) ∧
  (∀ (s : State) (t : Tag), s.dev.runs t 0x51 = true →
    let x := (s.dev.tagE t).desc
    let n := s.dev.nctr x.part (lwNctr x)
    (lwTarget x ≤ n → ∃ d, exec (.linkWait t) s = .next { s with dev := d } ∧
      (d.tagE t).Done (s.dev.tagE t).okStatus 0 (n - lwTarget x) s.dev.hif.devTime ∧ d.nctr x.part (lwNctr x) = n - lwTarget x ∧
      (∀ q c, c < 64 → (q, c) ≠ (x.part, lwNctr x) → d.nctr q c = s.dev.nctr q c) ∧
      s.dev.OnlyIn [.cores, .tier, .links, .evc, .evt, .cnt, .tot] d ∧ d.tier.mem = s.dev.tier.mem) ∧
    (n < lwTarget x → exec (.linkWait t) s = .next s)) ∧
  (∀ (s : State) (t : Tag), s.dev.runs t 0x51 = true →
    let e := s.dev.tagE t
    let n := s.dev.nctr e.desc.part (lwNctr e.desc)
    lwTimeout e.desc ≠ 0 → e.started.toNat + lwTimeout e.desc * 1000 ≤ s.dev.now → n < lwTarget e.desc →
      ∃ d, exec (.linkWaitTimeout t) s = .next { s with dev := d } ∧ s.dev.Completed d t 0x82 0 n)

/-- Ports train (R326, R331, R354). A partner's signal takes a port from DETECT to TRAIN with INIT due; INIT names the partner and grants its
credits; the end of training leaves the port UP on the lanes that passed, in DETECT where none did, and in FAULT where the lane order was
wrong; a lane that fails for the third time in a row is retired; a port that retrains, from UP or from DETECT, keeps its retry
buffer, its waiting packets and the packet it was receiving, and faults at its third entry to TRAIN within 10 s.
Where the manual is open it rests on the model's choice in log entry 75. -/
def Obligations.PortsTrain : Prop :=
  (∀ (s : State) (p : PortNo), (s.dev.port p).st = .detect → (s.dev.port p).retired ≠ 0xF →
    ∃ d, exec (.partnerDetect p) s = .next { s with dev := d } ∧ (d.port p).st = .train ∧
      (d.port p).ctrl = [.init ⟨Config.serial, p, 64, 1024, 32, 0x0001⟩] ∧ (d.port p).owed = [] ∧
      (d.port p).retired = (s.dev.port p).retired ∧ (d.port p).fails = (s.dev.port p).fails ∧
      (d.port p).retry = (s.dev.port p).retry ∧ (d.port p).txSeq = (s.dev.port p).txSeq ∧ (d.port p).rxSeq = (s.dev.port p).rxSeq ∧
      (d.port p).rx = (s.dev.port p).rx ∧
      (d.port p).trains = (s.dev.now :: (s.dev.port p).trains).take 3 ∧ (d.port p).out = (s.dev.port p).out ∧
      (∀ q, q ≠ p → d.port q = s.dev.port q) ∧ s.dev.OnlyIn [.links] d) ∧
  (∀ (s : State) (p : PortNo) (m : InitMsg), (s.dev.port p).st = .train →
    ∃ d, exec (.initMsg p m) s = .next { s with dev := d } ∧ (d.port p).partner = m.serial ∧ (d.port p).pport = m.port ∧ (d.port p).pversion = m.version ∧
      Tbl.get 0 (d.port p).credit 0 = m.credits0.toNat ∧ Tbl.get 0 (d.port p).credit 1 = m.credits1.toNat ∧
      Tbl.get 0 (d.port p).credit 2 = m.credits2.toNat ∧ (d.port p).st = .train ∧ (d.port p).retry = (s.dev.port p).retry ∧
      (∀ q, q ≠ p → d.port q = s.dev.port q) ∧ s.dev.OnlyIn [.links] d) ∧
  (∀ (s : State) (p : PortNo) (passed : BitVec 4), (s.dev.port p).st = .train →
    let q := s.dev.port p
    (∃ u, exec (.trainDone p passed true) s = .next u ∧ (u.dev.port p).st = .fault ∧ (u.dev.port p).active = 0 ∧
      (u.dev.port p).retry = [] ∧ (u.dev.evtReg (.elkEvt p)).getLsbD 4 = true ∧ u.host = s.host ∧ u.pending = s.pending) ∧
    (∃ u, exec (.trainDone p passed false) s = .next u ∧
      (u.dev.port p).st = (if passed &&& ~~~ q.retired = 0 then .detect else .up) ∧ (u.dev.port p).active = passed &&& ~~~ q.retired ∧
      (∀ l : LaneNo, (u.dev.port p).retired.getLsbD l.toNat =
        (q.retired.getLsbD l.toNat || (!passed.getLsbD l.toNat && decide (3 ≤ Tbl.get 0 q.fails l.toNat + 1)))) ∧
      (∀ l : LaneNo, Tbl.get 0 (u.dev.port p).fails l.toNat = (if q.retired.getLsbD l.toNat then Tbl.get 0 q.fails l.toNat
        else if passed.getLsbD l.toNat then 0 else Tbl.get 0 q.fails l.toNat + 1)) ∧
      u.host = s.host ∧ u.pending = s.pending ∧ u.dev.cores = s.dev.cores ∧ u.dev.tier = s.dev.tier)) ∧
  (∀ (s : State) (p : PortNo), (s.dev.port p).st = .up →
    (s.dev.recentTrains p < 2 → ∃ d, exec (.portRetrain p) s = .next { s with dev := d } ∧ (d.port p).st = .train ∧
      (d.port p).active = 0 ∧ (d.port p).ctrl = [.init ⟨Config.serial, p, 64, 1024, 32, 0x0001⟩] ∧ (d.port p).retry = (s.dev.port p).retry ∧ (d.port p).out = (s.dev.port p).out ∧
      (d.port p).rx = (s.dev.port p).rx ∧ (d.port p).rxSeq = (s.dev.port p).rxSeq ∧
      (d.port p).trains = (s.dev.now :: (s.dev.port p).trains).take 3 ∧ (d.evtReg (.elkEvt p)).getLsbD 2 = true ∧
      (∀ q, q ≠ p → d.port q = s.dev.port q) ∧ s.dev.OnlyIn [.links, .evt, .evc, .cnt, .tot] d) ∧
    (2 ≤ s.dev.recentTrains p → ∃ d, exec (.portRetrain p) s = .next { s with dev := d } ∧ (d.port p).st = .fault ∧
      (d.port p).active = 0 ∧ (d.port p).retry = [] ∧ (d.evtReg (.elkEvt p)).getLsbD 5 = true)) ∧
  (∀ (s : State) (p : PortNo), (s.dev.port p).st = .up →
    ∃ d, exec (.idleFlitTimer p) s = .next { s with dev := d } ∧ (d.port p).ctrl = (s.dev.port p).ctrl.drop 1 ∧
      (∀ vc, vc < 3 → Tbl.get 0 (s.dev.port p).owed vc ≠ 0 → (∀ w, w < vc → Tbl.get 0 (s.dev.port p).owed w = 0) →
        Tbl.get 0 (d.port p).owed vc = Tbl.get 0 (s.dev.port p).owed vc - min 255 (Tbl.get 0 (s.dev.port p).owed vc) ∧
        (∀ w, w ≠ vc → Tbl.get 0 (d.port p).owed w = Tbl.get 0 (s.dev.port p).owed w)) ∧
      (∀ q, q ≠ p → d.port q = s.dev.port q) ∧ s.dev.OnlyIn [.links, .draws] d)

/-- Link-level retry (R324, R325, R328, R329, R332). The bytes of a packet, padded, read back as the packet. A block with up to 8 wrong symbols is taken as
the one its sender sent. A flit of a bad CRC is answered by a NAK of the last FSEQ accepted and is not accepted; a good one frees
the flits its ACK covers, and, as the PKT flit that follows the last one accepted, it becomes the last one. A NAK and a passed replay time send
flits of the retry buffer again, from the one after the named FSEQ or from the oldest, unless one would exceed the replay limit: then the
port retrains.
Where the manual is open it rests on the model's choice in log entry 75. -/
def Obligations.LinkRetryReplays : Prop :=
  (∀ (k : Pkt) (pad : List Byte), (if k.hdr.enc then 16 ≤ k.body.length ∧ k.body.length ≤ 4120 else k.body.length ≤ 4104) →
    pktOf (pktBytes k ++ pad) = k ∧ hdrFlits (pktBytes k ++ pad) = pktFlits k) ∧
  (∀ (s : State) (p : PortNo) (fl : RxFlit), fl.flit.length = 256 → fl.bad.length ≤ 8 →
    ∃ d d', exec (.flitReceive p fl) s = .next { s with dev := d } ∧ exec (.flitReceive p ⟨fl.flit, []⟩) s = .next { s with dev := d' } ∧
      (d.port p).rxSeq = (d'.port p).rxSeq ∧ (d.port p).rx = (d'.port p).rx ∧ (d.port p).inq = (d'.port p).inq) ∧
  (∀ (s : State) (p : PortNo) (fl : RxFlit), (s.dev.port p).st = .up →
    (fl.crcOk = false → ∃ d, exec (.flitReceive p fl) s = .next { s with dev := d } ∧ (d.port p).rxSeq = (s.dev.port p).rxSeq ∧
      (d.port p).ctrl = (s.dev.port p).ctrl ++ [.nak (s.dev.port p).rxSeq] ∧ (d.port p).retry = (s.dev.port p).retry ∧
      (∀ q, q ≠ p → d.port q = s.dev.port q) ∧ s.dev.OnlyIn [.links, .cnt] d) ∧
    (fl.crcOk = true → (fl.ft ≠ 1 ∨ fl.fseq ≠ (s.dev.port p).rxSeq + 1) → ∃ d, exec (.flitReceive p fl) s = .next { s with dev := d } ∧
      (d.port p).rxSeq = (s.dev.port p).rxSeq ∧ (d.port p).inq = (s.dev.port p).inq ∧ (d.port p).rx = (s.dev.port p).rx ∧
      ackFlits fl.ack (s.dev.port p).retry <+: (d.port p).retry) ∧
    (fl.crcOk = true → fl.ft = 1 → fl.fseq = (s.dev.port p).rxSeq + 1 → ∃ d, exec (.flitReceive p fl) s = .next { s with dev := d } ∧
      (d.port p).rxSeq = fl.fseq ∧ ackFlits fl.ack (s.dev.port p).retry <+: (d.port p).retry ∧
      let r := rxNext (s.dev.port p).rx fl.payload
      (r.2 = 0 → s.dev.mine (pktOf r.1) = true → (d.port p).inq = (s.dev.port p).inq ++ [pktOf r.1] ∧ (d.port p).rx = none) ∧
      (r.2 ≠ 0 → (d.port p).rx = some r ∧ (d.port p).inq = (s.dev.port p).inq))) ∧
  (∀ (s : State) (p : PortNo) (last : BitVec 10), (s.dev.port p).st = .up →
    let fs := afterFseq last.toNat (s.dev.port p).retry
    (fs = [] → exec (.nak p last) s = .next s) ∧
    (fs ≠ [] → (∀ f ∈ fs, f.replays + 1 ≤ s.dev.links.replayLimit) → ∃ d, exec (.nak p last) s = .next { s with dev := d } ∧
      (d.port p).retry = (s.dev.port p).retry.map (fun f => if fs.contains f then { f with replays := f.replays + 1 } else f) ∧
      (d.port p).st = .up ∧ (d.port p).rxSeq = (s.dev.port p).rxSeq ∧
      (∀ q, q ≠ p → d.port q = s.dev.port q) ∧ s.dev.OnlyIn [.links, .cnt, .tot] d) ∧
    (∀ f ∈ fs, s.dev.links.replayLimit < f.replays + 1 → ∃ d, exec (.nak p last) s = .next { s with dev := d } ∧
      (d.port p).st = (if 2 ≤ s.dev.recentTrains p then .fault else .train) ∧ (d.port p).active = 0)) ∧
  (∀ (s : State) (p : PortNo), (s.dev.port p).st = .up →
    let fs := (s.dev.port p).retry
    (fs ≠ [] → (∀ f ∈ fs, f.replays + 1 ≤ s.dev.links.replayLimit) → ∃ d, exec (.replayTimeout p) s = .next { s with dev := d } ∧
      (d.port p).retry = fs.map (fun f => { f with replays := f.replays + 1 }) ∧ (d.port p).st = .up ∧
      (∀ q, q ≠ p → d.port q = s.dev.port q) ∧ s.dev.OnlyIn [.links, .cnt, .tot] d) ∧
    (∀ f ∈ fs, s.dev.links.replayLimit < f.replays + 1 → ∃ d, exec (.replayTimeout p) s = .next { s with dev := d } ∧
      (d.port p).st = (if 2 ≤ s.dev.recentTrains p then .fault else .train) ∧ (d.port p).active = 0))

/-- The live lane retune (R327, R360). A retune starts only on an active lane that is not the last one of a port that retunes none, or on a lane that a
failed one left out; its switch point lies at least 64 FSEQ ahead of the next one; the lane leaves the stripe at the agreed switch point, and
returns at the rejoin point or stays out.
Where the manual is open it rests on the model's choice in log entry 75. -/
def Obligations.LaneRetunes : Prop :=
  (∀ (s : State) (p : PortNo) (l : LaneNo), (s.dev.port p).mayRetune l = true →
    (s.dev.links.retuneAt < Tbl.get 0 (s.dev.port p).fixed l.toNat → ∃ d sp, exec (.retuneCheck p l .symbols) s = .next { s with dev := d } ∧
      d.port p = { s.dev.port p with
        retuning := some l, retuneMine := true, rejoin := false, switchPt := sp, agreed := false, rejoinPt := none, asked := false,
        fixed := Tbl.set 0 (s.dev.port p).fixed l.toNat 0, ctrl := (s.dev.port p).ctrl ++ [.retuneReq l sp] } ∧
      64 ≤ (sp - (s.dev.port p).txSeq).toNat ∧ (∀ q, q ≠ p → d.port q = s.dev.port q) ∧ s.dev.OnlyIn [.links, .draws] d) ∧
    (∃ d sp, exec (.laneRetuneRequest (BitVec.ofNat 8 (8 * p.toNat + l.toNat))) s = .next { s with dev := d } ∧
      d.port p = { s.dev.port p with
        retuning := some l, retuneMine := true, rejoin := false, switchPt := sp, agreed := false, rejoinPt := none, asked := true,
        ctrl := (s.dev.port p).ctrl ++ [.retuneReq l sp] } ∧
      64 ≤ (sp - (s.dev.port p).txSeq).toNat ∧ (∀ q, q ≠ p → d.port q = s.dev.port q) ∧ s.dev.OnlyIn [.links, .draws] d) ∧
    (∀ sp, ∃ d, exec (.retuneReq p l sp) s = .next { s with dev := d } ∧
      let come := decide (((s.dev.port p).rxSeq + 1 - sp).toNat < 512)
      d.port p = { s.dev.port p with
        retuning := some l, retuneMine := false, rejoin := false, switchPt := sp, agreed := true, rejoinPt := none, asked := false,
        ctrl := (s.dev.port p).ctrl ++ [.retuneAck], active := if come then (s.dev.port p).active &&& ~~~ (laneBit l) else (s.dev.port p).active } ∧
      (come = true → (d.evtReg (.elkEvt p)).getLsbD 0 = true) ∧ (∀ q, q ≠ p → d.port q = s.dev.port q) ∧
      s.dev.OnlyIn [.links, .evt, .evc] d)) ∧
  (∀ (s : State) (p : PortNo) (l : LaneNo), (s.dev.port p).mayRejoin l = true → ∃ d, exec (.retuneCheck p l .rejoin) s = .next { s with dev := d } ∧
    (d.port p).retuning = some l ∧ (d.port p).retuneMine = true ∧ (d.port p).active = (s.dev.port p).active ∧ s.dev.OnlyIn [.links, .draws] d) ∧
  (∀ (s : State) (p : PortNo) (l : LaneNo), Tbl.get 0 (s.dev.port p).fixed l.toNat ≤ s.dev.links.retuneAt ∨ (s.dev.port p).mayRetune l = false →
    ∃ d, exec (.retuneCheck p l .symbols) s = .next { s with dev := d } ∧ s.dev.OnlyIn [.links] d ∧
      d.port p = { s.dev.port p with fixed := Tbl.set 0 (s.dev.port p).fixed l.toNat 0 } ∧ (∀ q, q ≠ p → d.port q = s.dev.port q)) ∧
  (∀ (s : State) (p : PortNo) (l : LaneNo), (s.dev.port p).st = .up → (s.dev.port p).retuning = some l →
    ((s.dev.port p).retuneMine = true → (s.dev.port p).active.getLsbD l.toNat = true →
      ∃ d, exec (.retuneAck p) s = .next { s with dev := d } ∧
        let come := decide (((s.dev.port p).txSeq - (s.dev.port p).switchPt).toNat < 512)
        d.port p = { s.dev.port p with
          agreed := true, active := if come then (s.dev.port p).active &&& ~~~ (laneBit l) else (s.dev.port p).active } ∧
        (come = true → (d.evtReg (.elkEvt p)).getLsbD 0 = true) ∧
        (∀ q, q ≠ p → d.port q = s.dev.port q) ∧ s.dev.OnlyIn [.links, .evt, .evc] d) ∧
    (∀ fl : RxFlit, (s.dev.port p).retuneMine = false → (s.dev.port p).agreed = true → (s.dev.port p).rejoinPt = none →
      (s.dev.port p).active.getLsbD l.toNat = true → fl.crcOk = true → fl.ft = 1 → fl.fseq = (s.dev.port p).rxSeq + 1 →
      (s.dev.port p).switchPt = fl.fseq + 1 → ∃ d, exec (.flitReceive p fl) s = .next { s with dev := d } ∧
        (d.port p).active.getLsbD l.toNat = false ∧ (d.port p).retuning = some l) ∧
    ((s.dev.port p).active.getLsbD l.toNat = false →
      (∃ u, exec (.retuneDone p true) s = .next u ∧ (u.dev.port p).rejoin = true ∧ Tbl.get 0 (u.dev.port p).fails l.toNat = 0 ∧
        ((s.dev.port p).retuneMine = true → ∃ pt, (u.dev.port p).rejoinPt = some pt ∧ 1 ≤ (pt - (s.dev.port p).txSeq).toNat ∧
          (u.dev.port p).ctrl = (s.dev.port p).ctrl ++ [.retuneDone true, .width pt]) ∧
        (u.dev.port p).retuning = some l ∧ (u.dev.port p).active = (s.dev.port p).active ∧ u.nv = s.nv ∧ u.host = s.host ∧
        s.dev.OnlyIn [.links, .draws] u.dev) ∧
      (∃ u, exec (.retuneDone p false) s = .next u ∧ (u.dev.port p).retuning = none ∧
        Tbl.get 0 (u.dev.port p).fails l.toNat = Tbl.get 0 (s.dev.port p).fails l.toNat + 1 ∧
        (u.dev.port p).active.getLsbD l.toNat = false ∧ (u.dev.evtReg (.elkEvt p)).getLsbD 1 = true ∧
        (3 ≤ Tbl.get 0 (s.dev.port p).fails l.toNat + 1 → (u.dev.port p).retired.getLsbD l.toNat = true) ∧ u.host = s.host ∧
        u.dev.cores = s.dev.cores)) ∧
    ((s.dev.port p).rejoin = true → (s.dev.port p).retuneMine = false → (s.dev.port p).active.getLsbD l.toNat = false → ∀ pt,
      ∃ d, exec (.width p pt) s = .next { s with dev := d } ∧
      (if ((s.dev.port p).rxSeq + 1 - pt).toNat < 512
       then (d.port p).active = (s.dev.port p).active ||| laneBit l ∧ (d.port p).retuning = none ∧ (d.port p).rejoin = false
       else (d.port p).active = (s.dev.port p).active ∧ (d.port p).retuning = some l ∧ (d.port p).rejoinPt = some pt) ∧
      (d.port p).retry = (s.dev.port p).retry ∧ (∀ q, q ≠ p → d.port q = s.dev.port q) ∧
      s.dev.OnlyIn [.links, .evt, .evc, .cnt, .tot] d))

/-- Commands, beats and requests between members (R333, R338, R344, R351, R508). RCMD enters the head's command in the tag table of its satellite,
or is answered at once; RDONE tells the head the outcome and lets what waited go on; MGMT carries a request to a member and its response
back; BEAT says that its sender is there; the timers send one packet to each other member of the group.
Where the manual is open it rests on the model's choice in log entries 58 and 72. -/
def Obligations.MembersSpeak : Prop :=
  (∀ (s : State) (k : Pkt) (b : List Byte), k.typ = 0x10 → s.dev.mine k = true → s.dev.openBody k = some b → s.dev.links.group = .satellite →
    k.hdr.pepoch = (s.dev.part k.hdr.part).epoch →
    let x := Desc.ofBytes b
    let d0 := (s.dev.processed k).seeXid k
    let ctx : W64 := BitVec.ofNat 64 (leNat ((b.drop 64).take 8))
    (d0.acceptCheck x false k.hdr.part = none → d0.covered x = false → ∃ d, exec (.rcmd k) s = .next { s with dev := d } ∧
      (d.tagE x.tag).desc = x ∧ (d.tagE x.tag).iss = .head k.hdr.src (d0.extXid k) ctx ∧
      ((d.tagE x.tag).st = .waiting ∨ (d.tagE x.tag).st = .ready) ∧ (d.tagE x.tag).epoch = (s.dev.part x.part).epoch ∧
      (∀ t, t ≠ x.tag → d.tagE t = s.dev.tagE t) ∧ d.tier.mem = s.dev.tier.mem) ∧
    (∀ f, d0.acceptCheck x false k.hdr.part = some f → ∃ d : Dev, exec (.rcmd k) s = .next { s with dev := Dev.answer d 0x11 k (recordBytes d0 x f.1 0 f.2 0 (s.dev.hif.devTime.truncate 32) ++
        natLe 8 ctx.toNat) } ∧ d.cores.tag = s.dev.cores.tag ∧ d.tier = s.dev.tier)) ∧
  (∀ (s : State) (k : Pkt) (b : List Byte), k.typ = 0x11 → s.dev.mine k = true → s.dev.openBody k = some b →
    let t : Tag := BitVec.ofNat 12 (fld (leNat (b.take 8)) 19 8)
    (∃ f ∈ s.dev.links.fwd, f.member = k.hdr.src ∧ f.tag = t ∧ f.xid = k.hdr.xid) → ∃ s1 : State, exec (.rdone k) s = .next s1.pumpRest ∧
      s1.dev.links.fwd = s.dev.links.fwd.filter (fun f => !(f.member == k.hdr.src && f.tag == t)) ∧ s1.dev.cores = s.dev.cores ∧
      s1.dev.tier = s.dev.tier ∧ s1.host = s.host ∧
      ∀ n, (s.dev.plan n).st = .active → (s1.dev.plan n).cmds = (s.dev.plan n).cmds.map (fun c =>
        if c.member = k.hdr.src ∧ c.tag = t ∧ c.done = none then
          { c with done := some (BitVec.ofNat 8 (fld (leNat (b.take 8)) 7 0), BitVec.ofNat 16 (fld (leNat (b.take 8)) 63 48)),
                   mass := if k.hdr.src = 0 then s.dev.massOf c.desc (BitVec.ofNat 8 (fld (leNat (b.take 8)) 7 0)) else [] } else c)) ∧
  (∀ (s : State) (k : Pkt) (b : List Byte), k.typ = 0x20 → s.dev.mine k = true → s.dev.openBody k = some b →
    (s.dev.links.group = .satellite → ∀ o, opOf (leNat ((b.drop 1).take 1)) (b.drop 8) = some o →
      let e := leNat ((b.drop 3).take 2) * 256 + leNat ((b.drop 5).take 1)
      let p := pathOf (leNat (b.take 1))
      let r := ({ s with dev := (s.dev.processed k).seeXid k } : State).odLocal p o e
      exec (.mgmt k) s = .next { r.2 with dev := r.2.dev.answer 0x20 k (mgmtBody p (leNat ((b.drop 1).take 1) + 128) (leNat
        ((b.drop 2).take 1)) e r.1.result (r.1.typ.toNat * 16 + r.1.access.toNat) r.1.value) }) ∧
    (s.dev.links.group ≠ .satellite → ∀ x, s.dev.links.bridged.find? (fun x => x.member == k.hdr.src && x.xid == k.hdr.xid) = some x →
      ∃ d, exec (.mgmt k) s = .next { s with dev := d } ∧ d.links.bridged = s.dev.links.bridged.filter (· ≠ x) ∧
        (∃ r, Tbl.get none d.od.resp (OdPath.num x.path) = some r ∧ r.result = BitVec.ofNat 8 (leNat ((b.drop 6).take 1)) ∧
          r.value = b.drop 8) ∧ s.dev.OnlyIn [.links, .od] d)) ∧
  (∀ (s : State) (k : Pkt) (b : List Byte), k.typ = 0x30 → s.dev.mine k = true → s.dev.openBody k = some b →
    (s.dev.memberOf k.hdr.src.toNat).present = true → ∃ d, exec (.beat k) s = .next { s with dev := d } ∧
      d.memberOf k.hdr.src.toNat = { s.dev.memberOf k.hdr.src.toNat with beat := s.dev.now } ∧
      (∀ m, m ≠ k.hdr.src.toNat → d.memberOf m = s.dev.memberOf m) ∧ s.dev.OnlyIn [.links] d) ∧
  (∀ (s : State) (m : Nat), m ∈ s.dev.beatTo → s.dev.beatTo.Nodup → (∀ m ∈ s.dev.beatTo, m < 64) →
    (∀ e ∈ s.dev.links.xid, e.2 + 1 < 2 ^ 52) →
    (∃ u, exec .beatTimer s = .next u ∧ Tbl.get 0 u.dev.links.xid m = Tbl.get 0 s.dev.links.xid m + 1 ∧ u.dev.cores = s.dev.cores ∧
      u.dev.hif = s.dev.hif ∧ u.host = s.host ∧ u.nv = s.nv) ∧
    (s.dev.links.group ≠ .satellite → ∃ u, exec .timeExchangeTimer s = .next u ∧
      Tbl.get 0 u.dev.links.xid m = Tbl.get 0 s.dev.links.xid m + 1 ∧ u.dev.cores = s.dev.cores ∧ u.dev.hif = s.dev.hif ∧
      u.host = s.host ∧ u.nv = s.nv))

/-- A group forms and ends (R334 to R337, R351, R352, R360). Formation over what discovery found makes the head GROUPED, with the members in order,
or leaves it SOLO with the failing check's code; a device joins, takes routes and leaves as the head says; a member is added or removed; a
member lost leaves the head DEGRADED; a satellite without its head returns to SOLO; a
member's level reported meets the figures of the plans that name it again, where it is a lower one (R474).
Where the manual is open it rests on the model's choice in log entries 45, 61, 63 and 77. -/
def Obligations.GroupsFormAndEnd : Prop :=
  (∀ (s : State) (found : List Found),
    let d := s.dev.groupRuns 1
    d.links.cmd = 1 → d.links.group = .forming →
    (d.links.ordered found = none → ∃ e, exec (.groupForm found) s = .next { s with dev := e } ∧ e.links.group = .solo ∧ e.links.cmd = 0 ∧
      e.links.result = 6 ∧ (e.evtReg .elkGevt).getLsbD 0 = true ∧ s.dev.OnlyIn [.links, .evt, .evc, .cnt, .tot, .draws] e) ∧
    (∀ os, d.links.ordered found = some os →
      let g := (d.setMember 0 ⟨true, ownSerial, d.now, 0⟩).enterMembers os
      ((g.adjMutual = false ∨ topologyOf g.adj (os.length + 1) = none) → ∃ e, exec (.groupForm found) s = .next { s with dev := e } ∧
        e.links.group = .solo ∧ e.links.cmd = 0 ∧ e.links.result = 1 ∧ s.dev.OnlyIn [.links, .evt, .evc, .cnt, .tot, .draws] e) ∧
      (g.adjMutual = true → ∀ t, topologyOf g.adj (os.length + 1) = some t →
        (∀ n, os.findSome? (fun f => joinNo f.2) = some n → ∃ e, exec (.groupForm found) s = .next { s with dev := e } ∧
          e.links.group = .solo ∧ e.links.cmd = 0 ∧ e.links.result = BitVec.ofNat 8 n ∧ s.dev.OnlyIn [.links, .evt, .evc, .cnt, .tot, .draws] e) ∧
        (os.findSome? (fun f => joinNo f.2) = none → ∃ e, exec (.groupForm found) s = .next { s with dev := e } ∧
          e.links.group = .grouped ∧ e.links.member = 0 ∧ e.links.size = os.length + 1 ∧ e.links.topology = t.1 ∧ e.links.cmd = 0 ∧
          e.links.result = 0 ∧ (e.evtReg .elkGevt).getLsbD 1 = true ∧
          (∀ i, i < os.length → (e.memberOf (i + 1)).present = true ∧ ∀ x, os[i]? = some x → (e.memberOf (i + 1)).serial = x.2.serial) ∧
          e.cores = s.dev.cores ∧ e.tier = s.dev.tier ∧ e.srv = s.dev.srv ∧ e.hif = s.dev.hif)))) ∧
  (∀ (s : State), (s.dev.groupRuns 2).links.cmd = 2 → ∃ u, exec .groupDissolve s = .next u ∧ u.dev.links.group = .solo ∧
    u.dev.links.size = 1 ∧ u.dev.links.cmd = 0 ∧ u.dev.links.result = 0 ∧ u.dev.links.route = [] ∧ u.dev.links.fwd = []) ∧
  (∀ (s : State) (m : MemberNo) (f : Found) (i : Nat),
    let d := s.dev.groupRuns (0x100 + m.toNat)
    d.links.cmd.toNat = 0x100 + m.toNat → (d.links.group = .grouped ∨ d.links.group = .degraded) → d.addNo m.toNat f.serial = some i →
    (∀ n, joinNo f = some n → ∃ e, exec (.groupAdd m (some f)) s = .next { s with dev := e } ∧ e.links.cmd = 0 ∧
      e.links.result = BitVec.ofNat 8 n ∧ e.links.members = s.dev.links.members ∧ e.links.group = s.dev.links.group) ∧
    (joinNo f = none → ∃ e, exec (.groupAdd m (some f)) s = .next { s with dev := e } ∧ e.links.cmd = 0 ∧
      ((e.links.result = 1 ∧ e.links.members = s.dev.links.members) ∨
        (e.links.result = 0 ∧ e.memberOf i = ⟨true, f.serial, s.dev.now, 0⟩ ∧ e.links.size = s.dev.links.size + 1 ∧
          (e.evtReg .elkGevt).getLsbD 1 = true)) ∧ e.cores = s.dev.cores ∧ e.tier = s.dev.tier ∧ e.srv = s.dev.srv)) ∧
  (∀ (s : State) (m : MemberNo),
    let d := s.dev.groupRuns (0x200 + m.toNat)
    d.links.cmd.toNat = 0x200 + m.toNat → m ≠ 0 → d.memberNos.contains m.toNat = true →
    ((d.srv.plan.any fun p => p.2.names m.toNat) = true → ∃ u, exec (.groupRemove m) s = .next u ∧ u.dev.links.result = 4 ∧
      u.dev.links.members = s.dev.links.members) ∧
    ((d.srv.plan.any fun p => p.2.names m.toNat) = false →
      ((d.memberOf m.toNat).present = false ∨ d.adj.connected (d.presentNos.filter (· ≠ m.toNat)) = true) →
      ∃ u, exec (.groupRemove m) s = .next u ∧ u.dev.links.result = 0 ∧ u.dev.links.cmd = 0 ∧ u.dev.memberOf m.toNat = Member.reset ∧
        u.dev.links.size = s.dev.links.size - 1 ∧ (∀ x ∈ u.dev.links.src, x.member ≠ m) ∧ (∀ x ∈ u.dev.links.dst, x.src ≠ m))) ∧
  (∀ (s : State) (k : Pkt) (b : List Byte) (m : MemberNo) (size : BitVec 7) (v : BitVec 16), k.typ = 0x40 → s.dev.mine k = true →
    s.dev.openBody k = some b → s.dev.mayJoin v = true → ∃ d, exec (.group ⟨k, .join m size v⟩) s = .next { s with dev := d } ∧
    v = 0x0001 ∧
    d.links.group = .satellite ∧ d.links.member = m ∧ d.links.size = size.toNat ∧ d.links.fresh = true ∧ d.hif.mboxReady = false ∧
    (d.evtReg .elkGevt).getLsbD 1 = true ∧ s.dev.OnlyIn [.links, .hif, .evt, .evc] d) ∧
  (∀ (s : State) (k : Pkt) (b : List Byte), k.typ = 0x40 → s.dev.mine k = true → s.dev.openBody k = some b →
    s.dev.links.group = .satellite → ∃ d, exec (.group ⟨k, .leave⟩) s = .next { s with dev := d } ∧ d.links.group = .solo ∧
    d.links.size = 1 ∧ d.links.route = [] ∧ (d.evtReg .elkGevt).getLsbD 1 = true ∧ (∀ t, (d.tagE t).live = false)) ∧
  (∀ (s : State) (k : Pkt) (b : List Byte) (size : BitVec 7) (t : BitVec 3) (r : List (MemberNo × BitVec 32)), k.typ = 0x40 →
    s.dev.mine k = true → s.dev.openBody k = some b → s.dev.links.group = .satellite → (r.map (·.1)).Nodup →
    ∃ d, exec (.group ⟨k, .routes size t r⟩) s = .next { s with dev := d.toldLevel 0 } ∧ s.dev.OnlyIn [.links] d ∧
      d.links.size = size.toNat ∧ d.links.topology = t.toNat ∧
      ∀ e ∈ r, d.routeTo e.1 = if e.2.getLsbD 15 then
        ⟨e.2.extractLsb' 16 4, true, e.2.extractLsb' 8 6, e.2.extractLsb' 0 8⟩ else Route.reset) ∧
  (∀ (s : State) (k : Pkt) (b : List Byte) (l : BitVec 3), k.typ = 0x40 → s.dev.mine k = true → s.dev.openBody k = some b →
    isHead s.dev.links.group = true → (s.dev.memberOf k.hdr.src.toNat).present = true →
    let v := s.dev.memberOf k.hdr.src.toNat
    let d := ((s.dev.processed k).seeXid k).setMember k.hdr.src.toNat { v with level := l.toNat }
    exec (.group ⟨k, .level l⟩) s = .next (if v.level < l.toNat then State.refitPlans { s with dev := d } (fun p => p.names k.hdr.src.toNat) l.toNat
      else { s with dev := d })) ∧
  (∀ (s : State) (m : MemberNo), s.dev.isLost m.toNat = true → ∃ s1 : State, exec (.memberLoss m) s = .next s1.pumpRest ∧
    (s1.dev.memberOf m.toNat).present = false ∧ s1.dev.links.group = .degraded ∧ (s1.dev.evtReg .elkGevt).getLsbD 2 = true ∧
    (∀ x ∈ s1.dev.links.src, x.member ≠ m) ∧ (∀ x ∈ s1.dev.links.dst, x.src ≠ m)) ∧
  (∀ (s : State), s.dev.links.group = .satellite → (s.dev.memberOf 0).beat + s.dev.links.lossMs * 1000000 ≤ s.dev.now →
    ∃ d, exec .headLoss s = .next { s with dev := d } ∧ d.links.group = .solo ∧ d.links.size = 1 ∧ (d.evtReg .elkGevt).getLsbD 3 = true ∧
      (∀ t, (d.tagE t).live = false))

/-- Firing (R395 to R398, R405). A unit that sets a defined event bit sets it in its register, and each source it belongs to counts up to 255, becomes
pending and arms its group where it is enabled; in NAP and DEEP only the sources 0x90 to 0xAF fire; software sources fire as their bits are
written, and a counter is cleared by a write.
Where the manual is open it rests on the model's choice in log entry 31. -/
def Obligations.SourcesFire : Prop :=
  (∀ (s : State) (r : EvtReg) (bit : BitVec 5), (BitVec.ofNat 32 (evtMask r)).getLsbD bit.toNat = true →
    ∃ d, exec (.sourceFire r bit) s = .next { s with dev := d } ∧
      (∀ i, i < 32 → (d.evtReg r).getLsbD i = ((s.dev.evtReg r).getLsbD i || decide (i = bit.toNat))) ∧
      (∀ q, evtKey q ≠ evtKey r → d.evtReg q = s.dev.evtReg q) ∧ s.dev.OnlyIn [.evt, .evc] d ∧
      (s.dev.evc.retained = none → ∀ n ∈ evtSources r (2 ^ bit.toNat), d.evc.core.pend.getLsbD n = true ∧
        Tbl.get 0 d.evc.core.count n = (if Tbl.get (0 : BitVec 8) s.dev.evc.core.count n = 255 then 255
          else Tbl.get (0 : BitVec 8) s.dev.evc.core.count n + 1) ∧
        (s.dev.evc.core.enable.getLsbD n = true → d.evc.core.armed.getLsbD (n / 16) = true)) ∧
      (s.dev.evc.retained = none → ∀ n, n ∉ evtSources r (2 ^ bit.toNat) → n < 256 →
        d.evc.core.pend.getLsbD n = s.dev.evc.core.pend.getLsbD n ∧
        Tbl.get 0 d.evc.core.count n = Tbl.get (0 : BitVec 8) s.dev.evc.core.count n) ∧
      (s.dev.evc.retained.isSome = true → (∀ n ∈ evtSources r (2 ^ bit.toNat), n < 0x90 ∨ 0xAF < n) → d.evc = s.dev.evc) ∧
      d.evc.core.enable = s.dev.evc.core.enable ∧ d.evc.core.gdis = s.dev.evc.core.gdis ∧ d.evc.core.hoRun = s.dev.evc.core.hoRun) ∧
  (∀ (s : State) (v : W32), s.dev.evc.retained = none → ∃ d, exec (.evcSwset v) s = .next { s with dev := d } ∧
    (∀ i, i < 16 → v.getLsbD i = true → d.evc.core.pend.getLsbD (0xD0 + i) = true ∧
      Tbl.get 0 d.evc.core.count (0xD0 + i) = (if Tbl.get (0 : BitVec 8) s.dev.evc.core.count (0xD0 + i) = 255 then 255
        else Tbl.get (0 : BitVec 8) s.dev.evc.core.count (0xD0 + i) + 1)) ∧
    (∀ n, n < 0xD0 → d.evc.core.pend.getLsbD n = s.dev.evc.core.pend.getLsbD n) ∧ s.dev.OnlyIn [.evc] d) ∧
  (∀ (s : State) (v : W32), ∃ d, exec (.evcCntclr v) s = .next { s with dev := d } ∧
    (v.getLsbD 8 = true → d.evc.core.count = []) ∧
    (v.getLsbD 8 = false → Tbl.get (0 : BitVec 8) d.evc.core.count (v.extractLsb' 0 8).toNat = 0 ∧
      ∀ n, n ≠ (v.extractLsb' 0 8).toNat → Tbl.get (0 : BitVec 8) d.evc.core.count n = Tbl.get 0 s.dev.evc.core.count n) ∧
    d.evc.core.pend = s.dev.evc.core.pend ∧ d.evc.core.enable = s.dev.evc.core.enable ∧ d.evc.core.sat = s.dev.evc.core.sat ∧
    s.dev.OnlyIn [.evc] d)

/-- Enables and delivery (R399 to R403, R408, R409). A write of EVC_EN sets the enables of its 32 sources that exist; a group is then armed only if
it requests delivery, and one with a source newly enabled and pending is; releasing GDIS arms every group that requests; a group that can
deliver sends one message or interrupt, stops being armed and starts its hold-off of 2^(n - 1) µs, and one that cannot changes nothing; the timer ends once its time is over and not before.
Where the manual is open it rests on the model's choice in log entry 31. -/
def Obligations.GroupsDeliver : Prop :=
  (∀ (s : State) (j : BitVec 3) (v : W32), ∃ d, exec (.evcEnWrite j v) s = .next { s with dev := d } ∧
    (∀ n, n < 256 → d.evc.core.enable.getLsbD n =
      (if n / 32 = j.toNat then v.getLsbD (n % 32) && sourceMask.getLsbD n else s.dev.evc.core.enable.getLsbD n)) ∧
    (∀ g, g < 16 → d.evc.core.armed.getLsbD g = true → d.evc.core.req g = true) ∧
    (∀ n, n < 256 → n / 32 = j.toNat → v.getLsbD (n % 32) = true → sourceMask.getLsbD n = true → s.dev.evc.core.pend.getLsbD n = true →
      d.evc.core.armed.getLsbD (n / 16) = true) ∧
    d.evc.core.pend = s.dev.evc.core.pend ∧ d.evc.core.count = s.dev.evc.core.count ∧ s.dev.OnlyIn [.evc] d) ∧
  (∀ (s : State) (v : W32), ∃ d, exec (.evcGdisWrite v) s = .next { s with dev := d } ∧ d.evc.core.gdis = v.getLsbD 0 ∧
    (v.getLsbD 0 = true → d.evc.core.armed = s.dev.evc.core.armed) ∧
    (v.getLsbD 0 = false → ∀ g, g < 16 → d.evc.core.armed.getLsbD g = (s.dev.evc.core.armed.getLsbD g || s.dev.evc.core.req g)) ∧
    d.evc.core.pend = s.dev.evc.core.pend ∧ d.evc.core.enable = s.dev.evc.core.enable ∧ s.dev.OnlyIn [.evc] d) ∧
  (∀ (s : State) (g : BitVec 4), s.dev.delivers g.toNat = true → ∃ u, exec (.groupDelivery g) s = .next u ∧
    u.dev.evc.core.armed.getLsbD g.toNat = false ∧
    (∀ k, k ≠ g.toNat → u.dev.evc.core.armed.getLsbD k = s.dev.evc.core.armed.getLsbD k) ∧
    (Tbl.get (0 : BitVec 4) s.dev.evc.core.holdoff g.toNat ≠ 0 → u.dev.evc.core.hoRun.getLsbD g.toNat = true ∧
      u.dev.evc.core.hoEnd g.toNat = s.dev.now + 1000 * 2 ^ ((Tbl.get (0 : BitVec 4) s.dev.evc.core.holdoff g.toNat).toNat - 1)) ∧
    u.dev.evc.core.pend = s.dev.evc.core.pend ∧
    (s.dev.cpTakes g.toNat = true → u.dev.evc.cpInts = s.dev.evc.cpInts + 1 ∧
      u.dev.evc.cpLine.getLsbD (Tbl.get (0 : BitVec 2) s.dev.evc.core.cp g.toNat).toNat = true) ∧
    (let k := msixKey 0 (Tbl.get (0 : BitVec 6) s.dev.evc.core.vector g.toNat).toNat
     (s.dev.msiTakes g.toNat = true → u.dev.evc.sent = s.dev.evc.sent + 1 ∧
       (Tbl.get false s.dev.hif.msixOn k = true → u.host =
         Memory.writeLe s.host (Tbl.get 0 s.dev.hif.msixAddr k).toNat 4 (Tbl.get 0 s.dev.hif.msixData k).toNat) ∧
       (Tbl.get false s.dev.hif.msixOn k = false → Tbl.get false u.dev.hif.msixPend k = true ∧ u.host = s.host)) ∧
     (s.dev.msiTakes g.toNat = false → u.dev.evc.sent = s.dev.evc.sent ∧ u.host = s.host)) ∧ s.dev.OnlyIn [.evc, .hif] u.dev) ∧
  (∀ (s : State) (g : BitVec 4), s.dev.delivers g.toNat = false → exec (.groupDelivery g) s = .next s) ∧
  (∀ (s : State) (g : BitVec 4), s.dev.evc.retained = none → s.dev.evc.core.hoRun.getLsbD g.toNat = true → s.dev.evc.core.hoEnd g.toNat ≤ s.dev.now →
    ∃ d, exec (.groupHoldoffExpiry g) s = .next { s with dev := d } ∧ d.evc.core.hoRun.getLsbD g.toNat = false ∧
    (∀ k, k ≠ g.toNat → d.evc.core.hoRun.getLsbD k = s.dev.evc.core.hoRun.getLsbD k) ∧ d.evc.core.armed = s.dev.evc.core.armed ∧
    d.evc.core.pend = s.dev.evc.core.pend ∧ s.dev.OnlyIn [.evc] d) ∧
  (∀ (s : State) (g : BitVec 4), (s.dev.evc.retained.isSome = true ∨ s.dev.evc.core.hoRun.getLsbD g.toNat = false ∨ s.dev.now < s.dev.evc.core.hoEnd g.toNat) →
    exec (.groupHoldoffExpiry g) s = .next s)

/-- Staging (R427, R432 to R434). A STAGE turned away leaves its code in the result of its path; one that passes takes the stager's lock, makes its
component WRITING and its other area blank; the end of the staging leaves a valid copy STAGED and an invalid one IDLE and blank with the
failing check's code; a lock unused for 60 s is given back; CANCEL takes back what is armed or pending; ABORT ends a staging and a trial.
Where the manual is open it rests on the model's choice in log entries 7 and 79. -/
def Obligations.StagingChecksItsCopy : Prop :=
  (∀ (s : State) (p : CmdPath) (mask : BitVec 8) (r : Nat), s.dev.stageNo p mask.toNat = some r →
    ∃ d, exec (.fwStage p mask) s = .next { s with dev := d } ∧ d.fw.comp = s.dev.fw.comp ∧ d.fw.stager = s.dev.fw.stager ∧
      (p = .host → d.fw.result = BitVec.ofNat 32 (lowComp mask.toNat * 256 + r) ∧ d.fw.resultMgmt = s.dev.fw.resultMgmt) ∧
      (p = .mgmt → d.fw.resultMgmt = BitVec.ofNat 32 (lowComp mask.toNat * 256 + r) ∧ d.fw.result = s.dev.fw.result) ∧
      s.dev.OnlyIn [.fw] d) ∧
  (∀ (s : State) (p : CmdPath) (mask : BitVec 8), s.dev.stageNo p mask.toNat = none →
    let c := lowComp mask.toNat
    ∃ u, exec (.fwStage p mask) s = .next u ∧ (u.dev.comp c).st = .writing ∧ (u.dev.comp c).run = (s.dev.comp c).run ∧
      u.dev.fw.stageComp = some (BitVec.ofNat 3 c) ∧ u.dev.fw.stager = (if p = .host then 1 else 2) ∧ u.dev.fw.lastAt = s.dev.now ∧
      u.nv.copy (!(s.dev.comp c).runB) c = FwCopy.blank ∧ u.nv.copy (s.dev.comp c).runB c = s.nv.copy (s.dev.comp c).runB c ∧
      (∀ k, k ≠ c → u.dev.comp k = s.dev.comp k) ∧ u.host = s.host ∧ u.nv.boot = s.nv.boot ∧ s.dev.OnlyIn [.fw, .tier] u.dev) ∧
  (∀ (s : State) (n : CompNo), s.dev.fw.stageComp = some n →
    let c := n.toNat
    let v := FwCopy.ofBytes c s.dev.stageBytes
    (s.nv.invalid c v = none → ∃ u, exec .stagingDone s = .next u ∧ (u.dev.comp c).st = .staged ∧ u.dev.fw.stageComp = none ∧
      u.dev.fw.stager = 0 ∧ u.nv.copy (!(s.dev.comp c).runB) c = v ∧ (u.dev.evtReg .fwEvt).getLsbD 0 = true ∧
      u.nv.copy (s.dev.comp c).runB c = s.nv.copy (s.dev.comp c).runB c ∧ u.host = s.host ∧ s.dev.OnlyIn [.fw, .tier, .evt, .evc] u.dev) ∧
    (∀ r, s.nv.invalid c v = some r → ∃ u, exec .stagingDone s = .next u ∧ (u.dev.comp c).st = .idle ∧ u.dev.fw.stageComp = none ∧
      u.nv.copy (!(s.dev.comp c).runB) c = FwCopy.blank ∧ (u.dev.evtReg .fwEvt).getLsbD 1 = true ∧
      (s.dev.fw.stager ≠ 2 → u.dev.fw.result = BitVec.ofNat 32 (c * 256 + r)) ∧ u.host = s.host ∧
      s.dev.OnlyIn [.fw, .tier, .evt, .evc] u.dev)) ∧
  (∀ (s : State), s.dev.fw.stager ≠ 0 → s.dev.fw.stageComp = none → s.dev.fw.lastAt + 60000000000 ≤ s.dev.now →
    ∃ d, exec .stagingLockTimeout s = .next { s with dev := d } ∧ d.fw.stager = 0 ∧ d.fw.comp = s.dev.fw.comp ∧ s.dev.OnlyIn [.fw, .tier] d) ∧
  (∀ (s : State) (p : CmdPath) (mask : BitVec 8), s.dev.noLease p = false → mask ≠ 0 →
    (∀ c, c < 8 → mask.getLsbD c = true → (s.dev.comp c).st = .pending ∨ (s.dev.comp c).st = .armed) →
    ∃ u, exec (.fwCancel p mask) s = .next u ∧ u.host = s.host ∧ u.nv.area = s.nv.area ∧
      (p = .host → u.dev.fw.result = BitVec.ofNat 32 (lowComp mask.toNat * 256)) ∧
      (∀ c, c < 8 → mask.getLsbD c = true → (u.dev.comp c).st = .staged ∧
        ((s.dev.comp c).st = .armed → (u.dev.comp c).run = (s.dev.comp c).run ∧ u.nv.recordNow.next.getLsbD c = false) ∧
        ((s.dev.comp c).st = .pending → (s.dev.comp c).switched = true →
          (u.dev.comp c).runB = !(s.dev.comp c).runB ∧ (u.dev.comp c).run = s.nv.copy (!(s.dev.comp c).runB) c))) ∧
  (∀ (s : State) (p : CmdPath) (mask : BitVec 8), s.dev.noLease p = false → mask ≠ 0 →
    (∀ c, c < 8 → mask.getLsbD c = true → (s.dev.comp c).st = .writing ∨ (s.dev.comp c).st = .trial) →
    ∃ u, exec (.fwAbort p mask) s = .next u ∧ u.host = s.host ∧
      (∀ c, c < 8 → mask.getLsbD c = true → (u.dev.comp c).st = .idle ∧
        ((s.dev.comp c).st = .writing → u.nv.copy (!(s.dev.comp c).runB) c = FwCopy.blank ∧ (u.dev.comp c).run = (s.dev.comp c).run) ∧
        ((s.dev.comp c).st = .trial → (u.dev.comp c).runB = !(s.dev.comp c).runB)) ∧
      (∀ c, mask.getLsbD c = false → u.dev.comp c = s.dev.comp c))

/-- Activation and commit (R417, R426, R428, R429, R433, R436). A RESET activation arms its components for the next boot; a LIVE one makes them PENDING
and, component by component in a quiet window, switches each to its checked copy; the last switch starts the trial; COMMIT and the end of
the trial time raise the floor to what runs; a fault in a LIVE trial goes back to the old copy. SUPV switches CP by CP, CP3 first and CP0 last; HIF its
standby, then, its roles swapped, the other instance. A fault is a watchdog, an assertion, or an access outside what R415 gives the component; that of
the active HIF instance swaps the roles, any other is Safe Hold of the device.
Where the manual is open it rests on the model's choice in log entries 7 and 79. -/
def Obligations.ActivationSwitchesCommitsAndRollsBack : Prop :=
  (∀ (s : State) (p : CmdPath) (mask : BitVec 8) (rm : Bool),
    (∀ r, s.actNo p mask.toNat rm = some r → ∃ d, exec (.fwActivate p mask rm) s = .next { s with dev := d } ∧ d.fw.comp = s.dev.fw.comp ∧
      (p = .host → d.fw.result = BitVec.ofNat 32 (lowComp mask.toNat * 256 + r)) ∧ s.dev.OnlyIn [.fw] d) ∧
    (s.actNo p mask.toNat rm = none → ∃ u, exec (.fwActivate p mask rm) s = .next u ∧ u.host = s.host ∧ u.nv.area = s.nv.area ∧
      (∀ c, c < 8 → mask.getLsbD c = true → (u.dev.comp c).run = (s.dev.comp c).run ∧
        (u.dev.comp c).st = (if rm then .armed else .pending) ∧ (rm = true → u.nv.recordNow.next.getLsbD c = true)) ∧
      (∀ c, mask.getLsbD c = false → u.dev.comp c = s.dev.comp c) ∧
      (rm = false → u.nv = s.nv ∧ u.dev.fw.actFrom = (if s.dev.emergency then none else some s.dev.now)) ∧
      s.dev.OnlyIn [.fw, .evt, .evc] u.dev)) ∧
  (∀ (s : State) (n : CompNo),
    let c := n.toNat
    let k := s.dev.comp c
    k.st = .pending → k.switched = false → s.dev.emergency = false → s.dev.fw.actFrom ≠ none →
    (∀ i, i < c → (s.dev.comp i).st = .pending → (s.dev.comp i).switched = true) →
    (s.dev.quiet c = false → ∃ d, exec (.componentSwitch n) s = .next { s with dev := d } ∧ d.comp c = { k with reason := 2 } ∧
      s.dev.OnlyIn [.fw] d) ∧
    (s.dev.quiet c = true → s.nv.invalid c (s.nv.copy (!k.runB) c) = none → s.dev.lastInst c = false → ∃ d, exec (.componentSwitch n) s = .next { s with dev := d } ∧
      d.comp c = { k with insts := s.dev.nextInsts c, reason := 0 } ∧ (∀ i, i ≠ c → d.comp i = s.dev.comp i) ∧
      (c = 1 → d.fw.hifB = !s.dev.fw.hifB) ∧ (c ≠ 1 → d.fw.hifB = s.dev.fw.hifB) ∧ s.dev.OnlyIn [.fw] d) ∧
    (s.dev.quiet c = true → s.nv.invalid c (s.nv.copy (!k.runB) c) = none → s.dev.lastInst c = true → ∃ u, exec (.componentSwitch n) s = .next u ∧
      (u.dev.comp c).run = s.nv.copy (!k.runB) c ∧ (u.dev.comp c).runB = !k.runB ∧ u.host = s.host ∧ u.nv.area = s.nv.area ∧
      u.dev.fw.hifB = s.dev.fw.hifB ∧
      ((∃ i, i < 8 ∧ i ≠ c ∧ (s.dev.comp i).st = .pending ∧ (s.dev.comp i).switched = false) →
        (u.dev.comp c).st = .pending ∧ (u.dev.comp c).switched = true ∧ u.nv = s.nv) ∧
      ((∀ i, i < 8 → i ≠ c → (s.dev.comp i).st = .pending → (s.dev.comp i).switched = true) →
        ((s.dev.autoCommit = false ∨ s.dev.trialTime ≠ 0) → (u.dev.comp c).st = .trial ∧ u.nv = s.nv) ∧
        (s.dev.autoCommit = true → s.dev.trialTime = 0 → (u.dev.comp c).st = .idle) ∧ (u.dev.evtReg .fwEvt).getLsbD 3 = true)) ∧
    (s.dev.quiet c = true → ∀ r, s.nv.invalid c (s.nv.copy (!k.runB) c) = some r → ∃ u, exec (.componentSwitch n) s = .next u ∧
      (∀ i, i < 8 → (s.dev.comp i).st = .pending → (u.dev.comp i).st = .staged) ∧ u.nv = s.nv ∧ u.dev.fw.actFrom = none)) ∧
  (∀ (d : Dev),
    ((d.comp 0).insts = 0 → d.switchCp 0 = some 3 ∧ d.lastInst 0 = false) ∧ ((d.comp 0).insts = 8 → d.switchCp 0 = some 2 ∧ d.lastInst 0 = false) ∧
    ((d.comp 0).insts = 12 → d.switchCp 0 = some 1 ∧ d.lastInst 0 = false) ∧ ((d.comp 0).insts = 14 → d.switchCp 0 = some 0 ∧ d.lastInst 0 = true) ∧
    ((d.comp 1).insts = 0 → d.lastInst 1 = false) ∧ (d.fw.hifB = false → (d.comp 1).insts = 1 → d.lastInst 1 = true) ∧
    (d.fw.hifB = true → (d.comp 1).insts = 2 → d.lastInst 1 = true) ∧
    (∀ c, 2 ≤ c → d.lastInst c = true)) ∧
  (∀ (s : State) (t : Nat), s.dev.fw.actFrom = some t → s.dev.compsIn .pending ≠ [] → t + s.dev.actWait * 1000000 ≤ s.dev.now →
    ∃ u, exec .actWaitExpiry s = .next u ∧ (∀ i, i < 8 → (s.dev.comp i).st = .pending → (u.dev.comp i).st = .staged) ∧
      u.dev.fw.actFrom = none ∧ (u.dev.evtReg .fwEvt).getLsbD 6 = true ∧ u.nv = s.nv ∧ u.host = s.host) ∧
  (∀ (s : State) (p : CmdPath) (mask : BitVec 8), s.dev.noLease p = false → mask ≠ 0 →
    (∀ c, c < 8 → mask.getLsbD c = true → (s.dev.comp c).st = .trial) →
    (s.dev.held = false → ∃ u, exec (.fwCommit p mask) s = .next u ∧ (u.dev.evtReg .fwEvt).getLsbD 4 = true ∧
      (∀ c, c < 8 → mask.getLsbD c = true → (u.dev.comp c).st = .idle ∧ (u.dev.comp c).run = (s.dev.comp c).run ∧
        u.nv.floorOf c = max (s.dev.comp c).run.svn (s.nv.floorOf c) ∧ u.nv.recordNow.slotB.getLsbD c = (s.dev.comp c).runB) ∧
      (∀ c, c < 8 → mask.getLsbD c = false → u.dev.comp c = s.dev.comp c ∧ u.nv.floorOf c = s.nv.floorOf c ∧
        u.nv.recordNow.slotB.getLsbD c = s.nv.recordNow.slotB.getLsbD c) ∧ u.nv.area = s.nv.area ∧ u.host = s.host) ∧
    (s.dev.held = true → ∃ d, exec (.fwCommit p mask) s = .next { s with dev := d } ∧ d.fw.comp = s.dev.fw.comp ∧
      (p = .host → d.fw.result = BitVec.ofNat 32 (lowComp mask.toNat * 256 + 0x0A)))) ∧
  (∀ (s : State), s.dev.fw.trialEnd ≠ 0 → s.dev.fw.trialEnd ≤ s.dev.now → s.dev.autoCommit = true → s.dev.held = false →
    ∃ u, exec .trialTimeExpiry s = .next u ∧ (∀ c, c < 8 → (s.dev.comp c).st = .trial → (u.dev.comp c).st = .idle ∧
      u.nv.floorOf c = max (s.dev.comp c).run.svn (s.nv.floorOf c)) ∧ u.dev.fw.trialEnd = 0 ∧ u.nv.area = s.nv.area) ∧
  (∀ (s : State) (n : CompNo) (sb ok : Bool) (w : FwFault),
    let c := n.toNat
    let k := s.dev.comp c
    (s.dev.isFault c sb w = false → exec (.componentFault n ⟨sb, w, ok⟩) s = .next s) ∧
    (s.dev.isFault c sb w = true →
      (k.st = .trial → k.fromReset = false → ok = true → ∃ u, exec (.componentFault n ⟨sb, w, ok⟩) s = .next u ∧ (u.dev.comp c).st = .idle ∧
        (u.dev.comp c).runB = !k.runB ∧ (u.dev.comp c).run = s.nv.copy (!k.runB) c ∧ (u.dev.evtReg .fwEvt).getLsbD 5 = true ∧
        (u.dev.evtReg .fwEvt).getLsbD 9 = true ∧ u.dev.pwr = s.dev.pwr ∧ u.nv = s.nv) ∧
      ((k.st ≠ .trial ∨ k.fromReset = true ∨ ok = false) →
        (c = 1 → sb = false → ∃ u, exec (.componentFault n ⟨sb, w, ok⟩) s = .next u ∧ u.dev.fw.hifB = !s.dev.fw.hifB ∧
          (u.dev.evtReg .fwEvt).getLsbD 10 = true ∧ u.dev.pwr = s.dev.pwr) ∧
        (c ≠ 1 ∨ sb = true → ∃ u, exec (.componentFault n ⟨sb, w, ok⟩) s = .next u ∧ u.dev.pwr.devHold = true)))) ∧
  (∀ (d : Dev) (n m : CompNo) (sb : Bool) (b : FwBlock), d.isFault n.toNat sb .watchdog = true ∧ d.isFault n.toNat sb .assertion = true ∧
    (n ≠ m → d.isFault n.toNat sb (.access (.rings m) .write) = false) ∧
    (let e := d.setMpus
     (n ≠ m → e.isFault n.toNat sb (.access (.code m) .execute) = true ∧ e.isFault n.toNat sb (.access (.data m) .read) = true ∧
       e.isFault n.toNat sb (.access (.rings m) .read) = true) ∧
     e.isFault n.toNat sb (.access (.code n) .execute) = false ∧ e.isFault n.toNat sb (.access (.code n) .write) = true ∧
     e.isFault n.toNat sb (.access (.data n) .write) = false ∧ e.isFault n.toNat sb (.access (.data n) .execute) = true ∧
     e.isFault n.toNat sb (.access (.block b) .write) = !(compBlocks n.toNat).contains b))

/-- Partition commands (R438 to R442, R446, R454, R463, R464). What stands against any command, then what stands against this one, is its result and
changes nothing else; CREATE makes its partition LIVE under a new epoch with keys of its own; REMOVE starts its teardown; ASSIGN hands cores
over with their written bits cleared; BIND_VF and UNBIND_VF set a VF's partition; ROTATE makes a new vintage current.
Where the manual is open it rests on the model's choice in log entries 8, 70 and 71. -/
def Obligations.PartitionCommandsRun : Prop :=
  (∀ (s : State) (p : CmdPath) (c : W32) (i : Instr) (no : Option Nat), (i, secOp c, no) ∈ [(Instr.create p c, 1, s.dev.createNo p c),
      (.remove p c, 2, s.dev.removeNo c), (.assign p c, 3, s.dev.assignNo p c), (.bindVf p c, 4, s.dev.bindNo c), (.unbindVf p c, 5, s.dev.bindNo c),
      (.rotate p c, 6, s.dev.rotateNo c), (.attest p c, 7, s.dev.attestNo c), (.revoke p c, 9, s.revokeNo (s.dev.secArg p))] →
    ∀ r, (s.dev.secNo p c = some r ∨ (s.dev.secNo p c = none ∧ no = some r)) → exec i s = .next { s with dev := s.dev.secResult p (secPart c).toNat r }) ∧
  (∀ (s : State) (p : CmdPath) (c : W32), secOp c = 1 → s.dev.secNo p c = none → s.dev.createNo p c = none →
    ∃ u, exec (.create p c) s = .next u ∧
      (let q := u.dev.part (secPart c)
       q.st = .live ∧ q.conf = secConf c ∧ q.zero = secZero c ∧ q.epoch = (s.dev.part (secPart c)).epoch + 1 ∧ q.keyCur.isSome = true ∧
       q.keyLink.isSome = secConf c ∧ q.keyHost.isSome = secConf c ∧ q.live2 = false) ∧
      (∀ r, r ≠ secPart c → u.dev.part r = s.dev.part r) ∧ (u.dev.evtReg .secEvt).getLsbD 0 = true ∧ u.dev.cores = s.dev.cores ∧
      u.dev.tier.mem = s.dev.tier.mem ∧ u.host = s.host ∧ (p = .host → u.dev.sec.result = BitVec.ofNat 32 ((secPart c).toNat * 256))) ∧
  (∀ (s : State) (p : CmdPath) (c : W32), secOp c = 2 → s.dev.secNo p c = none → s.dev.removeNo c = none →
    ∃ u, exec (.remove p c) s = .next u ∧ (u.dev.part (secPart c)).st = .draining ∧
      (u.dev.part (secPart c)).keyCur = (s.dev.part (secPart c)).keyCur ∧ (∀ r, r ≠ secPart c → u.dev.part r = s.dev.part r) ∧
      (∀ n, (u.dev.plan n).part = secPart c → (u.dev.plan n).st = .draining ∨ (u.dev.plan n).st = .free)) ∧
  (∀ (s : State) (p : CmdPath) (c : W32), secOp c = 3 → s.dev.secNo p c = none → s.dev.assignNo p c = none →
    ∃ u, exec (.assign p c) s = .next u ∧ u.host = s.host ∧ u.nv = s.nv ∧ (u.dev.evtReg .secEvt).getLsbD 5 = true ∧
      (∀ n, n < 64 → bitN (s.dev.secMask p) n = true → (u.dev.core (BitVec.ofNat 6 n)).assigned = true ∧
        (u.dev.core (BitVec.ofNat 6 n)).part = secPart c ∧ (u.dev.core (BitVec.ofNat 6 n)).queue = [] ∧
        (∀ l, l < 2 ^ 16 → Tbl.get false u.dev.cores.written (n * 2 ^ 16 + l) = false)) ∧
      (∀ n, n < 64 → bitN (s.dev.secMask p) n = false → u.dev.core (BitVec.ofNat 6 n) = s.dev.core (BitVec.ofNat 6 n) ∧
        ∀ a, a < 2 ^ 24 → Memory.read u.dev.cores.scratch (n * 2 ^ 24 + a) = Memory.read s.dev.cores.scratch (n * 2 ^ 24 + a)) ∧
      u.dev.tier = s.dev.tier ∧ u.dev.cores.tag = s.dev.cores.tag) ∧
  (∀ (s : State) (p : CmdPath) (c : W32), s.dev.secNo p c = none → s.dev.bindNo c = none →
    (secOp c = 4 → ∃ d, exec (.bindVf p c) s = .next { s with dev := d } ∧ Tbl.get none d.sec.vf (secVf c) = some (secPart c) ∧
      (∀ v, v ≠ secVf c → Tbl.get none d.sec.vf v = Tbl.get none s.dev.sec.vf v) ∧ s.dev.OnlyIn [.sec] d ∧ d.sec.part = s.dev.sec.part) ∧
    (secOp c = 5 → ∃ d, exec (.unbindVf p c) s = .next { s with dev := d } ∧ Tbl.get none d.sec.vf (secVf c) = none ∧
      (∀ v, v ≠ secVf c → Tbl.get none d.sec.vf v = Tbl.get none s.dev.sec.vf v) ∧ s.dev.OnlyIn [.sec] d ∧ d.sec.part = s.dev.sec.part)) ∧
  (∀ (s : State) (p : CmdPath) (c : W32), secOp c = 6 → s.dev.secNo p c = none → s.dev.rotateNo c = none →
    ∃ u, exec (.rotate p c) s = .next u ∧
      u.dev.part (secPart c) = { s.dev.part (secPart c) with
        vintOld := (s.dev.part (secPart c)).vintCur, vintCur := (s.dev.part (secPart c)).vintCur + 1, keyOld := (s.dev.part (secPart c)).keyCur, keyCur := some s.dev.sec.keys, live2 := true } ∧
      (∀ r, r ≠ secPart c → u.dev.part r = s.dev.part r) ∧ (u.dev.evtReg .secEvt).getLsbD 2 = true ∧ u.dev.tier = s.dev.tier ∧ u.host = s.host)

/-- Teardown and vintages (R440, R446 to R451, R349). A partition with nothing left to drain is RETIRING; once nothing of it runs the epoch rises and
its keys are destroyed; EPOCH tells a member, and its answer the head; with its entries deleted it is ABSENT and keeps its epoch; a granule of
the old vintage moves to a new frame; with none left the old key goes; a satellite follows its head's commands.
Where the manual is open it rests on the model's choice in log entries 71, 72 and 73. -/
def Obligations.PartitionsAreTornDown : Prop :=
  (∀ (s : State) (p : PartNo), (s.dev.part p).st = .draining → s.dev.drainedPart p = true → ∃ u, exec (.partitionRetiring p) s = .next u ∧
    u.dev.part p = { s.dev.part p with st := .retiring } ∧ (∀ r, r ≠ p → u.dev.part r = s.dev.part r) ∧ u.host = s.host ∧
    s.dev.OnlyIn [.sec] u.dev) ∧
  (∀ (s : State) (p : PartNo), p ≠ 0 → (s.dev.part p).st = .retiring → s.dev.links.group = .solo → s.dev.partRuns p = false →
    Tbl.get [] s.dev.links.epochWait p.toNat = [] → ∃ u, exec (.epochChange p) s = .next u ∧ (u.dev.part p).st = .scrubbing ∧
      (u.dev.part p).epoch = (s.dev.part p).epoch + 1 ∧ (u.dev.part p).keyCur = none ∧ (u.dev.part p).keyOld = none ∧
      (u.dev.part p).keyLink = none ∧ (u.dev.part p).keyHost = none ∧ (u.dev.part p).keyVine = none ∧ (u.dev.part p).eph = none ∧
      (∀ n : CoreNo, (u.dev.core n).assigned = true → (u.dev.core n).part ≠ p) ∧ u.dev.slotMask p = 0 ∧ u.dev.tagRange p = 0) ∧
  (∀ (s : State) (k : Pkt) (b : List Byte), k.typ = 0x32 → s.dev.mine k = true → s.dev.openBody k = some b →
    let p : PartNo := BitVec.ofNat 3 (leNat ((b.drop 2).take 1))
    let e : BitVec 16 := BitVec.ofNat 16 (leNat (b.take 2))
    (s.dev.links.group = .satellite → ((s.dev.part p).st = .retiring ∨ (s.dev.part p).st = .draining) →
      ∃ u, exec (.epoch k) s = .next u ∧ (u.dev.part p).st = .scrubbing ∧ (u.dev.part p).epoch = e ∧ (u.dev.part p).keyCur = none) ∧
    (s.dev.links.group = .satellite → (s.dev.part p).st ≠ .retiring → (s.dev.part p).st ≠ .draining →
      ∃ u, exec (.epoch k) s = .next u ∧ u.dev.part p = { s.dev.part p with epoch := e } ∧ u.host = s.host) ∧
    (s.dev.links.group ≠ .satellite → k.hdr.src.toNat ∈ Tbl.get [] s.dev.links.epochWait p.toNat →
      (∃ m ∈ Tbl.get [] s.dev.links.epochWait p.toNat, m ≠ k.hdr.src.toNat) → ∃ d, exec (.epoch k) s = .next { s with dev := d } ∧
        Tbl.get [] d.links.epochWait p.toNat = (Tbl.get [] s.dev.links.epochWait p.toNat).filter (· ≠ k.hdr.src.toNat) ∧
        d.part p = s.dev.part p ∧ s.dev.OnlyIn [.links] d)) ∧
  (∀ (s : State) (p : PartNo), (s.dev.part p).st = .scrubbing → s.dev.entriesOf p = [] → ∃ u, exec (.scrubDone p) s = .next u ∧
    u.dev.part p = { Part.reset with epoch := (s.dev.part p).epoch } ∧ (u.dev.evtReg .secEvt).getLsbD 1 = true ∧
    (∀ v, 1 ≤ v → v ≤ 8 → Tbl.get none u.dev.sec.vf v ≠ some p) ∧ (∀ r, r ≠ p → u.dev.part r = s.dev.part r)) ∧
  (∀ (s : State) (o : ObjNo) (g : BitVec 24) (t : Tier), (s.dev.obj o).st ≠ .free → (s.dev.part (s.dev.obj o).part).live2 = true →
    (s.dev.part (s.dev.obj o).part).serves = true → s.dev.moving o g.toNat = false →
    Gran.vintIn ((s.dev.obj o).g g.toNat) (s.dev.part (s.dev.obj o).part).vintOld = some t → s.dev.framesIn t < s.dev.capacity t / granSize →
    (s.dev.reencBefore o g.toNat = true → exec (.reencryptMove (.frame o g)) s = .next s) ∧ (s.dev.reencBefore o g.toNat = false →
    ∃ d, exec (.reencryptMove (.frame o g)) s = .next { s with dev := d } ∧
      ((d.obj o).g g.toNat) = ((s.dev.obj o).g g.toNat).put t (some (s.dev.frameFor o t g.toNat)) ∧
      (∀ r, r ≠ o → d.obj r = s.dev.obj r) ∧ s.dev.OnlyIn [.tier] d ∧ d.tier.mem = s.dev.tier.mem)) ∧
  (∀ (s : State) (p : PartNo), (s.dev.part p).live2 = true → s.dev.remain p (s.dev.part p).vintOld = 0 →
    ∃ u, exec (.oldVintageDestroy p) s = .next u ∧ u.dev.part p = { s.dev.part p with keyOld := none, live2 := false, vintOld := 0 } ∧
      (u.dev.evtReg .secEvt).getLsbD 3 = true ∧ (∀ r, r ≠ p → u.dev.part r = s.dev.part r) ∧ s.dev.OnlyIn [.sec, .evt, .evc] u.dev) ∧
  (∀ (s : State) (k : Pkt) (b : List Byte) (c : W32) (mask : BitVec 64), k.typ = 0x40 → s.dev.mine k = true → s.dev.openBody k = some b →
    s.dev.links.group = .satellite →
    (secOp c = 1 → (s.dev.part (secPart c)).st = .absent → ∃ u, exec (.group ⟨k, .part c mask⟩) s = .next u ∧
      (u.dev.part (secPart c)).st = .live ∧ (u.dev.part (secPart c)).epoch = (s.dev.part (secPart c)).epoch + 1) ∧
    (secOp c = 2 → (s.dev.part (secPart c)).st = .live → ∃ u, exec (.group ⟨k, .part c mask⟩) s = .next u ∧
      (u.dev.part (secPart c)).st = .draining) ∧
    (secOp c = 3 → ∃ d, exec (.group ⟨k, .part c mask⟩) s = .next { s with dev := d } ∧
      ∀ n, n < 64 → mask.getLsbD n = true → (d.core (BitVec.ofNat 6 n)).assigned = true ∧ (d.core (BitVec.ofNat 6 n)).part = secPart c))

/-- Attestation, debug unlock, revocation and entropy (R443, R459 to R461, R468, R500). ATTEST writes the signed report; an unlock changes the challenge
whatever its outcome and unlocks only on a token that holds, and never while a confidential partition is active; REVOKE blows a key's fuse;
a failed entropy source is Safe Hold of the device; reseeds count; an access of the debug port answers only on an unlocked device.
Where the manual is open it rests on the model's choice in log entries 7, 9, 11 and 74. -/
def Obligations.AttestationAndUnlockHold : Prop :=
  (∀ (s : State) (p : CmdPath) (c : W32), secOp c = 7 → s.dev.secNo p c = none → s.dev.attestNo c = none →
    ∃ d, exec (.attest p c) s = .next { s with dev := d } ∧
      d.sec.report = s.reportBody (secPart c) ((s.dev.secArg p).take 48) ++ sized 96 (Config.identitySign (s.reportBody (secPart c) ((s.dev.secArg p).take 48))) ∧
      (d.evtReg .secEvt).getLsbD 8 = true ∧ d.sec.part = s.dev.sec.part ∧ s.dev.OnlyIn [.sec, .evt, .evc] d) ∧
  (∀ (s : State) (p : CmdPath) (c : W32), secOp c = 8 → s.dev.secNo p c = none →
    (s.dev.confActive = false → ∃ d, exec (.dbgUnlock p c) s = .next { s with dev := d } ∧ d.sec.chal = s.dev.sec.chal + 1 ∧
      d.sec.debugUnlocked = (s.dev.sec.debugUnlocked || s.tokenOk (s.dev.secArg p)) ∧ d.sec.part = s.dev.sec.part ∧
      (p = .host → d.sec.result = BitVec.ofNat 32 ((secPart c).toNat * 256 + if s.tokenOk (s.dev.secArg p) then 0 else 8)) ∧
      s.dev.OnlyIn [.sec, .evt, .evc] d) ∧
    (s.dev.confActive = true → ∃ d, exec (.dbgUnlock p c) s = .next { s with dev := d } ∧ d.sec.debugUnlocked = s.dev.sec.debugUnlocked ∧
      d.sec.chal = s.dev.sec.chal ∧ (p = .host → d.sec.result = BitVec.ofNat 32 ((secPart c).toNat * 256 + 7)) ∧ s.dev.OnlyIn [.sec] d)) ∧
  (∀ (s : State) (p : CmdPath) (c : W32), secOp c = 9 → s.dev.secNo p c = none → s.revokeNo (s.dev.secArg p) = none →
    ∃ u, exec (.revoke p c) s = .next u ∧ u.nv = { s.nv with revoked := s.nv.revoked ||| BitVec.ofNat 4 (2 ^ leNat (cut (s.dev.secArg p) 12 12)) } ∧
      (u.dev.evtReg .secEvt).getLsbD 9 = true ∧ u.host = s.host ∧ s.dev.OnlyIn [.sec, .evt, .evc] u.dev) ∧
  (∀ (s : State), ∃ u, exec .entropyFail s = .next u ∧ u.dev.sec.entropyOk = false ∧ u.dev.pwr.devHold = true ∧
    (u.dev.evtReg .secEvt).getLsbD 7 = true) ∧
  (∀ (s : State), (2 ^ 20 ≤ s.dev.sec.requests ∨ s.dev.sec.reseedAt.toNat + 1000000000 ≤ s.dev.now) →
    ∃ d, exec .drbgReseed s = .next { s with dev := d } ∧ d.sec = { s.dev.sec with requests := 0, reseedAt := s.dev.hif.devTime } ∧
      s.dev.OnlyIn [.sec] d) ∧
  (∀ (s : State), s.dev.sec.samplerAt.toNat + 1000000 ≤ s.dev.now → ∃ d, exec .samplerReseed s = .next { s with dev := d } ∧
    d.sec = { s.dev.sec with requests := s.dev.sec.requests + 1, samplerAt := s.dev.hif.devTime } ∧ s.dev.OnlyIn [.sec] d) ∧
  (∀ (s : State), (∃ d, exec (.debugPortAccess .idcode) s = .next { s with dev := d } ∧ d.od.debugOut = Config.idcode.zeroExtend 64 ∧ s.dev.OnlyIn [.od] d) ∧
    (∃ d, exec (.debugPortAccess .boundaryScan) s = .next { s with dev := d } ∧ d.od.halted = s.dev.od.halted ∧ s.dev.OnlyIn [.od, .draws] d) ∧
    (∀ cp, (s.dev.sec.debugUnlocked = true → ∃ d, exec (.debugPortAccess (.haltCp cp)) s = .next { s with dev := d } ∧
        d.od.halted.getLsbD cp.toNat = true ∧ s.dev.OnlyIn [.od] d) ∧
      (s.dev.sec.debugUnlocked = false → exec (.debugPortAccess (.haltCp cp)) s = .next s)) ∧
    (∀ a, (s.dev.sec.debugUnlocked = true → ∃ d, exec (.debugPortAccess (.readSram a)) s = .next { s with dev := d } ∧ d.draws = s.dev.draws + 1 ∧
        d.od.halted = s.dev.od.halted ∧ s.dev.OnlyIn [.od, .draws] d) ∧
      (s.dev.sec.debugUnlocked = false → exec (.debugPortAccess (.readSram a)) s = .next s)))

/-- The limiter, the sensors and emergencies (R473, R475, R476, R489). A sample sets the readings and the limiter's state, and more than 1,000 of the last
100 ms' samples over the cap begin a power emergency; a round of readings at an emergency value begins a thermal one; an emergency clears once
its cause has been gone for a second; 100 ms of one that persists ask for a level more, and at L4 withdraw every sequence; COOL_OK lost with
sequences admitted withdraws them.
Where the manual is open it rests on the model's choice in log entry 47. -/
def Obligations.EmergenciesBeginAndEnd : Prop :=
  (∀ (s : State) (p a1 a100 : BitVec 16), ∃ u, exec (.limiterSample p a1 a100) s = .next u ∧ u.dev.pwr.now = a1 ∧ u.dev.pwr.avg100 = a100 ∧
    u.dev.pwr.limiting = decide (s.dev.pwr.capForce * 10 < a1.toNat) ∧ u.dev.pwr.level = s.dev.pwr.level ∧
    (s.dev.pwr.capForce * 10 < a1.toNat → u.dev.pwr.limitAt = none ∧ (u.dev.evtReg .pwrEvt).getLsbD 2 = true) ∧
    (a1.toNat ≤ s.dev.pwr.capForce * 10 → u.dev.pwr.limitAt = some (s.dev.pwr.limitAt.getD s.dev.now)) ∧
    (s.dev.awake = true → s.dev.pwr.power = false → 1000 < u.dev.pwr.limited.length → u.dev.pwr.power = true ∧
      u.dev.pwr.emergLevel = max s.dev.pwr.emergLevel (min 4 (levelOf s.dev.pwr.capForce + 1)) ∧ (u.dev.evtReg .pwrEvt).getLsbD 3 = true) ∧
    (u.dev.pwr.limited.length ≤ 1000 → u.dev.pwr.power = s.dev.pwr.power ∧ u.nv = s.nv) ∧ u.host = s.host ∧ u.dev.srv = s.dev.srv) ∧
  (∀ (s : State) (ts : List (BitVec 8)), ∃ u, exec (.sensorRead ts) s = .next u ∧ u.host = s.host ∧ u.dev.srv = s.dev.srv ∧
    (∀ i, i < 51 → i < ts.length → u.dev.sensor i = (ts.getD i 0).toNat) ∧ (∀ i, i < 51 → ts.length ≤ i → u.dev.sensor i = s.dev.sensor i) ∧
    (s.dev.awake = true → (∃ i, i < 51 ∧ (sensorLimits i).1 ≤ u.dev.sensor i) → (u.dev.evtReg .pwrEvt).getLsbD 4 = true ∧ u.dev.pwr.coolAt = none) ∧
    (s.dev.awake = true → (∀ i, i < 51 → u.dev.sensor i < (sensorLimits i).1) → u.dev.pwr.coolAt = some (s.dev.pwr.coolAt.getD s.dev.now)) ∧
    (s.dev.awake = true → s.dev.pwr.therm = false → (∃ i, i < 51 ∧ (sensorLimits i).2 ≤ u.dev.sensor i) → u.dev.pwr.therm = true ∧
      u.dev.pwr.emergAt = s.dev.now ∧ (u.dev.evtReg .pwrEvt).getLsbD 5 = true)) ∧
  (∀ (s : State),
    let t := s.dev.pwr.therm && s.dev.pins.coolOk && s.dev.secondPast s.dev.pwr.coolAt
    let w := s.dev.pwr.power && s.dev.secondPast s.dev.pwr.limitAt
    (t || w) = true → ∃ d, exec .emergencyClear s = .next { s with dev := d } ∧ d.pwr.therm = (s.dev.pwr.therm && !t) ∧
      d.pwr.power = (s.dev.pwr.power && !w) ∧ (d.evtReg .pwrEvt).getLsbD 6 = true ∧
      ((d.pwr.therm || d.pwr.power) = false → d.pwr.emergLevel = 0 ∧ d.pwr.withdrawn = false) ∧ d.srv = s.dev.srv ∧ d.cores = s.dev.cores) ∧
  (∀ (s : State), s.dev.persists = true → s.dev.pwr.emergAt + 100000000 ≤ s.dev.now → ∃ u, exec .emergencyLevelDrop s = .next u ∧
    u.dev.pwr.emergAt = s.dev.now ∧ u.dev.pwr.emergLevel = min 4 (max s.dev.pwr.emergLevel (levelOf s.dev.pwr.capForce) + 1) ∧
    (s.dev.pwr.level ≠ 4 → u.dev.srv = s.dev.srv ∧ u.host = s.host) ∧
    (s.dev.pwr.level = 4 → s.dev.pwr.withdrawn = false → u.dev.pwr.withdrawn = true ∧
      ∀ n, (s.dev.seq n).alive = true → (u.dev.seq n).st = .ending ∨ (u.dev.seq n).st = .free)) ∧
  (∀ (s : State) (level : Bool), ∃ u, exec (.coolOkChange level) s = .next u ∧ u.dev.pins.coolOk = level ∧
    (s.dev.pins.coolOk = true → level = false → (u.dev.evtReg .pwrEvt).getLsbD 7 = true ∧
      (s.dev.pwr.st ≠ .nap → s.dev.pwr.st ≠ .deep → (∃ n, (s.dev.seq n).alive = true) → u.dev.pwr.therm = true ∧ u.dev.pwr.coolLost = true ∧
        ∀ n, (s.dev.seq n).alive = true → (u.dev.seq n).st = .ending ∨ (u.dev.seq n).st = .free)) ∧
    ((s.dev.pins.coolOk = false ∨ level = true) → u.dev.srv = s.dev.srv ∧ u.host = s.host ∧ u.dev.pwr = s.dev.pwr))

/-- Levels and power states (R470, R472, R487, R405, R406). In a gap the level follows the cap and the emergency, and a lowered cap comes into force; it is
forced 20 ms after its write; the device goes to IDLE, NAP and DEEP where nothing keeps it out, retaining the concentrator, and comes back with
the concentrator restored and no scratchpad line written.
Where the manual is open it rests on the model's choice in log entry 42. -/
def Obligations.LevelsAndPowerStatesFollow : Prop :=
  (∀ (s : State), s.dev.gap = true → ∃ u, exec .levelChange s = .next u ∧ u.dev.pwr.level = max (levelOf s.dev.pwr.capWritten) s.dev.pwr.emergLevel ∧
    u.dev.pwr.capAt = none ∧ u.dev.pwr.capForce = (if s.dev.pwr.capAt.isSome then s.dev.pwr.capWritten else s.dev.pwr.capForce) ∧
    (u.dev.pwr.level ≠ s.dev.pwr.level → (u.dev.evtReg .pwrEvt).getLsbD 0 = true) ∧
    (s.dev.pwr.capAt.isSome = true → (u.dev.evtReg .pwrEvt).getLsbD 1 = true) ∧
    (u.dev.pwr.level ≤ s.dev.pwr.level → u.dev.srv = s.dev.srv ∧ u.host = s.host)) ∧
  (∀ (s : State) (t : Nat), s.dev.pwr.capAt = some t → t + 20000000 ≤ s.dev.now → ∃ d, exec .capForceTimeout s = .next { s with dev := d } ∧
    d.pwr.capForce = s.dev.pwr.capWritten ∧ d.pwr.capAt = none ∧ d.pwr.level = s.dev.pwr.level ∧ (d.evtReg .pwrEvt).getLsbD 1 = true ∧
    s.dev.OnlyIn [.pwr, .evt, .evc] d) ∧
  (∀ (s : State), s.dev.pwr.st = .active → (s.dev.cores.tag.any fun e => e.2.inFlight) = false → s.dev.noneActive = true → ∃ d, exec .idleEntry s = .next { s with dev := d } ∧
      d.pwr = { s.dev.pwr with st := .idle, idleAt := s.dev.now } ∧ s.dev.OnlyIn [.pwr] d) ∧
  (∀ (s : State), s.dev.pwr.st = .idle → s.dev.links.group = .solo →
    (s.dev.pins.coolOk = false ∨ (s.dev.pwr.idleAt + s.dev.napAfterNs ≤ s.dev.now ∧ s.dev.napBlocked = false)) →
    ∃ d, exec .napEntry s = .next { s with dev := d } ∧ d.pwr.st = .nap ∧ d.evc.retained.isSome = true ∧ (d.evtReg .pwrEvt).getLsbD 8 = true ∧
      d.evc.core = s.dev.evc.core ∧ s.dev.OnlyIn [.pwr, .evt, .evc] d) ∧
  (∀ (s : State) (c : Instr), ((c = .napWake ∧ s.dev.pwr.st = .nap ∧ s.dev.pins.coolOk = true) ∨ (c = .deepWake ∧ s.dev.pwr.st = .deep)) →
    ∃ u, exec c s = .next u ∧ u.dev.pwr.st = .idle ∧ u.dev.pwr.idleAt = s.dev.now ∧ u.dev.evc.retained = none ∧ u.dev.evc.restored = true ∧
      (u.dev.evtReg .pwrEvt).getLsbD 8 = true ∧ (∀ c : CoreNo, ∀ l, l < 2 ^ 16 → Tbl.get false u.dev.cores.written (c.toNat * 2 ^ 16 + l) = false) ∧
      (∀ r, s.dev.evc.retained = some r → u.dev.evc.core.enable = r.enable ∧ u.dev.evc.core.gdis = r.gdis) ∧
      (c = .deepWake → Tbl.get false u.dev.hif.d3 0 = false) ∧ u.dev.tier = s.dev.tier ∧ u.dev.srv = s.dev.srv) ∧
  (∀ (s : State), (s.dev.pwr.st = .idle ∨ s.dev.pwr.st = .nap) → s.dev.links.group = .solo → (s.dev.seqsWhere fun e => e.served).isEmpty = true →
    (∀ f, f ≤ s.dev.hif.numVfs → Tbl.get false s.dev.hif.d3 f = true) →
    ∃ d, exec .deepEntry s = .next { s with dev := d } ∧ d.pwr.st = .deep ∧ Tbl.get false d.hif.d3 0 = true ∧
      (s.dev.pwr.st = .idle → d.evc.retained.isSome = true) ∧ (d.evtReg .pwrEvt).getLsbD 8 = true ∧ s.dev.OnlyIn [.pwr, .evt, .evc] d)

/-- Faults, retirement and Safe Hold (R479 to R485, R492, R211 to R213). A retest is recorded, and a unit that fails it is retired; a retired unit is out of
service; Safe Hold of the device asserts FAULT_N, leaves no command live and places every sequence in SAFE_HOLD; a partition's is released
after its recheck; patrol counts what it reads and corrects, and drops or damages what it cannot read.
Where the manual is open it rests on the model's choice in log entries 48, 49, 64 and 68. -/
def Obligations.FaultsRetireAndHold : Prop :=
  (∀ (s : State) (x : UnitId), s.dev.unitIn x = true →
    (∃ u, exec (.retest x true) s = .next u ∧ (u.dev.evtReg .pwrEvt).getLsbD 18 = true ∧
      u.dev.pwr.log = ((FaultRec.mk 0 (UnitId.cls x) (UnitId.num x) 0x12 none none 0 0).bytes s.dev.now :: s.dev.pwr.log).take 1024 ∧ u.nv = s.nv ∧
      u.host = s.host ∧ s.dev.OnlyIn [.pwr, .evt, .evc] u.dev) ∧
    ((∀ c, x = .channel c → s.dev.cellar.retiring.toNat ≠ c.toNat) →
      (∃ u, exec (.retest x false) s = .next u ∧ u.dev.unitIn x = false) ∧
      (∃ u, exec (.unitRetire x) s = .next u ∧ u.dev.unitIn x = false ∧ s.dev.pwr.retiredUnits < u.dev.pwr.retiredUnits))) ∧
  (∀ (s : State) (x : UnitId), s.dev.unitIn x = false → exec (.unitRetire x) s = .next s) ∧
  (∀ (s : State) (cause : BitVec 8),
    (∀ n, (s.dev.seq n).alive = true → ∃ u, exec (.safeHold (.seq n) cause) s = .next u ∧ (u.dev.seq n).st = .safeHold) ∧
    (∀ p, ∃ u, exec (.safeHold (.part p) cause) s = .next u ∧ u.dev.pwr.partHold.getLsbD p.toNat = true ∧
      (s.dev.pwr.partHold.getLsbD p.toNat = false → ∀ t, (s.dev.tagE t).live = true → (s.dev.tagE t).desc.part = p →
        (u.dev.tagE t).st = .completing ∧ (u.dev.tagE t).status = stABORTED)) ∧
    (∃ u, exec (.safeHold .device cause) s = .next u ∧ u.dev.pwr.devHold = true ∧
      (s.dev.pwr.devHold = false → u.dev.pins.faultDrv = true ∧ (∀ t, (u.dev.tagE t).live = false) ∧
        (∀ n, (s.dev.seq n).alive = true → (u.dev.seq n).st = .safeHold)))) ∧
  (∀ (s : State) (p : PartNo), s.dev.pwr.partHold.getLsbD p.toNat = true →
    (∃ d, exec (.safeHoldRelease (p.zeroExtend 8) true) s = .next { s with dev := d } ∧ d.pwr.partHold.getLsbD p.toNat = false ∧
      (∀ k, k ≠ p.toNat → d.pwr.partHold.getLsbD k = s.dev.pwr.partHold.getLsbD k) ∧ s.dev.OnlyIn [.pwr] d) ∧
    exec (.safeHoldRelease (p.zeroExtend 8) false) s = .next s) ∧
  (∀ (s : State) (o : ObjNo) (g : GranNo) (rack : Bool) (t : Tier) (f : Frame), s.dev.pwr.st ≠ .nap → s.dev.pwr.st ≠ .deep →
    Gran.frame (s.dev.gran o g.toNat) rack = some (t, f) →
    (∃ d, exec (.patrolRead (.frame o g rack) .clean) s = .next { s with dev := d } ∧ s.dev.OnlyIn [.cnt, .tot] d ∧
      Tbl.get 0 d.cnt (pwrReg 0x38) = Tbl.get (0 : W64) s.dev.cnt (pwrReg 0x38) + BitVec.ofNat 64 granSize) ∧
    (∃ d, exec (.patrolRead (.frame o g rack) .corrected) s = .next { s with dev := d } ∧
      Tbl.get [] d.pwr.corr (UnitId.key (frameUnit t f)) = s.dev.now :: Tbl.get [] s.dev.pwr.corr (UnitId.key (frameUnit t f)) ∧
      s.dev.OnlyIn [.pwr, .cnt, .tot, .evt, .evc] d) ∧
    (∃ u, exec (.patrolRead (.frame o g rack) .uncorrectable) s = .next u ∧ (u.dev.evtReg .pwrEvt).getLsbD 17 = true ∧
      (u.dev.evtReg .pwrEvt).getLsbD 19 = true ∧
      Tbl.get [] u.dev.pwr.uncorr (UnitId.key (frameUnit t f)) = s.dev.now :: Tbl.get [] s.dev.pwr.uncorr (UnitId.key (frameUnit t f)) ∧
      ((s.dev.obj o).eff = .sealed → (u.dev.gran o g.toNat).at t = none) ∧
      ((s.dev.obj o).eff ≠ .sealed → s.dev.metaOf o = none →
        (∀ sl ∈ s.dev.vineUsed (s.dev.obj o).part, (o, g.toNat) ∉ s.dev.nodePages (s.dev.obj o).part sl) →
        (u.dev.gran o g.toNat).damaged = true))) ∧
  (∀ (s : State) (n : BitVec 12) (g : GranNo), s.dev.pwr.st ≠ .nap → s.dev.pwr.st ≠ .deep → (s.dev.cat n.toNat).used = true →
    Tbl.get Place.none (s.dev.cat n.toNat).places g.toNat ≠ Place.none →
    (∃ d, exec (.patrolRead (.sealedGran n g) .clean) s = .next { s with dev := d } ∧ s.dev.OnlyIn [.cnt, .tot] d) ∧
    (∃ d, exec (.patrolRead (.sealedGran n g) .corrected) s = .next { s with dev := d } ∧ d.cellar.mem = s.dev.cellar.mem ∧
      s.dev.OnlyIn [.cellar, .cnt, .tot, .draws] d) ∧
    (∃ d, exec (.patrolRead (.sealedGran n g) .uncorrectable) s = .next { s with dev := d } ∧ (d.evtReg .pwrEvt).getLsbD 19 = true ∧
      (d.evtReg .flcEvt).getLsbD 4 = true ∧ d.cores.tag = s.dev.cores.tag))

/-- Faults of the power supply and the thermal trip (R51, R54, R486, R492). A rail fault and a thermal trip reset the main domain, remove the rails,
assert FAULT_N and are recorded; the trip is released below its point with PWR_EN low; near misses are noted.
Where the manual is open it rests on the model's choice in log entries 41, 48 and 66. -/
def Obligations.RailsAndTripsRemovePower : Prop :=
  (∀ (s : State) (r : BitVec 3), s.dev.pins.pwrEn = true → s.dev.pins.phase ≠ .off → s.dev.pins.phase ≠ .aux →
    ∃ u, exec (.railFault r) s = .next u ∧ u.dev.pins.pwrGood = false ∧ u.dev.pins.phase = .aux ∧ u.dev.pins.faultDrv = true ∧
      u.dev.pwr.latched = true ∧ u.dev.pins.rails = [] ∧ (u.dev.evtReg .pwrEvt).getLsbD 25 = true ∧ u.nv.faults.length ≤ 64 ∧ u.nv.area = s.nv.area ∧ u.host = s.host ∧
      (s.dev.pins.pwrGood = true → u.dev.cores = Cores.reset ∧ u.dev.srv = Srv.reset)) ∧
  (∀ (s : State) (cask : Bool) (n : BitVec 4), s.dev.pins.phase ≠ .off →
    ∃ u, exec (.thermTrip cask n) s = .next u ∧ u.dev.pins.thermTrip = true ∧ u.dev.pins.pwrGood = false ∧ u.dev.pins.phase = .aux ∧
      u.dev.pins.faultDrv = true ∧ (if cask then 210 else 230) ≤ Tbl.get 0 u.dev.pwr.temp (if cask then 16 + n.toNat % 8 else n.toNat) ∧
      (s.dev.pins.pwrGood = true → u.dev.cores = Cores.reset ∧ u.dev.srv = Srv.reset) ∧ u.host = s.host) ∧
  (∀ (s : State), s.dev.pins.thermTrip = true → s.dev.pins.pwrEn = false → s.dev.belowTrip = true →
    ∃ d, exec .thermTripRelease s = .next { s with dev := d } ∧ d.pins = { s.dev.pins with thermTrip := false } ∧ s.dev.OnlyIn [.pins] d) ∧
  (∀ (s : State) (x : Bool), ∃ d, exec (.p48vDip x) s = .next { s with dev := d } ∧
    d.pins = (if x then { s.dev.pins with excursion := true } else { s.dev.pins with uvSeen := true }) ∧ s.dev.OnlyIn [.pins] d) ∧
  (∀ (s : State), ∃ d, exec .p48vInRange s = .next { s with dev := d } ∧ d.pins.p48vOk = true ∧
    (s.dev.pins.phase = .aux → s.dev.pins.pwrEn = true → s.dev.pins.thermTrip = false → s.dev.pwr.latched = false → d.pins.phase = .ramping) ∧
    s.dev.OnlyIn [.pins] d)

/-- Power, reset and boot (R33, R36, R45 to R47, R51, R232, R422 to R424). Auxiliary power starts MGMT; the rails ramp once nothing stands against it;
at the end of reset the ROM starts the selected copies, or the recovery image; the firmware's boot and its readiness release the device; loss of
power or reset leaves the main domain at its reset values, the boot flash and the host's memory untouched.
Where the manual is open it rests on the model's choice in log entries 36, 39, 41 and 52. -/
def Obligations.PowerResetAndBoot : Prop :=
  (∀ (s : State) (mode : Bool) (a : BitVec 3), s.dev.pins.auxUp = false → ∃ u, exec (.auxPowerUp mode a) s = .next u ∧
    u.dev.pins = { s.dev.pins with auxUp := true, mgmtMode := mode, addrSel := a, phase := .aux } ∧ u.host = s.host ∧ u.dev.cores = s.dev.cores ∧
    (∀ k, s.nv.pick 7 = some k → u.dev.comp 7 = s.nv.started 7 k ∧ u.nv = s.nv.mark 0x80) ∧
    (s.nv.pick 7 = none → (u.dev.comp 7).run = s.nv.recov ∧ u.nv = s.nv)) ∧
  (∀ (s : State), s.dev.pins.auxUp = true → ∃ d, exec .pwrEnRise s = .next { s with dev := d } ∧ d.pins.pwrEn = true ∧
    d.pins.phase = (if s.dev.pins.phase = .aux ∧ s.dev.pins.p48vOk = true ∧ s.dev.pins.thermTrip = false ∧ s.dev.pwr.latched = false then .ramping
      else s.dev.pins.phase) ∧ (s.dev.pins.phase ≠ .ramping → d.pins.phase = .ramping → d.pins.rails = [.dieLogic, .sram, .cask, .rack, .cellar, .serDes] ∧
      d.pins.railLog = d.pins.rails.map (fun r => (r, true))) ∧ s.dev.OnlyIn [.pins] d) ∧
  (∀ (s : State), s.dev.pins.phase = .ramping → ∃ u, exec .pwrGoodAssert s = .next u ∧ u.dev.pins.pwrGood = true ∧ u.host = s.host ∧
    (s.dev.pins.perstN = false → u.dev.pins = { s.dev.pins with phase := .held, pwrGood := true } ∧ u.nv = s.nv ∧ u.dev.evc = Evc.reset ∧ s.dev.OnlyIn [.pins, .evc] u.dev) ∧
    (s.dev.pins.perstN = true → u.dev.pins.phase = .boot ∨ u.dev.pins.phase = .rom)) ∧
  (∀ (s : State) (rcvyN tickN : Bool), s.dev.pins.perstN = false → ∃ u, exec (.perstNDeassert rcvyN tickN) s = .next u ∧ u.dev.pins.perstN = true ∧
    u.dev.pins.rcvyN = rcvyN ∧ u.dev.pins.tickPrsntN = tickN ∧ u.host = s.host ∧
    (s.dev.pins.phase ≠ .held → u.nv = s.nv ∧ s.dev.OnlyIn [.pins] u.dev) ∧
    (s.dev.pins.phase = .held → rcvyN = false → s.nv.invalid 8 s.nv.recov = none → u.dev.fw.recovery = true ∧ u.dev.pins.phase = .boot ∧
      u.dev.fw.offered = 1 ∧ (u.dev.evtReg .fwEvt).getLsbD 8 = true ∧ ∀ c, c < 7 → (u.dev.comp c).run = s.nv.recov) ∧
    (s.dev.pins.phase = .held → rcvyN = false → (s.nv.invalid 8 s.nv.recov).isSome = true → u.dev.fw.dead = true ∧ u.dev.pins.phase = .rom ∧
      u.dev.pins.faultDrv = true) ∧
    (∀ ps, s.dev.pins.phase = .held → rcvyN = true → (List.range 7).mapM s.nv.pick = some ps → setCompatible (s.bootSet ps) = true →
      u.dev.pins.phase = .boot ∧ ∀ c, c < 7 → (u.dev.comp c).run = s.nv.copy (ps.getD c ⟨false, false, false⟩).slotB c)) ∧
  (∀ (s : State), s.dev.pins.pwrGood = true →
    let gone (u : State) : Prop := u.dev.cores = Cores.reset ∧ u.dev.tier = TierSt.reset ∧ u.dev.srv = Srv.reset ∧ u.dev.links = Links.reset ∧
      u.dev.hif = Hif.reset ∧ u.dev.evc.core = Evc.reset.core ∧ u.nv = s.nv ∧ u.host = s.host ∧ u.dev.cellar.queue = [] ∧ u.dev.od.val = s.nv.rwp
    (∃ u, exec .perstNAssert s = .next u ∧ (s.dev.fw.stageComp = none → gone u) ∧ u.dev.pins.perstN = false ∧ u.dev.pins.pwrGood = true ∧
      u.dev.pins.phase = .held) ∧
    (∃ u, exec .pwrEnFall s = .next u ∧ (s.dev.fw.stageComp = none → gone u) ∧ u.dev.pins.pwrEn = false ∧ u.dev.pins.pwrGood = false ∧
      u.dev.pwr.latched = false ∧ u.dev.evc = Evc.reset ∧ u.dev.pins.rails = [] ∧
      (s.dev.pins.rails ≠ [] → u.dev.pins.railLog = s.dev.pins.rails.reverse.map fun r => (r, false))) ∧
    (∃ u, exec .mainPowerLoss s = .next u ∧ (s.dev.fw.stageComp = none → gone u) ∧ u.dev.pins.p48vOk = false ∧ u.dev.pins.pwrGood = false) ∧
    ∃ u, exec .auxPowerLoss s = .next u ∧ gone u ∧ u.dev.pins.phase = .off ∧ u.dev.pins.auxUp = false ∧ u.dev.pins.pwrGood = false ∧
      u.dev.pwr = Pwr.reset) ∧
  (∀ (s : State) (failed : List UnitId), s.dev.pins.phase = .boot → s.dev.pins.inited = false → s.dev.fw.recovery = false →
    ∃ u, exec (.bootInit failed) s = .next u ∧ u.dev.pins.inited = true ∧ u.dev.pins.phase = .boot ∧
      (∀ c, UnitId.core c ∈ failed → (u.dev.core c).inService = false) ∧
      (∀ c, (u.dev.core c).inService = true → (u.dev.core c).assigned = true ∧ (u.dev.core c).part = 0) ∧
      (u.dev.pwr.devHold = false → u.dev.pins.faultDrv = false)) ∧
  (∀ (s : State), s.dev.pins.phase = .boot → ∃ d, exec .firmwareReady s = .next { s with dev := d } ∧ d.pins.phase = .ready ∧ d.hif.ready = true ∧
    d.hif.mboxReady = (s.dev.hif.mboxReady || s.dev.fw.recovery) ∧ (s.dev.fw.recovery = false → d.pins.faultDrv = s.dev.pins.faultDrv) ∧
    (s.dev.fw.recovery = true → s.dev.pwr.devHold = false → d.pins.faultDrv = false) ∧
    s.dev.OnlyIn [.pins, .hif, .pwr] d) ∧
  (∀ (s : State), s.dev.pins.tickLvl = true ∨ s.dev.pins.tickPrsntN = true →
    exec .tickEdge s = .next { s with dev := { s.dev with pins := { s.dev.pins with tickLvl := !s.dev.pins.tickLvl } } }) ∧
  (∀ (s : State), s.dev.pins.tickLvl = false → s.dev.pins.tickPrsntN = false → s.dev.pins.phase = .ready → s.dev.pwr.st ≠ .nap → s.dev.pwr.st ≠ .deep → s.dev.links.group ≠ .satellite →
    ∃ d, exec .tickEdge s = .next { s with dev := d } ∧ d.srv.ticks = s.dev.now :: s.dev.srv.ticks ∧ d.pins.tickLvl = true ∧
      (∀ n, (s.dev.plan n).tick = false → d.plan n = s.dev.plan n) ∧
      (∀ n, (s.dev.plan n).tick = true → (s.dev.plan n).runs = true → (s.dev.plan n).edge = none → (d.plan n).edge = some s.dev.now) ∧
      s.dev.OnlyIn [.pins, .srv, .evt, .evc] d)

/-- The Object Dictionary (R495, R500 to R508). On a path that is there, a request for this device is answered with the code of the first check it fails,
or with the entry's value, its description, its successor or the number of values RESTORE could not put back; a WRITE that passes stores, or answers STORE_FAIL where the boot flash does not take an RWP
value (left open), and wakes a device in NAP; a request for a member is answered UNREACHABLE, turned away BUSY at eight, or bridged.
Where the manual is open it rests on the model's choice in log entries 34 and 35. -/
def Obligations.DictionaryAnswers : Prop :=
  (∀ (s : State) (p : OdPath) (e : BitVec 24), s.dev.pathUp p = true → (s.dev.links.bridged.filter (·.path == p)).length < 8 →
    let answers (c : Instr) (r : OdResp) : Prop := exec c s = .next { s with dev := s.dev.odReply p r }
    let early (c : Instr) (o : OdOp) : Prop := (s.dev.notReady o (e.toNat / 256) = true → answers c (odCode 3)) ∧
      (s.dev.notReady o (e.toNat / 256) = false → s.dev.pathDenies p o (e.toNat / 256) = true → answers c (odCode 2))
    let clear (o : OdOp) : Prop := s.dev.notReady o (e.toNat / 256) = false ∧ s.dev.pathDenies p o (e.toNat / 256) = false
    (entryAt e.toNat = none → answers (.odRead p 0xFF e) (odCode 1) ∧ answers (.odDescribe p 0xFF e) (odCode 1)) ∧
    (∀ r, entryAt e.toNat = some r →
      early (.odRead p 0xFF e) .read ∧ (clear .read → answers (.odRead p 0xFF e) ⟨0, s.odValue p e.toNat r, 0, 0⟩) ∧
      early (.odDescribe p 0xFF e) .describe ∧
      (clear .describe → answers (.odDescribe p 0xFF e) ⟨0, natLe 2 r.largest, BitVec.ofNat 4 r.typ.code, BitVec.ofNat 2 r.acc.code⟩)) ∧
    early (.odNext p 0xFF e) .next ∧
    (clear .next → (∀ x, nextEntry e.toNat = some x → answers (.odNext p 0xFF e) ⟨0, natLe 2 (x / 256) ++ natLe 1 (x % 256), 0, 0⟩) ∧
      (nextEntry e.toNat = none → answers (.odNext p 0xFF e) (odCode 1)))) ∧
  (∀ (s : State) (p : OdPath) (e : BitVec 24) (v : List Byte), s.dev.pathUp p = true → s.dev.pwr.st ≠ .nap → s.dev.windowWaits e.toNat v = false →
    (s.dev.links.bridged.filter (·.path == p)).length < 8 →
    let answers (r : OdResp) : Prop := exec (.odWrite p 0xFF e v) s = .next { s with dev := s.dev.odReply p r }
    (entryAt e.toNat = none → answers (odCode 1)) ∧
    (∀ r, entryAt e.toNat = some r →
      (s.dev.notReady (.write v) (e.toNat / 256) = true → answers (odCode 3)) ∧
      (s.dev.notReady (.write v) (e.toNat / 256) = false →
        (s.dev.pathDenies p (.write v) (e.toNat / 256) = true ∨ r.acc.writable = false → answers (odCode 2)) ∧
        (s.dev.pathDenies p (.write v) (e.toNat / 256) = false → r.acc.writable = true →
          (r.typ.fixed = true → v.length ≠ r.typ.size → answers (odCode 4)) ∧ (r.typ.fixed = false → r.typ.size < v.length → answers (odCode 4)) ∧
          ((r.typ.fixed = true ∧ v.length = r.typ.size) ∨ (r.typ.fixed = false ∧ v.length ≤ r.typ.size) →
            (s.store p e.toNat r v = none → answers (odCode 2)) ∧
            (∀ t, s.store p e.toNat r v = some t →
              (lookupKey e.toNat rwpList = none → exec (.odWrite p 0xFF e v) s = .next { t with dev := t.dev.odReply p (odCode 0) }) ∧
              (lookupKey e.toNat rwpList ≠ none →
                exec (.odWrite p 0xFF e v) s = .next { t with dev := ({ t.dev with draws := t.dev.draws + 1 } : Dev).odReply p (odCode 0) } ∨
                exec (.odWrite p 0xFF e v) s = .next { s with dev := ({ s.dev with draws := t.dev.draws + 1 } : Dev).odReply p (odCode 8) }))))))) ∧
  (∀ (s : State) (p : OdPath), s.dev.pathUp p = true → (s.dev.links.bridged.filter (·.path == p)).length < 8 →
    (s.dev.notReady .restore 0 = true → exec (.odRestore p 0xFF) s = .next { s with dev := s.dev.odReply p (odCode 3) }) ∧
    (s.dev.notReady .restore 0 = false → s.dev.pathDenies p .restore 0 = true →
      exec (.odRestore p 0xFF) s = .next { s with dev := s.dev.odReply p (odCode 2) }) ∧
    (s.dev.notReady .restore 0 = false → s.dev.pathDenies p .restore 0 = false → ∃ k u, k ≤ rwpList.length ∧ (s.restoreAll p) = (k, u) ∧
      exec (.odRestore p 0xFF) s = .next { u with dev := u.dev.odReply p ⟨0, natLe 2 k, 0, 0⟩ })) ∧
  (∀ (s : State) (p : OdPath) (m : BitVec 8) (e : BitVec 24), s.dev.pathUp p = true →
    (8 ≤ (s.dev.links.bridged.filter (·.path == p)).length → exec (.odRead p m e) s = .next { s with dev := s.dev.odReply p (odCode 5) }) ∧
    ((s.dev.links.bridged.filter (·.path == p)).length < 8 → m ≠ 0xFF →
      ((isHead s.dev.links.group = false ∨ 64 ≤ m.toNat ∨ (m ≠ 0 ∧ (s.dev.memberOf m.toNat).present = false)) →
        exec (.odRead p m e) s = .next { s with dev := s.dev.odReply p (odCode 7) }) ∧
      (isHead s.dev.links.group = true → m = 0 → exec (.odRead p m e) s = exec (.odRead p 0xFF e) s) ∧
      (isHead s.dev.links.group = true → 0 < m.toNat → m.toNat < 64 → (s.dev.memberOf m.toNat).present = true →
        (∀ x, x ∈ s.dev.links.xid → x.2 + 1 < 2 ^ 52) → ∃ d, exec (.odRead p m e) s = .next { s with dev := d } ∧
          d.links.bridged = s.dev.links.bridged ++ [⟨m.setWidth 6, BitVec.ofNat 16 (Tbl.get 0 s.dev.links.xid m.toNat), p⟩] ∧
          (∀ f, OdPath.func p = some f → (Tbl.get OdWin.reset d.od.win f).resp = 0x80000000)))) ∧
  (∀ (s : State) (p : OdPath) (m : BitVec 8) (e : BitVec 24), s.dev.pathUp p = false → exec (.odRead p m e) s = .next s)

/-- Management bindings (R496 to R499). A control command of MCTP is answered on the binding it came by while the binding's path is there, only the bus
owner's Set Endpoint ID sets it, discovery is for VDM alone; MGMT_ALERT_N is driven or an IBI is raised when a condition begins, and the alert
response address is answered with the device's address.
Where the manual is open it rests on the model's choice in log entries 34, 69 and 98. -/
def Obligations.ManagementBindings : Prop :=
  (∀ (s : State) (b : Binding), s.dev.bindUp b = true →
    let answers (c : Instr) (bs : List Byte) : Prop := ∃ d, exec c s = .next { s with dev := d } ∧ Tbl.get [] d.od.ctrl (Binding.num b) = bs ∧
      d.od.val = s.dev.od.val ∧ d.binding b = s.dev.binding b ∧ s.dev.OnlyIn [.od] d
    (∀ eid : Byte, eid ≠ 0 → eid ≠ 0xFF → (∃ d, exec (.setEndpointId b eid true) s = .next { s with dev := d } ∧ (d.binding b).eid = eid ∧
        Tbl.get [] d.od.ctrl (Binding.num b) = [0, 0, eid, 0] ∧ (∀ b', b' ≠ b → d.binding b' = s.dev.binding b') ∧ s.dev.OnlyIn [.od] d) ∧
      answers (.setEndpointId b eid false) [0, 0x10, (s.dev.binding b).eid, 0]) ∧
    answers (.getEndpointId b) [0, (s.dev.binding b).eid, 0, 0] ∧
    answers (.getEndpointUuid b) (0 :: natLe 16 (Config.uuid Config.serial).toNat) ∧
    answers (.getMctpVersionSupport b) [0, 1, 0xF1, 0xF3, 0xFF, 0x00] ∧
    answers (.getMessageTypeSupport b) [0, 2, 0x00, 0x7E] ∧
    (∃ hi lo, natLe 2 Config.vendorId.toNat = [lo, hi] ∧ answers (.getVendorDefinedMsgSupport b) [0, 0xFF, 0x00, hi, lo, 0x00, 0x01]) ∧
    (∀ code : Byte, code.toNat = 0 ∨ (6 < code.toNat ∧ code.toNat < 11) ∨ 13 < code.toNat → answers (.unsupportedControlCmd b code) [0x05]) ∧
    (b = .side → answers (.prepareForEndpointDiscovery b) [0x05] ∧ answers (.endpointDiscovery b) [0x05]) ∧
    (b = .vdm → answers (.endpointDiscovery b) [0] ∧ ∃ d, exec (.prepareForEndpointDiscovery b) s = .next { s with dev := d } ∧
      Tbl.get [] d.od.ctrl 0 = [0] ∧ (d.binding .vdm).eid = (s.dev.binding .vdm).eid ∧ (d.binding .vdm).discovered = false ∧ s.dev.OnlyIn [.od] d)) ∧
  (∀ (s : State), s.dev.bindUp .vdm = true → exec .discoveryNotify s =
    .next { s with dev := { s.dev with od := { s.dev.od with notifies := s.dev.od.notifies + 1 } } }) ∧
  (∀ (s : State), s.dev.pins.auxUp = true → s.dev.pins.mgmtMode = false → s.dev.pins.alertDrv = true →
    ∃ d, exec .alertResponse s = .next { s with dev := d } ∧ d.od.ara = some (0x60 + s.dev.pins.addrSel.setWidth 7) ∧
      d.pins.alertDrv = s.dev.alertCond ∧ s.dev.OnlyIn [.od, .pins] d) ∧
  (∀ (s : State), s.dev.pins.auxUp = true →
    (s.dev.alertCond = true → s.dev.pins.mgmtMode = false → exec .mgmtAlert s =
      .next { s with dev := { s.dev with pins := { s.dev.pins with alertDrv := true } } }) ∧
    (s.dev.alertCond = true → s.dev.pins.mgmtMode = true → exec .mgmtAlert s =
      .next { s with dev := { s.dev with od := { s.dev.od with ibis := s.dev.od.ibis + 1 } } }) ∧
    (s.dev.alertCond = false → exec .mgmtAlert s = .next s)) ∧
  (∀ (s : State) (a : BitVec 7), s.dev.pins.auxUp = true → s.dev.pins.mgmtMode = true → exec (.i3cDynamicAddressAssignment a) s =
    .next { s with dev := { s.dev with od := { s.dev.od with i3c := some a } } })

/-- A step takes the command at the front of the queue and runs it on the rest; on an empty queue a nanosecond of the oscillator passes while the
device is powered and out of reset: DEV_TIME advances by it at the rate in force (R368), and nothing else changes but the counters' sample at a multiple
of 10 ms (log entry 1). -/
def Obligations.StepTakesTheFront : Prop :=
  (∀ (s : State) (c : Instr) (rest : List Instr), step { s with pending := c :: rest } = exec c { s with pending := rest }) ∧
  (∀ (s : State), s.pending = [] → ∃ d, step s = .next { s with dev := d } ∧ s.dev.OnlyIn [.hif, .cntHeld, .totHeld] d ∧
    d.hif = { s.dev.hif with devTime := d.hif.devTime, ptmFrac := d.hif.ptmFrac } ∧
    (s.dev.pins.perstN = true → s.dev.pins.pwrGood = true → (s.dev.hif.ptmRate = 0 → s.dev.hif.ptmFrac < 1000000 → d.hif.devTime = s.dev.hif.devTime + 1) ∧
      (-1000 ≤ s.dev.hif.ptmRate → s.dev.hif.ptmRate ≤ 1000 → s.dev.hif.ptmFrac < 1000000 → ∃ n, n ≤ 2 ∧
        d.hif.devTime = s.dev.hif.devTime + BitVec.ofNat 64 n ∧
        (n * 1000000 + d.hif.ptmFrac : Int) = s.dev.hif.ptmFrac + 1000000 + s.dev.hif.ptmRate ∧ d.hif.ptmFrac < 1000000) ∧
      (d.hif.devTime.toNat / 10000000 ≠ s.dev.now / 10000000 → d.cntHeld = s.dev.cnt ∧ d.totHeld = s.dev.tot) ∧
      (d.hif.devTime.toNat / 10000000 = s.dev.now / 10000000 → d.cntHeld = s.dev.cntHeld ∧ d.totHeld = s.dev.totHeld)) ∧
    ((s.dev.pins.perstN = false ∨ s.dev.pins.pwrGood = false) → d = s.dev))

/-- The machine right after reset: no command waits, host memory lists nothing and is in its canonical form, every tag is FREE, every queue disabled,
no lease is held, DEV_TIME is 0, no event bit stands, no source is enabled, GDIS is 0, no object or catalogue entry is there, the group is SOLO,
the flash registers are locked, no scratchpad line is written and the OD_ window's MEMBER reads 0xFF.
Where the manual is open it rests on the model's choice in log entries 3, 4 and 33. -/
def Obligations.ResetState : Prop :=
  State.reset.HostWf ∧ State.reset.pending = [] ∧ State.reset.host = [] ∧
  (∀ t, (State.reset.dev.tagE t).st = .free) ∧
  (∀ q, (State.reset.dev.queue q).en = false ∧ (State.reset.dev.queue q).sqHead = 0 ∧ (State.reset.dev.queue q).cqTail = 0 ∧
    (State.reset.dev.queue q).phase = true) ∧
  (∀ f, (State.reset.dev.lease f).st = .none) ∧ State.reset.dev.hif.devTime = 0 ∧ State.reset.dev.hif.ready = false ∧
  (∀ r, State.reset.dev.evtReg r = 0) ∧ State.reset.dev.evc.core.enable = 0 ∧ State.reset.dev.evc.core.gdis = false ∧
  State.reset.dev.evc.core.pend = 0 ∧ State.reset.dev.evc.core.armed = 0 ∧ (∀ o, (State.reset.dev.obj o).st = .free) ∧
  (∀ n, (State.reset.dev.cat n).used = false) ∧ State.reset.dev.links.group = .solo ∧ State.reset.dev.cellar.lock = 0 ∧
  (∀ n, (State.reset.dev.seq n).st = .free) ∧ (∀ p, (State.reset.dev.plan p).st = .free) ∧
  (∀ (c : CoreNo) off, State.reset.dev.unwritten c off 64 = (linesOf off 64).length) ∧
  State.reset.dev.od.wpVdm = false ∧ State.reset.dev.od.wpSide = false ∧ OdWin.reset.req.extractLsb' 48 8 = 0xFF

/-- Every command of the table completes in every state: it answers a next state, never a fault or a refusal, and leaves the queue of waiting
commands as it was.
Where the manual is open it rests on the model's choice in log entry 38. -/
def Obligations.EveryCommandAnswers : Prop :=
  ∀ (c : Instr) (s : State), ∃ u, exec c s = .next u ∧ u.pending = s.pending

/-- What every step keeps: the host's memory stays in its canonical form, no component's SVN floor falls, and no revoked key is trusted again (R426:
fuses are blown and never restored).
Where the manual is open it rests on the model's choice in log entries 4 and 5. -/
def Obligations.StepKeepsMemoryAndFuses : Prop :=
  ∀ (s u : State), step s = .next u →
    (s.HostWf → u.HostWf) ∧ (∀ c, s.nv.floorOf c ≤ u.nv.floorOf c) ∧ (∀ k, s.nv.revoked.getLsbD k = true → u.nv.revoked.getLsbD k = true)

/-- R107. NOP uses no word beyond W0: it has no operand, size or check of its own, whatever stands in W1 to W7, which software writes zero. It
completes DONE with RESULT zero when its waits and fence resolve: the wait or the fence that resolves last makes it READY, READY it starts,
and started it completes; one that still waits does not, and nothing but its completion happens. -/
def Obligations.NopCompletesDone : Prop :=
  (∀ x : Desc, x.op = 0x01 → opSpec x = OpSpec.none) ∧
  (∀ (s : State) (t : Tag), (s.dev.tagE t).desc.op = 0x01 →
    ((s.dev.tagE t).st = .running → (s.dev.tagE t).retries = 0 →
      ∃ d, exec (.nop t) s = .next { s with dev := d } ∧ s.dev.Completed d t stDONE 0 0) ∧
    ((s.dev.tagE t).st = .waiting → exec (.nop t) s = .next s) ∧
    ((s.dev.tagE t).st = .ready → (s.dev.tagE t).checked = false → (s.dev.tagE t).epoch = (s.dev.part (s.dev.tagE t).desc.part).epoch →
      ∃ d d', exec (.commandStart t []) s = .next { s with dev := d } ∧ exec (.nop t) { s with dev := d } = .next { s with dev := d' } ∧
        s.dev.Completed d' t stDONE 0 0) ∧
    ((s.dev.tagE t).st = .waiting → (s.dev.tagE t).fence = none → ((s.dev.tagE t).wait0.decided || (s.dev.tagE t).wait1.decided) = true →
      (s.dev.tagE t).wait0.settle = .none → (s.dev.tagE t).wait1.settle = .none →
      ∃ d, exec (.waitResolve t) s = .next { s with dev := d } ∧ d.tagE t = { s.dev.tagE t with st := .ready, wait0 := .none, wait1 := .none }) ∧
    ((s.dev.tagE t).st = .waiting → (s.dev.tagE t).fence = some [] → (s.dev.tagE t).wait0 = .none → (s.dev.tagE t).wait1 = .none →
      ∃ d, exec (.fenceClear t) s = .next { s with dev := d } ∧ d.tagE t = { s.dev.tagE t with st := .ready, fence := none }))

/-- R296. Without TICK, S_k = A + k × PERIOD in DEV_TIME, the step interval is PERIOD, and A is the DEV_TIME at which the plan becomes ACTIVE,
rounded up to a multiple of 1,000 ns. -/
def Obligations.ScheduleWithoutTick : Prop :=
  (∀ (p : Plan) (k : Nat), p.tick = false → p.anchor.toNat + k * p.period < 2 ^ 64 →
    p.schedAt k = p.anchor.toNat + k * p.period ∧ p.interval = p.period) ∧
  (∀ (d : Dev) (n : PlanNo) (p : Plan), d.now + 1000 ≤ 2 ^ 64 →
    ((d.activate n p).plan n).st = .active ∧ ((d.activate n p).plan n).anchor.toNat % 1000 = 0 ∧
    d.now ≤ ((d.activate n p).plan n).anchor.toNat ∧ ((d.activate n p).plan n).anchor.toNat < d.now + 1000)

/-- R369. The TIME_LO of a completion record, a transfer record and a serving event is the low word of the full value, and a DEV_TIME read less
than 2^32 ns after it gives the full value back as T − ((T_lo − TIME_LO) mod 2^32). (A confidential partition's records, whose low bits are
cleared, and its TOKEN events, which carry a tag in place of the time, are outside this statement.) -/
def Obligations.TimeLoGivesTheFullTime : Prop :=
  (∀ a T : W64, a ≤ T → (T - a).toNat < 2 ^ 32 → T - ((T.truncate 32 : W32) - a.truncate 32).zeroExtend 64 = a) ∧
  (∀ (d : Dev) (t : Tag) (st : Byte) (detail : BitVec 16) (r : Nat), (d.tagE t).live = true →
    ((d.complete t st detail r).tagE t).timeLo = d.hif.devTime.truncate 32) ∧
  (∀ (d : Dev) (x : Desc) (st retries : Byte) (detail : BitVec 16) (result timeLo : W32), (d.part x.part).conf = false →
    leNat (((recordBytes d x st retries detail result timeLo).drop 8).take 4) = timeLo.toNat) ∧
  (∀ (d : Dev) (xid : BitVec 16) (p : PartNo) (st : Byte) (detail : BitVec 16) (kib : Nat), (d.part p).conf = false →
    leNat (((d.xferRecord xid p st detail kib).drop 8).take 4) = (d.hif.devTime.truncate 32 : W32).toNat) ∧
  (∀ (d : Dev) (e : SrvEv), (d.part e.part).conf = false →
    leNat (((d.evBytes e).drop 24).take 4) = (BitVec.ofNat 32 e.time).toNat)
end

