-- ==== Sys2Proof/Laws/Table.lean ====
section
/-! SUPPORT. Laws of tables kept by key and of byte memories: an entry read after a write, the entries a write leaves alone, and
the canonical form kept by every operation. The laws of reading hold of every table, canonical or not. -/

namespace Sys2Proof

variable {α : Type}

/-! Reads after writes. -/

theorem Tbl.get_put_same (d : α) (k : Nat) (v : α) (t : Tbl α) : Tbl.get d (Tbl.put k v t) k = v := by
  induction t with
  | nil => simp [Tbl.put, Tbl.get]
  | cons e t ih =>
    obtain ⟨j, x⟩ := e
    simp only [Tbl.put]
    split
    · simp [Tbl.get]
    · split
      · simp [Tbl.get]
      · next h1 h2 => simp [Tbl.get, h2, ih]

theorem Tbl.get_put_ne (d : α) {k k' : Nat} (v : α) (t : Tbl α) (h : k' ≠ k) : Tbl.get d (Tbl.put k v t) k' = Tbl.get d t k' := by
  induction t with
  | nil => simp [Tbl.put, Tbl.get, h]
  | cons e t ih =>
    obtain ⟨j, x⟩ := e
    simp only [Tbl.put]
    split
    · simp [Tbl.get, h]
    · split
      · next h2 => subst h2; simp [Tbl.get, h]
      · simp only [Tbl.get, ih]

theorem Tbl.get_del_same (d : α) (k : Nat) (t : Tbl α) : Tbl.get d (Tbl.del k t) k = d := by
  induction t with
  | nil => rfl
  | cons e t ih =>
    obtain ⟨j, x⟩ := e
    simp only [Tbl.del]
    split
    · exact ih
    · next h => simp [Tbl.get, h, ih]

theorem Tbl.get_del_ne (d : α) {k k' : Nat} (t : Tbl α) (h : k' ≠ k) : Tbl.get d (Tbl.del k t) k' = Tbl.get d t k' := by
  induction t with
  | nil => rfl
  | cons e t ih =>
    obtain ⟨j, x⟩ := e
    simp only [Tbl.del]
    split
    · next h2 => subst h2; simp [Tbl.get, h, ih]
    · simp only [Tbl.get, ih]

variable [DecidableEq α]

/-- The entry just set. -/
theorem Tbl.get_set_same (d : α) (t : Tbl α) (k : Nat) (v : α) : Tbl.get d (Tbl.set d t k v) k = v := by
  unfold Tbl.set
  split
  · next h => rw [h]; exact Tbl.get_del_same d k t
  · exact Tbl.get_put_same d k v t

/-- The entries a set leaves alone. -/
theorem Tbl.get_set_ne (d : α) (t : Tbl α) {k k' : Nat} (v : α) (h : k' ≠ k) : Tbl.get d (Tbl.set d t k v) k' = Tbl.get d t k' := by
  unfold Tbl.set
  split
  · exact Tbl.get_del_ne d t h
  · exact Tbl.get_put_ne d v t h

theorem Tbl.get_mod_same (d : α) (t : Tbl α) (k : Nat) (f : α → α) : Tbl.get d (Tbl.mod d t k f) k = f (Tbl.get d t k) :=
  Tbl.get_set_same d t k _

theorem Tbl.get_mod_ne (d : α) (t : Tbl α) {k k' : Nat} (f : α → α) (h : k' ≠ k) : Tbl.get d (Tbl.mod d t k f) k' = Tbl.get d t k' :=
  Tbl.get_set_ne d t _ h

/-- An entry through a change of every entry, where it is listed and stays so. -/
theorem Tbl.get_mapAll {d : α} {f : Nat → α → α} {k : Nat} {t : Tbl α} (h : Tbl.get d t k ≠ d) (hf : f k (Tbl.get d t k) ≠ d) :
    Tbl.get d (Tbl.mapAll d f t) k = f k (Tbl.get d t k) := by
  induction t with
  | nil => exact absurd rfl h
  | cons e t ih =>
    obtain ⟨j, x⟩ := e
    simp only [Tbl.get] at h hf ⊢
    by_cases h1 : k = j
    · subst h1
      simp only [if_true] at h hf ⊢
      simp [Tbl.mapAll, hf, Tbl.get]
    · simp only [h1, if_false] at h hf ⊢
      simp only [Tbl.mapAll]
      split
      · exact ih h hf
      · simp only [Tbl.get, h1, if_false]
        exact ih h hf

/-! The canonical form. -/

theorem Tbl.wfAbove_mono {d : α} {a b : Nat} {t : Tbl α} (h : b ≤ a) (w : Tbl.wfAbove d a t = true) : Tbl.wfAbove d b t = true := by
  cases t with
  | nil => rfl
  | cons e t =>
    obtain ⟨j, x⟩ := e
    simp only [Tbl.wfAbove, Bool.and_eq_true, decide_eq_true_eq] at w ⊢
    exact ⟨⟨by omega, w.1.2⟩, w.2⟩

theorem Tbl.wf_of_wfAbove {d : α} {a : Nat} {t : Tbl α} (w : Tbl.wfAbove d a t = true) : Tbl.wf d t = true := by
  cases t with
  | nil => rfl
  | cons e t =>
    obtain ⟨j, x⟩ := e
    simp only [Tbl.wfAbove, Tbl.wf, Bool.and_eq_true, decide_eq_true_eq] at w ⊢
    exact ⟨w.1.2, w.2⟩

theorem Tbl.wfAbove_put {d : α} {a k : Nat} {v : α} {t : Tbl α} (hk : a < k) (hv : v ≠ d) (w : Tbl.wfAbove d a t = true) :
    Tbl.wfAbove d a (Tbl.put k v t) = true := by
  induction t generalizing a with
  | nil => simp [Tbl.put, Tbl.wfAbove, hk, hv]
  | cons e t ih =>
    obtain ⟨j, x⟩ := e
    simp only [Tbl.wfAbove, Bool.and_eq_true, decide_eq_true_eq] at w
    simp only [Tbl.put]
    split
    · next h1 => simp [Tbl.wfAbove, hk, hv, h1, w.1.2, w.2]
    · split
      · next h1 h2 => subst h2; simp [Tbl.wfAbove, hk, hv, w.2]
      · next h1 h2 => simp [Tbl.wfAbove, w.1.1, w.1.2, ih (a := j) (by omega) w.2]

theorem Tbl.wf_put {d : α} {k : Nat} {v : α} {t : Tbl α} (hv : v ≠ d) (w : Tbl.wf d t = true) : Tbl.wf d (Tbl.put k v t) = true := by
  cases t with
  | nil => simp [Tbl.put, Tbl.wf, Tbl.wfAbove, hv]
  | cons e t =>
    obtain ⟨j, x⟩ := e
    simp only [Tbl.wf, Bool.and_eq_true, decide_eq_true_eq] at w
    simp only [Tbl.put]
    split
    · next h1 => simp [Tbl.wf, Tbl.wfAbove, hv, h1, w.1, w.2]
    · split
      · next h1 h2 => subst h2; simp [Tbl.wf, hv, w.2]
      · next h1 h2 =>
        simp only [Tbl.wf, Bool.and_eq_true, decide_eq_true_eq]
        exact ⟨w.1, Tbl.wfAbove_put (by omega) hv w.2⟩

theorem Tbl.wfAbove_del {d : α} {a k : Nat} {t : Tbl α} (w : Tbl.wfAbove d a t = true) : Tbl.wfAbove d a (Tbl.del k t) = true := by
  induction t generalizing a with
  | nil => rfl
  | cons e t ih =>
    obtain ⟨j, x⟩ := e
    simp only [Tbl.wfAbove, Bool.and_eq_true, decide_eq_true_eq] at w
    simp only [Tbl.del]
    split
    · exact Tbl.wfAbove_mono (by omega) (ih w.2)
    · simp [Tbl.wfAbove, w.1.1, w.1.2, ih w.2]

theorem Tbl.wf_del {d : α} {k : Nat} {t : Tbl α} (w : Tbl.wf d t = true) : Tbl.wf d (Tbl.del k t) = true := by
  cases t with
  | nil => rfl
  | cons e t =>
    obtain ⟨j, x⟩ := e
    simp only [Tbl.wf, Bool.and_eq_true, decide_eq_true_eq] at w
    simp only [Tbl.del]
    split
    · exact Tbl.wf_of_wfAbove (Tbl.wfAbove_del w.2)
    · simp [Tbl.wf, w.1, Tbl.wfAbove_del w.2]

/-- Setting an entry keeps the canonical form. -/
theorem Tbl.wf_set {d : α} {k : Nat} {v : α} {t : Tbl α} (w : Tbl.wf d t = true) : Tbl.wf d (Tbl.set d t k v) = true := by
  unfold Tbl.set
  split
  · exact Tbl.wf_del w
  · next h => exact Tbl.wf_put h w

theorem Tbl.wfAbove_drop {d : α} {a : Nat} {p : Nat → Bool} {t : Tbl α} (w : Tbl.wfAbove d a t = true) :
    Tbl.wfAbove d a (Tbl.drop p t) = true := by
  induction t generalizing a with
  | nil => rfl
  | cons e t ih =>
    obtain ⟨j, x⟩ := e
    simp only [Tbl.wfAbove, Bool.and_eq_true, decide_eq_true_eq] at w
    have h := ih w.2
    unfold Tbl.drop at h ⊢
    simp only [List.filter_cons]
    split
    · simp [Tbl.wfAbove, w.1.1, w.1.2, h]
    · exact Tbl.wfAbove_mono (by omega) h

/-- Removing entries keeps the canonical form. -/
theorem Tbl.wf_drop {d : α} {p : Nat → Bool} {t : Tbl α} (w : Tbl.wf d t = true) : Tbl.wf d (Tbl.drop p t) = true := by
  cases t with
  | nil => rfl
  | cons e t =>
    obtain ⟨j, x⟩ := e
    simp only [Tbl.wf, Bool.and_eq_true, decide_eq_true_eq] at w
    have h : Tbl.wfAbove d j (Tbl.drop p t) = true := Tbl.wfAbove_drop w.2
    unfold Tbl.drop at h ⊢
    simp only [List.filter_cons]
    split
    · simp [Tbl.wf, w.1, h]
    · exact Tbl.wf_of_wfAbove h

/-! Byte memories. -/

theorem Memory.wf_write {m : Memory} {a : Nat} {b : Byte} (w : m.wf = true) : (m.write a b).wf = true := Tbl.wf_set w

theorem Memory.wf_writeN {m : Memory} {a : Nat} {bs : List Byte} (w : m.wf = true) : (m.writeN a bs).wf = true := by
  induction bs generalizing m a with
  | nil => exact w
  | cons b bs ih => exact ih (Memory.wf_write w)

theorem Memory.wf_writeLe {m : Memory} {a n v : Nat} (w : m.wf = true) : (m.writeLe a n v).wf = true := Memory.wf_writeN w

theorem Memory.wf_clear {m : Memory} {a n : Nat} (w : m.wf = true) : (m.clear a n).wf = true := Tbl.wf_drop w

theorem Memory.read_write_same (m : Memory) (a : Nat) (b : Byte) : (m.write a b).read a = b := Tbl.get_set_same _ m a b

theorem Memory.read_write_ne (m : Memory) {a c : Nat} (b : Byte) (h : c ≠ a) : (m.write a b).read c = m.read c := Tbl.get_set_ne _ m b h

/-- A byte outside a stored range reads as before. -/
theorem Memory.read_writeN_outside (m : Memory) {a c : Nat} (bs : List Byte) (h : c < a ∨ a + bs.length ≤ c) :
    (m.writeN a bs).read c = m.read c := by
  induction bs generalizing m a with
  | nil => rfl
  | cons b bs ih =>
    simp only [List.length_cons] at h
    rw [Memory.writeN, ih _ (by omega), Memory.read_write_ne _ _ (by omega)]

/-- A byte of a stored range reads as the byte stored there. -/
theorem Memory.read_writeN_inside (m : Memory) {a i : Nat} (bs : List Byte) (h : i < bs.length) :
    (m.writeN a bs).read (a + i) = bs.getD i 0 := by
  induction bs generalizing m a i with
  | nil => simp at h
  | cons b bs ih =>
    cases i with
    | zero =>
      rw [Memory.writeN, Memory.read_writeN_outside _ _ (by omega)]
      simpa using Memory.read_write_same m a b
    | succ i =>
      simp only [List.length_cons] at h
      rw [Memory.writeN]
      have := ih (m.write a b) (a := a + 1) (i := i) (by omega)
      rw [show a + (i + 1) = a + 1 + i by omega, this]
      simp

theorem Memory.readN_length (m : Memory) (a n : Nat) : (m.readN a n).length = n := by
  induction n generalizing a with
  | zero => rfl
  | succ n ih => simp [Memory.readN, ih]

theorem Memory.readN_getD (m : Memory) {a n i : Nat} (h : i < n) : (m.readN a n).getD i 0 = m.read (a + i) := by
  induction n generalizing a i with
  | zero => omega
  | succ n ih =>
    cases i with
    | zero => simp [Memory.readN]
    | succ i =>
      have := ih (a := a + 1) (i := i) (by omega)
      simp only [Memory.readN, List.getD_cons_succ, this]
      congr 1
      omega

end Sys2Proof
end

