-- ==== Sys2Proof/Laws/State.lean ====
section
/-! SUPPORT. What each update of the device leaves alone and what it stores: one lemma per field per update, each true by definition,
and the entry an update stores read back. -/

namespace Sys2Proof.Machine

/-! setCore. -/

@[simp] theorem Dev.setCore_pins (d : Dev) (c : CoreNo) (v : CoreSt) : (d.setCore c v).pins = d.pins := rfl
@[simp] theorem Dev.setCore_tier (d : Dev) (c : CoreNo) (v : CoreSt) : (d.setCore c v).tier = d.tier := rfl
@[simp] theorem Dev.setCore_cellar (d : Dev) (c : CoreNo) (v : CoreSt) : (d.setCore c v).cellar = d.cellar := rfl
@[simp] theorem Dev.setCore_srv (d : Dev) (c : CoreNo) (v : CoreSt) : (d.setCore c v).srv = d.srv := rfl
@[simp] theorem Dev.setCore_links (d : Dev) (c : CoreNo) (v : CoreSt) : (d.setCore c v).links = d.links := rfl
@[simp] theorem Dev.setCore_hif (d : Dev) (c : CoreNo) (v : CoreSt) : (d.setCore c v).hif = d.hif := rfl
@[simp] theorem Dev.setCore_evc (d : Dev) (c : CoreNo) (v : CoreSt) : (d.setCore c v).evc = d.evc := rfl
@[simp] theorem Dev.setCore_fw (d : Dev) (c : CoreNo) (v : CoreSt) : (d.setCore c v).fw = d.fw := rfl
@[simp] theorem Dev.setCore_sec (d : Dev) (c : CoreNo) (v : CoreSt) : (d.setCore c v).sec = d.sec := rfl
@[simp] theorem Dev.setCore_pwr (d : Dev) (c : CoreNo) (v : CoreSt) : (d.setCore c v).pwr = d.pwr := rfl
@[simp] theorem Dev.setCore_od (d : Dev) (c : CoreNo) (v : CoreSt) : (d.setCore c v).od = d.od := rfl
@[simp] theorem Dev.setCore_evt (d : Dev) (c : CoreNo) (v : CoreSt) : (d.setCore c v).evt = d.evt := rfl
@[simp] theorem Dev.setCore_cnt (d : Dev) (c : CoreNo) (v : CoreSt) : (d.setCore c v).cnt = d.cnt := rfl
@[simp] theorem Dev.setCore_tot (d : Dev) (c : CoreNo) (v : CoreSt) : (d.setCore c v).tot = d.tot := rfl
@[simp] theorem Dev.setCore_cntHeld (d : Dev) (c : CoreNo) (v : CoreSt) : (d.setCore c v).cntHeld = d.cntHeld := rfl
@[simp] theorem Dev.setCore_totHeld (d : Dev) (c : CoreNo) (v : CoreSt) : (d.setCore c v).totHeld = d.totHeld := rfl
@[simp] theorem Dev.setCore_draws (d : Dev) (c : CoreNo) (v : CoreSt) : (d.setCore c v).draws = d.draws := rfl

/-! setTag. -/

@[simp] theorem Dev.setTag_pins (d : Dev) (t : Tag) (v : TagE) : (d.setTag t v).pins = d.pins := rfl
@[simp] theorem Dev.setTag_tier (d : Dev) (t : Tag) (v : TagE) : (d.setTag t v).tier = d.tier := rfl
@[simp] theorem Dev.setTag_cellar (d : Dev) (t : Tag) (v : TagE) : (d.setTag t v).cellar = d.cellar := rfl
@[simp] theorem Dev.setTag_srv (d : Dev) (t : Tag) (v : TagE) : (d.setTag t v).srv = d.srv := rfl
@[simp] theorem Dev.setTag_links (d : Dev) (t : Tag) (v : TagE) : (d.setTag t v).links = d.links := rfl
@[simp] theorem Dev.setTag_hif (d : Dev) (t : Tag) (v : TagE) : (d.setTag t v).hif = d.hif := rfl
@[simp] theorem Dev.setTag_evc (d : Dev) (t : Tag) (v : TagE) : (d.setTag t v).evc = d.evc := rfl
@[simp] theorem Dev.setTag_fw (d : Dev) (t : Tag) (v : TagE) : (d.setTag t v).fw = d.fw := rfl
@[simp] theorem Dev.setTag_sec (d : Dev) (t : Tag) (v : TagE) : (d.setTag t v).sec = d.sec := rfl
@[simp] theorem Dev.setTag_pwr (d : Dev) (t : Tag) (v : TagE) : (d.setTag t v).pwr = d.pwr := rfl
@[simp] theorem Dev.setTag_od (d : Dev) (t : Tag) (v : TagE) : (d.setTag t v).od = d.od := rfl
@[simp] theorem Dev.setTag_evt (d : Dev) (t : Tag) (v : TagE) : (d.setTag t v).evt = d.evt := rfl
@[simp] theorem Dev.setTag_cnt (d : Dev) (t : Tag) (v : TagE) : (d.setTag t v).cnt = d.cnt := rfl
@[simp] theorem Dev.setTag_tot (d : Dev) (t : Tag) (v : TagE) : (d.setTag t v).tot = d.tot := rfl
@[simp] theorem Dev.setTag_cntHeld (d : Dev) (t : Tag) (v : TagE) : (d.setTag t v).cntHeld = d.cntHeld := rfl
@[simp] theorem Dev.setTag_totHeld (d : Dev) (t : Tag) (v : TagE) : (d.setTag t v).totHeld = d.totHeld := rfl
@[simp] theorem Dev.setTag_draws (d : Dev) (t : Tag) (v : TagE) : (d.setTag t v).draws = d.draws := rfl

/-! setSlot. -/

@[simp] theorem Dev.setSlot_pins (d : Dev) (n : Nat) (v : Slot) : (d.setSlot n v).pins = d.pins := rfl
@[simp] theorem Dev.setSlot_tier (d : Dev) (n : Nat) (v : Slot) : (d.setSlot n v).tier = d.tier := rfl
@[simp] theorem Dev.setSlot_cellar (d : Dev) (n : Nat) (v : Slot) : (d.setSlot n v).cellar = d.cellar := rfl
@[simp] theorem Dev.setSlot_srv (d : Dev) (n : Nat) (v : Slot) : (d.setSlot n v).srv = d.srv := rfl
@[simp] theorem Dev.setSlot_links (d : Dev) (n : Nat) (v : Slot) : (d.setSlot n v).links = d.links := rfl
@[simp] theorem Dev.setSlot_hif (d : Dev) (n : Nat) (v : Slot) : (d.setSlot n v).hif = d.hif := rfl
@[simp] theorem Dev.setSlot_evc (d : Dev) (n : Nat) (v : Slot) : (d.setSlot n v).evc = d.evc := rfl
@[simp] theorem Dev.setSlot_fw (d : Dev) (n : Nat) (v : Slot) : (d.setSlot n v).fw = d.fw := rfl
@[simp] theorem Dev.setSlot_sec (d : Dev) (n : Nat) (v : Slot) : (d.setSlot n v).sec = d.sec := rfl
@[simp] theorem Dev.setSlot_pwr (d : Dev) (n : Nat) (v : Slot) : (d.setSlot n v).pwr = d.pwr := rfl
@[simp] theorem Dev.setSlot_od (d : Dev) (n : Nat) (v : Slot) : (d.setSlot n v).od = d.od := rfl
@[simp] theorem Dev.setSlot_evt (d : Dev) (n : Nat) (v : Slot) : (d.setSlot n v).evt = d.evt := rfl
@[simp] theorem Dev.setSlot_cnt (d : Dev) (n : Nat) (v : Slot) : (d.setSlot n v).cnt = d.cnt := rfl
@[simp] theorem Dev.setSlot_tot (d : Dev) (n : Nat) (v : Slot) : (d.setSlot n v).tot = d.tot := rfl
@[simp] theorem Dev.setSlot_cntHeld (d : Dev) (n : Nat) (v : Slot) : (d.setSlot n v).cntHeld = d.cntHeld := rfl
@[simp] theorem Dev.setSlot_totHeld (d : Dev) (n : Nat) (v : Slot) : (d.setSlot n v).totHeld = d.totHeld := rfl
@[simp] theorem Dev.setSlot_draws (d : Dev) (n : Nat) (v : Slot) : (d.setSlot n v).draws = d.draws := rfl

/-! setBar. -/

@[simp] theorem Dev.setBar_pins (d : Dev) (n : Nat) (v : Bar) : (d.setBar n v).pins = d.pins := rfl
@[simp] theorem Dev.setBar_tier (d : Dev) (n : Nat) (v : Bar) : (d.setBar n v).tier = d.tier := rfl
@[simp] theorem Dev.setBar_cellar (d : Dev) (n : Nat) (v : Bar) : (d.setBar n v).cellar = d.cellar := rfl
@[simp] theorem Dev.setBar_srv (d : Dev) (n : Nat) (v : Bar) : (d.setBar n v).srv = d.srv := rfl
@[simp] theorem Dev.setBar_links (d : Dev) (n : Nat) (v : Bar) : (d.setBar n v).links = d.links := rfl
@[simp] theorem Dev.setBar_hif (d : Dev) (n : Nat) (v : Bar) : (d.setBar n v).hif = d.hif := rfl
@[simp] theorem Dev.setBar_evc (d : Dev) (n : Nat) (v : Bar) : (d.setBar n v).evc = d.evc := rfl
@[simp] theorem Dev.setBar_fw (d : Dev) (n : Nat) (v : Bar) : (d.setBar n v).fw = d.fw := rfl
@[simp] theorem Dev.setBar_sec (d : Dev) (n : Nat) (v : Bar) : (d.setBar n v).sec = d.sec := rfl
@[simp] theorem Dev.setBar_pwr (d : Dev) (n : Nat) (v : Bar) : (d.setBar n v).pwr = d.pwr := rfl
@[simp] theorem Dev.setBar_od (d : Dev) (n : Nat) (v : Bar) : (d.setBar n v).od = d.od := rfl
@[simp] theorem Dev.setBar_evt (d : Dev) (n : Nat) (v : Bar) : (d.setBar n v).evt = d.evt := rfl
@[simp] theorem Dev.setBar_cnt (d : Dev) (n : Nat) (v : Bar) : (d.setBar n v).cnt = d.cnt := rfl
@[simp] theorem Dev.setBar_tot (d : Dev) (n : Nat) (v : Bar) : (d.setBar n v).tot = d.tot := rfl
@[simp] theorem Dev.setBar_cntHeld (d : Dev) (n : Nat) (v : Bar) : (d.setBar n v).cntHeld = d.cntHeld := rfl
@[simp] theorem Dev.setBar_totHeld (d : Dev) (n : Nat) (v : Bar) : (d.setBar n v).totHeld = d.totHeld := rfl
@[simp] theorem Dev.setBar_draws (d : Dev) (n : Nat) (v : Bar) : (d.setBar n v).draws = d.draws := rfl

/-! setObj. -/

@[simp] theorem Dev.setObj_pins (d : Dev) (o : ObjNo) (v : Obj) : (d.setObj o v).pins = d.pins := rfl
@[simp] theorem Dev.setObj_cores (d : Dev) (o : ObjNo) (v : Obj) : (d.setObj o v).cores = d.cores := rfl
@[simp] theorem Dev.setObj_cellar (d : Dev) (o : ObjNo) (v : Obj) : (d.setObj o v).cellar = d.cellar := rfl
@[simp] theorem Dev.setObj_srv (d : Dev) (o : ObjNo) (v : Obj) : (d.setObj o v).srv = d.srv := rfl
@[simp] theorem Dev.setObj_links (d : Dev) (o : ObjNo) (v : Obj) : (d.setObj o v).links = d.links := rfl
@[simp] theorem Dev.setObj_hif (d : Dev) (o : ObjNo) (v : Obj) : (d.setObj o v).hif = d.hif := rfl
@[simp] theorem Dev.setObj_evc (d : Dev) (o : ObjNo) (v : Obj) : (d.setObj o v).evc = d.evc := rfl
@[simp] theorem Dev.setObj_fw (d : Dev) (o : ObjNo) (v : Obj) : (d.setObj o v).fw = d.fw := rfl
@[simp] theorem Dev.setObj_sec (d : Dev) (o : ObjNo) (v : Obj) : (d.setObj o v).sec = d.sec := rfl
@[simp] theorem Dev.setObj_pwr (d : Dev) (o : ObjNo) (v : Obj) : (d.setObj o v).pwr = d.pwr := rfl
@[simp] theorem Dev.setObj_od (d : Dev) (o : ObjNo) (v : Obj) : (d.setObj o v).od = d.od := rfl
@[simp] theorem Dev.setObj_evt (d : Dev) (o : ObjNo) (v : Obj) : (d.setObj o v).evt = d.evt := rfl
@[simp] theorem Dev.setObj_cnt (d : Dev) (o : ObjNo) (v : Obj) : (d.setObj o v).cnt = d.cnt := rfl
@[simp] theorem Dev.setObj_tot (d : Dev) (o : ObjNo) (v : Obj) : (d.setObj o v).tot = d.tot := rfl
@[simp] theorem Dev.setObj_cntHeld (d : Dev) (o : ObjNo) (v : Obj) : (d.setObj o v).cntHeld = d.cntHeld := rfl
@[simp] theorem Dev.setObj_totHeld (d : Dev) (o : ObjNo) (v : Obj) : (d.setObj o v).totHeld = d.totHeld := rfl
@[simp] theorem Dev.setObj_draws (d : Dev) (o : ObjNo) (v : Obj) : (d.setObj o v).draws = d.draws := rfl

/-! setPart. -/

@[simp] theorem Dev.setPart_pins (d : Dev) (p : PartNo) (v : Part) : (d.setPart p v).pins = d.pins := rfl
@[simp] theorem Dev.setPart_cores (d : Dev) (p : PartNo) (v : Part) : (d.setPart p v).cores = d.cores := rfl
@[simp] theorem Dev.setPart_tier (d : Dev) (p : PartNo) (v : Part) : (d.setPart p v).tier = d.tier := rfl
@[simp] theorem Dev.setPart_cellar (d : Dev) (p : PartNo) (v : Part) : (d.setPart p v).cellar = d.cellar := rfl
@[simp] theorem Dev.setPart_srv (d : Dev) (p : PartNo) (v : Part) : (d.setPart p v).srv = d.srv := rfl
@[simp] theorem Dev.setPart_links (d : Dev) (p : PartNo) (v : Part) : (d.setPart p v).links = d.links := rfl
@[simp] theorem Dev.setPart_hif (d : Dev) (p : PartNo) (v : Part) : (d.setPart p v).hif = d.hif := rfl
@[simp] theorem Dev.setPart_evc (d : Dev) (p : PartNo) (v : Part) : (d.setPart p v).evc = d.evc := rfl
@[simp] theorem Dev.setPart_fw (d : Dev) (p : PartNo) (v : Part) : (d.setPart p v).fw = d.fw := rfl
@[simp] theorem Dev.setPart_pwr (d : Dev) (p : PartNo) (v : Part) : (d.setPart p v).pwr = d.pwr := rfl
@[simp] theorem Dev.setPart_od (d : Dev) (p : PartNo) (v : Part) : (d.setPart p v).od = d.od := rfl
@[simp] theorem Dev.setPart_evt (d : Dev) (p : PartNo) (v : Part) : (d.setPart p v).evt = d.evt := rfl
@[simp] theorem Dev.setPart_cnt (d : Dev) (p : PartNo) (v : Part) : (d.setPart p v).cnt = d.cnt := rfl
@[simp] theorem Dev.setPart_tot (d : Dev) (p : PartNo) (v : Part) : (d.setPart p v).tot = d.tot := rfl
@[simp] theorem Dev.setPart_cntHeld (d : Dev) (p : PartNo) (v : Part) : (d.setPart p v).cntHeld = d.cntHeld := rfl
@[simp] theorem Dev.setPart_totHeld (d : Dev) (p : PartNo) (v : Part) : (d.setPart p v).totHeld = d.totHeld := rfl
@[simp] theorem Dev.setPart_draws (d : Dev) (p : PartNo) (v : Part) : (d.setPart p v).draws = d.draws := rfl

/-! setQueue. -/

@[simp] theorem Dev.setQueue_pins (d : Dev) (q : QueueNo) (v : QueueSt) : (d.setQueue q v).pins = d.pins := rfl
@[simp] theorem Dev.setQueue_cores (d : Dev) (q : QueueNo) (v : QueueSt) : (d.setQueue q v).cores = d.cores := rfl
@[simp] theorem Dev.setQueue_tier (d : Dev) (q : QueueNo) (v : QueueSt) : (d.setQueue q v).tier = d.tier := rfl
@[simp] theorem Dev.setQueue_cellar (d : Dev) (q : QueueNo) (v : QueueSt) : (d.setQueue q v).cellar = d.cellar := rfl
@[simp] theorem Dev.setQueue_srv (d : Dev) (q : QueueNo) (v : QueueSt) : (d.setQueue q v).srv = d.srv := rfl
@[simp] theorem Dev.setQueue_links (d : Dev) (q : QueueNo) (v : QueueSt) : (d.setQueue q v).links = d.links := rfl
@[simp] theorem Dev.setQueue_evc (d : Dev) (q : QueueNo) (v : QueueSt) : (d.setQueue q v).evc = d.evc := rfl
@[simp] theorem Dev.setQueue_fw (d : Dev) (q : QueueNo) (v : QueueSt) : (d.setQueue q v).fw = d.fw := rfl
@[simp] theorem Dev.setQueue_sec (d : Dev) (q : QueueNo) (v : QueueSt) : (d.setQueue q v).sec = d.sec := rfl
@[simp] theorem Dev.setQueue_pwr (d : Dev) (q : QueueNo) (v : QueueSt) : (d.setQueue q v).pwr = d.pwr := rfl
@[simp] theorem Dev.setQueue_od (d : Dev) (q : QueueNo) (v : QueueSt) : (d.setQueue q v).od = d.od := rfl
@[simp] theorem Dev.setQueue_evt (d : Dev) (q : QueueNo) (v : QueueSt) : (d.setQueue q v).evt = d.evt := rfl
@[simp] theorem Dev.setQueue_cnt (d : Dev) (q : QueueNo) (v : QueueSt) : (d.setQueue q v).cnt = d.cnt := rfl
@[simp] theorem Dev.setQueue_tot (d : Dev) (q : QueueNo) (v : QueueSt) : (d.setQueue q v).tot = d.tot := rfl
@[simp] theorem Dev.setQueue_cntHeld (d : Dev) (q : QueueNo) (v : QueueSt) : (d.setQueue q v).cntHeld = d.cntHeld := rfl
@[simp] theorem Dev.setQueue_totHeld (d : Dev) (q : QueueNo) (v : QueueSt) : (d.setQueue q v).totHeld = d.totHeld := rfl
@[simp] theorem Dev.setQueue_draws (d : Dev) (q : QueueNo) (v : QueueSt) : (d.setQueue q v).draws = d.draws := rfl

/-! setLease. -/

@[simp] theorem Dev.setLease_pins (d : Dev) (f : Nat) (v : Lease) : (d.setLease f v).pins = d.pins := rfl
@[simp] theorem Dev.setLease_cores (d : Dev) (f : Nat) (v : Lease) : (d.setLease f v).cores = d.cores := rfl
@[simp] theorem Dev.setLease_tier (d : Dev) (f : Nat) (v : Lease) : (d.setLease f v).tier = d.tier := rfl
@[simp] theorem Dev.setLease_cellar (d : Dev) (f : Nat) (v : Lease) : (d.setLease f v).cellar = d.cellar := rfl
@[simp] theorem Dev.setLease_srv (d : Dev) (f : Nat) (v : Lease) : (d.setLease f v).srv = d.srv := rfl
@[simp] theorem Dev.setLease_links (d : Dev) (f : Nat) (v : Lease) : (d.setLease f v).links = d.links := rfl
@[simp] theorem Dev.setLease_evc (d : Dev) (f : Nat) (v : Lease) : (d.setLease f v).evc = d.evc := rfl
@[simp] theorem Dev.setLease_fw (d : Dev) (f : Nat) (v : Lease) : (d.setLease f v).fw = d.fw := rfl
@[simp] theorem Dev.setLease_sec (d : Dev) (f : Nat) (v : Lease) : (d.setLease f v).sec = d.sec := rfl
@[simp] theorem Dev.setLease_pwr (d : Dev) (f : Nat) (v : Lease) : (d.setLease f v).pwr = d.pwr := rfl
@[simp] theorem Dev.setLease_od (d : Dev) (f : Nat) (v : Lease) : (d.setLease f v).od = d.od := rfl
@[simp] theorem Dev.setLease_evt (d : Dev) (f : Nat) (v : Lease) : (d.setLease f v).evt = d.evt := rfl
@[simp] theorem Dev.setLease_cnt (d : Dev) (f : Nat) (v : Lease) : (d.setLease f v).cnt = d.cnt := rfl
@[simp] theorem Dev.setLease_tot (d : Dev) (f : Nat) (v : Lease) : (d.setLease f v).tot = d.tot := rfl
@[simp] theorem Dev.setLease_cntHeld (d : Dev) (f : Nat) (v : Lease) : (d.setLease f v).cntHeld = d.cntHeld := rfl
@[simp] theorem Dev.setLease_totHeld (d : Dev) (f : Nat) (v : Lease) : (d.setLease f v).totHeld = d.totHeld := rfl
@[simp] theorem Dev.setLease_draws (d : Dev) (f : Nat) (v : Lease) : (d.setLease f v).draws = d.draws := rfl

/-! setPlan. -/

@[simp] theorem Dev.setPlan_pins (d : Dev) (p : PlanNo) (v : Plan) : (d.setPlan p v).pins = d.pins := rfl
@[simp] theorem Dev.setPlan_cores (d : Dev) (p : PlanNo) (v : Plan) : (d.setPlan p v).cores = d.cores := rfl
@[simp] theorem Dev.setPlan_tier (d : Dev) (p : PlanNo) (v : Plan) : (d.setPlan p v).tier = d.tier := rfl
@[simp] theorem Dev.setPlan_cellar (d : Dev) (p : PlanNo) (v : Plan) : (d.setPlan p v).cellar = d.cellar := rfl
@[simp] theorem Dev.setPlan_links (d : Dev) (p : PlanNo) (v : Plan) : (d.setPlan p v).links = d.links := rfl
@[simp] theorem Dev.setPlan_hif (d : Dev) (p : PlanNo) (v : Plan) : (d.setPlan p v).hif = d.hif := rfl
@[simp] theorem Dev.setPlan_evc (d : Dev) (p : PlanNo) (v : Plan) : (d.setPlan p v).evc = d.evc := rfl
@[simp] theorem Dev.setPlan_fw (d : Dev) (p : PlanNo) (v : Plan) : (d.setPlan p v).fw = d.fw := rfl
@[simp] theorem Dev.setPlan_sec (d : Dev) (p : PlanNo) (v : Plan) : (d.setPlan p v).sec = d.sec := rfl
@[simp] theorem Dev.setPlan_pwr (d : Dev) (p : PlanNo) (v : Plan) : (d.setPlan p v).pwr = d.pwr := rfl
@[simp] theorem Dev.setPlan_od (d : Dev) (p : PlanNo) (v : Plan) : (d.setPlan p v).od = d.od := rfl
@[simp] theorem Dev.setPlan_evt (d : Dev) (p : PlanNo) (v : Plan) : (d.setPlan p v).evt = d.evt := rfl
@[simp] theorem Dev.setPlan_cnt (d : Dev) (p : PlanNo) (v : Plan) : (d.setPlan p v).cnt = d.cnt := rfl
@[simp] theorem Dev.setPlan_tot (d : Dev) (p : PlanNo) (v : Plan) : (d.setPlan p v).tot = d.tot := rfl
@[simp] theorem Dev.setPlan_cntHeld (d : Dev) (p : PlanNo) (v : Plan) : (d.setPlan p v).cntHeld = d.cntHeld := rfl
@[simp] theorem Dev.setPlan_totHeld (d : Dev) (p : PlanNo) (v : Plan) : (d.setPlan p v).totHeld = d.totHeld := rfl
@[simp] theorem Dev.setPlan_draws (d : Dev) (p : PlanNo) (v : Plan) : (d.setPlan p v).draws = d.draws := rfl

/-! setSeq. -/

@[simp] theorem Dev.setSeq_pins (d : Dev) (q : SeqNo) (v : Seq) : (d.setSeq q v).pins = d.pins := rfl
@[simp] theorem Dev.setSeq_cores (d : Dev) (q : SeqNo) (v : Seq) : (d.setSeq q v).cores = d.cores := rfl
@[simp] theorem Dev.setSeq_tier (d : Dev) (q : SeqNo) (v : Seq) : (d.setSeq q v).tier = d.tier := rfl
@[simp] theorem Dev.setSeq_cellar (d : Dev) (q : SeqNo) (v : Seq) : (d.setSeq q v).cellar = d.cellar := rfl
@[simp] theorem Dev.setSeq_links (d : Dev) (q : SeqNo) (v : Seq) : (d.setSeq q v).links = d.links := rfl
@[simp] theorem Dev.setSeq_hif (d : Dev) (q : SeqNo) (v : Seq) : (d.setSeq q v).hif = d.hif := rfl
@[simp] theorem Dev.setSeq_evc (d : Dev) (q : SeqNo) (v : Seq) : (d.setSeq q v).evc = d.evc := rfl
@[simp] theorem Dev.setSeq_fw (d : Dev) (q : SeqNo) (v : Seq) : (d.setSeq q v).fw = d.fw := rfl
@[simp] theorem Dev.setSeq_sec (d : Dev) (q : SeqNo) (v : Seq) : (d.setSeq q v).sec = d.sec := rfl
@[simp] theorem Dev.setSeq_pwr (d : Dev) (q : SeqNo) (v : Seq) : (d.setSeq q v).pwr = d.pwr := rfl
@[simp] theorem Dev.setSeq_od (d : Dev) (q : SeqNo) (v : Seq) : (d.setSeq q v).od = d.od := rfl
@[simp] theorem Dev.setSeq_evt (d : Dev) (q : SeqNo) (v : Seq) : (d.setSeq q v).evt = d.evt := rfl
@[simp] theorem Dev.setSeq_cnt (d : Dev) (q : SeqNo) (v : Seq) : (d.setSeq q v).cnt = d.cnt := rfl
@[simp] theorem Dev.setSeq_tot (d : Dev) (q : SeqNo) (v : Seq) : (d.setSeq q v).tot = d.tot := rfl
@[simp] theorem Dev.setSeq_cntHeld (d : Dev) (q : SeqNo) (v : Seq) : (d.setSeq q v).cntHeld = d.cntHeld := rfl
@[simp] theorem Dev.setSeq_totHeld (d : Dev) (q : SeqNo) (v : Seq) : (d.setSeq q v).totHeld = d.totHeld := rfl
@[simp] theorem Dev.setSeq_draws (d : Dev) (q : SeqNo) (v : Seq) : (d.setSeq q v).draws = d.draws := rfl

/-! setPort. -/

@[simp] theorem Dev.setPort_pins (d : Dev) (p : PortNo) (v : Port) : (d.setPort p v).pins = d.pins := rfl
@[simp] theorem Dev.setPort_cores (d : Dev) (p : PortNo) (v : Port) : (d.setPort p v).cores = d.cores := rfl
@[simp] theorem Dev.setPort_tier (d : Dev) (p : PortNo) (v : Port) : (d.setPort p v).tier = d.tier := rfl
@[simp] theorem Dev.setPort_cellar (d : Dev) (p : PortNo) (v : Port) : (d.setPort p v).cellar = d.cellar := rfl
@[simp] theorem Dev.setPort_srv (d : Dev) (p : PortNo) (v : Port) : (d.setPort p v).srv = d.srv := rfl
@[simp] theorem Dev.setPort_hif (d : Dev) (p : PortNo) (v : Port) : (d.setPort p v).hif = d.hif := rfl
@[simp] theorem Dev.setPort_evc (d : Dev) (p : PortNo) (v : Port) : (d.setPort p v).evc = d.evc := rfl
@[simp] theorem Dev.setPort_fw (d : Dev) (p : PortNo) (v : Port) : (d.setPort p v).fw = d.fw := rfl
@[simp] theorem Dev.setPort_sec (d : Dev) (p : PortNo) (v : Port) : (d.setPort p v).sec = d.sec := rfl
@[simp] theorem Dev.setPort_pwr (d : Dev) (p : PortNo) (v : Port) : (d.setPort p v).pwr = d.pwr := rfl
@[simp] theorem Dev.setPort_od (d : Dev) (p : PortNo) (v : Port) : (d.setPort p v).od = d.od := rfl
@[simp] theorem Dev.setPort_evt (d : Dev) (p : PortNo) (v : Port) : (d.setPort p v).evt = d.evt := rfl
@[simp] theorem Dev.setPort_cnt (d : Dev) (p : PortNo) (v : Port) : (d.setPort p v).cnt = d.cnt := rfl
@[simp] theorem Dev.setPort_tot (d : Dev) (p : PortNo) (v : Port) : (d.setPort p v).tot = d.tot := rfl
@[simp] theorem Dev.setPort_cntHeld (d : Dev) (p : PortNo) (v : Port) : (d.setPort p v).cntHeld = d.cntHeld := rfl
@[simp] theorem Dev.setPort_totHeld (d : Dev) (p : PortNo) (v : Port) : (d.setPort p v).totHeld = d.totHeld := rfl
@[simp] theorem Dev.setPort_draws (d : Dev) (p : PortNo) (v : Port) : (d.setPort p v).draws = d.draws := rfl

/-! setBlk. -/

@[simp] theorem Dev.setBlk_pins (d : Dev) (ch b : Nat) (v : Blk) : (d.setBlk ch b v).pins = d.pins := rfl
@[simp] theorem Dev.setBlk_cores (d : Dev) (ch b : Nat) (v : Blk) : (d.setBlk ch b v).cores = d.cores := rfl
@[simp] theorem Dev.setBlk_tier (d : Dev) (ch b : Nat) (v : Blk) : (d.setBlk ch b v).tier = d.tier := rfl
@[simp] theorem Dev.setBlk_srv (d : Dev) (ch b : Nat) (v : Blk) : (d.setBlk ch b v).srv = d.srv := rfl
@[simp] theorem Dev.setBlk_links (d : Dev) (ch b : Nat) (v : Blk) : (d.setBlk ch b v).links = d.links := rfl
@[simp] theorem Dev.setBlk_hif (d : Dev) (ch b : Nat) (v : Blk) : (d.setBlk ch b v).hif = d.hif := rfl
@[simp] theorem Dev.setBlk_evc (d : Dev) (ch b : Nat) (v : Blk) : (d.setBlk ch b v).evc = d.evc := rfl
@[simp] theorem Dev.setBlk_fw (d : Dev) (ch b : Nat) (v : Blk) : (d.setBlk ch b v).fw = d.fw := rfl
@[simp] theorem Dev.setBlk_sec (d : Dev) (ch b : Nat) (v : Blk) : (d.setBlk ch b v).sec = d.sec := rfl
@[simp] theorem Dev.setBlk_pwr (d : Dev) (ch b : Nat) (v : Blk) : (d.setBlk ch b v).pwr = d.pwr := rfl
@[simp] theorem Dev.setBlk_od (d : Dev) (ch b : Nat) (v : Blk) : (d.setBlk ch b v).od = d.od := rfl
@[simp] theorem Dev.setBlk_evt (d : Dev) (ch b : Nat) (v : Blk) : (d.setBlk ch b v).evt = d.evt := rfl
@[simp] theorem Dev.setBlk_cnt (d : Dev) (ch b : Nat) (v : Blk) : (d.setBlk ch b v).cnt = d.cnt := rfl
@[simp] theorem Dev.setBlk_tot (d : Dev) (ch b : Nat) (v : Blk) : (d.setBlk ch b v).tot = d.tot := rfl
@[simp] theorem Dev.setBlk_cntHeld (d : Dev) (ch b : Nat) (v : Blk) : (d.setBlk ch b v).cntHeld = d.cntHeld := rfl
@[simp] theorem Dev.setBlk_totHeld (d : Dev) (ch b : Nat) (v : Blk) : (d.setBlk ch b v).totHeld = d.totHeld := rfl
@[simp] theorem Dev.setBlk_draws (d : Dev) (ch b : Nat) (v : Blk) : (d.setBlk ch b v).draws = d.draws := rfl

/-! setCat. -/

@[simp] theorem Dev.setCat_pins (d : Dev) (n : Nat) (v : CatE) : (d.setCat n v).pins = d.pins := rfl
@[simp] theorem Dev.setCat_cores (d : Dev) (n : Nat) (v : CatE) : (d.setCat n v).cores = d.cores := rfl
@[simp] theorem Dev.setCat_tier (d : Dev) (n : Nat) (v : CatE) : (d.setCat n v).tier = d.tier := rfl
@[simp] theorem Dev.setCat_srv (d : Dev) (n : Nat) (v : CatE) : (d.setCat n v).srv = d.srv := rfl
@[simp] theorem Dev.setCat_links (d : Dev) (n : Nat) (v : CatE) : (d.setCat n v).links = d.links := rfl
@[simp] theorem Dev.setCat_hif (d : Dev) (n : Nat) (v : CatE) : (d.setCat n v).hif = d.hif := rfl
@[simp] theorem Dev.setCat_evc (d : Dev) (n : Nat) (v : CatE) : (d.setCat n v).evc = d.evc := rfl
@[simp] theorem Dev.setCat_fw (d : Dev) (n : Nat) (v : CatE) : (d.setCat n v).fw = d.fw := rfl
@[simp] theorem Dev.setCat_sec (d : Dev) (n : Nat) (v : CatE) : (d.setCat n v).sec = d.sec := rfl
@[simp] theorem Dev.setCat_pwr (d : Dev) (n : Nat) (v : CatE) : (d.setCat n v).pwr = d.pwr := rfl
@[simp] theorem Dev.setCat_od (d : Dev) (n : Nat) (v : CatE) : (d.setCat n v).od = d.od := rfl
@[simp] theorem Dev.setCat_evt (d : Dev) (n : Nat) (v : CatE) : (d.setCat n v).evt = d.evt := rfl
@[simp] theorem Dev.setCat_cnt (d : Dev) (n : Nat) (v : CatE) : (d.setCat n v).cnt = d.cnt := rfl
@[simp] theorem Dev.setCat_tot (d : Dev) (n : Nat) (v : CatE) : (d.setCat n v).tot = d.tot := rfl
@[simp] theorem Dev.setCat_cntHeld (d : Dev) (n : Nat) (v : CatE) : (d.setCat n v).cntHeld = d.cntHeld := rfl
@[simp] theorem Dev.setCat_totHeld (d : Dev) (n : Nat) (v : CatE) : (d.setCat n v).totHeld = d.totHeld := rfl
@[simp] theorem Dev.setCat_draws (d : Dev) (n : Nat) (v : CatE) : (d.setCat n v).draws = d.draws := rfl

/-! setComp. -/

@[simp] theorem Dev.setComp_pins (d : Dev) (c : Nat) (v : Comp) : (d.setComp c v).pins = d.pins := rfl
@[simp] theorem Dev.setComp_cores (d : Dev) (c : Nat) (v : Comp) : (d.setComp c v).cores = d.cores := rfl
@[simp] theorem Dev.setComp_tier (d : Dev) (c : Nat) (v : Comp) : (d.setComp c v).tier = d.tier := rfl
@[simp] theorem Dev.setComp_cellar (d : Dev) (c : Nat) (v : Comp) : (d.setComp c v).cellar = d.cellar := rfl
@[simp] theorem Dev.setComp_srv (d : Dev) (c : Nat) (v : Comp) : (d.setComp c v).srv = d.srv := rfl
@[simp] theorem Dev.setComp_links (d : Dev) (c : Nat) (v : Comp) : (d.setComp c v).links = d.links := rfl
@[simp] theorem Dev.setComp_hif (d : Dev) (c : Nat) (v : Comp) : (d.setComp c v).hif = d.hif := rfl
@[simp] theorem Dev.setComp_evc (d : Dev) (c : Nat) (v : Comp) : (d.setComp c v).evc = d.evc := rfl
@[simp] theorem Dev.setComp_sec (d : Dev) (c : Nat) (v : Comp) : (d.setComp c v).sec = d.sec := rfl
@[simp] theorem Dev.setComp_pwr (d : Dev) (c : Nat) (v : Comp) : (d.setComp c v).pwr = d.pwr := rfl
@[simp] theorem Dev.setComp_od (d : Dev) (c : Nat) (v : Comp) : (d.setComp c v).od = d.od := rfl
@[simp] theorem Dev.setComp_evt (d : Dev) (c : Nat) (v : Comp) : (d.setComp c v).evt = d.evt := rfl
@[simp] theorem Dev.setComp_cnt (d : Dev) (c : Nat) (v : Comp) : (d.setComp c v).cnt = d.cnt := rfl
@[simp] theorem Dev.setComp_tot (d : Dev) (c : Nat) (v : Comp) : (d.setComp c v).tot = d.tot := rfl
@[simp] theorem Dev.setComp_cntHeld (d : Dev) (c : Nat) (v : Comp) : (d.setComp c v).cntHeld = d.cntHeld := rfl
@[simp] theorem Dev.setComp_totHeld (d : Dev) (c : Nat) (v : Comp) : (d.setComp c v).totHeld = d.totHeld := rfl
@[simp] theorem Dev.setComp_draws (d : Dev) (c : Nat) (v : Comp) : (d.setComp c v).draws = d.draws := rfl

/-! addCnt. -/

@[simp] theorem Dev.addCnt_pins (d : Dev) (off n : Nat) : (d.addCnt off n).pins = d.pins := rfl
@[simp] theorem Dev.addCnt_cores (d : Dev) (off n : Nat) : (d.addCnt off n).cores = d.cores := rfl
@[simp] theorem Dev.addCnt_tier (d : Dev) (off n : Nat) : (d.addCnt off n).tier = d.tier := rfl
@[simp] theorem Dev.addCnt_cellar (d : Dev) (off n : Nat) : (d.addCnt off n).cellar = d.cellar := rfl
@[simp] theorem Dev.addCnt_srv (d : Dev) (off n : Nat) : (d.addCnt off n).srv = d.srv := rfl
@[simp] theorem Dev.addCnt_links (d : Dev) (off n : Nat) : (d.addCnt off n).links = d.links := rfl
@[simp] theorem Dev.addCnt_hif (d : Dev) (off n : Nat) : (d.addCnt off n).hif = d.hif := rfl
@[simp] theorem Dev.addCnt_evc (d : Dev) (off n : Nat) : (d.addCnt off n).evc = d.evc := rfl
@[simp] theorem Dev.addCnt_fw (d : Dev) (off n : Nat) : (d.addCnt off n).fw = d.fw := rfl
@[simp] theorem Dev.addCnt_sec (d : Dev) (off n : Nat) : (d.addCnt off n).sec = d.sec := rfl
@[simp] theorem Dev.addCnt_pwr (d : Dev) (off n : Nat) : (d.addCnt off n).pwr = d.pwr := rfl
@[simp] theorem Dev.addCnt_od (d : Dev) (off n : Nat) : (d.addCnt off n).od = d.od := rfl
@[simp] theorem Dev.addCnt_evt (d : Dev) (off n : Nat) : (d.addCnt off n).evt = d.evt := rfl
@[simp] theorem Dev.addCnt_tot (d : Dev) (off n : Nat) : (d.addCnt off n).tot = d.tot := rfl
@[simp] theorem Dev.addCnt_cntHeld (d : Dev) (off n : Nat) : (d.addCnt off n).cntHeld = d.cntHeld := rfl
@[simp] theorem Dev.addCnt_totHeld (d : Dev) (off n : Nat) : (d.addCnt off n).totHeld = d.totHeld := rfl
@[simp] theorem Dev.addCnt_draws (d : Dev) (off n : Nat) : (d.addCnt off n).draws = d.draws := rfl

/-! addTot. -/

@[simp] theorem Dev.addTot_pins (d : Dev) (ent n : Nat) : (d.addTot ent n).pins = d.pins := rfl
@[simp] theorem Dev.addTot_cores (d : Dev) (ent n : Nat) : (d.addTot ent n).cores = d.cores := rfl
@[simp] theorem Dev.addTot_tier (d : Dev) (ent n : Nat) : (d.addTot ent n).tier = d.tier := rfl
@[simp] theorem Dev.addTot_cellar (d : Dev) (ent n : Nat) : (d.addTot ent n).cellar = d.cellar := rfl
@[simp] theorem Dev.addTot_srv (d : Dev) (ent n : Nat) : (d.addTot ent n).srv = d.srv := rfl
@[simp] theorem Dev.addTot_links (d : Dev) (ent n : Nat) : (d.addTot ent n).links = d.links := rfl
@[simp] theorem Dev.addTot_hif (d : Dev) (ent n : Nat) : (d.addTot ent n).hif = d.hif := rfl
@[simp] theorem Dev.addTot_evc (d : Dev) (ent n : Nat) : (d.addTot ent n).evc = d.evc := rfl
@[simp] theorem Dev.addTot_fw (d : Dev) (ent n : Nat) : (d.addTot ent n).fw = d.fw := rfl
@[simp] theorem Dev.addTot_sec (d : Dev) (ent n : Nat) : (d.addTot ent n).sec = d.sec := rfl
@[simp] theorem Dev.addTot_pwr (d : Dev) (ent n : Nat) : (d.addTot ent n).pwr = d.pwr := rfl
@[simp] theorem Dev.addTot_od (d : Dev) (ent n : Nat) : (d.addTot ent n).od = d.od := rfl
@[simp] theorem Dev.addTot_evt (d : Dev) (ent n : Nat) : (d.addTot ent n).evt = d.evt := rfl
@[simp] theorem Dev.addTot_cnt (d : Dev) (ent n : Nat) : (d.addTot ent n).cnt = d.cnt := rfl
@[simp] theorem Dev.addTot_cntHeld (d : Dev) (ent n : Nat) : (d.addTot ent n).cntHeld = d.cntHeld := rfl
@[simp] theorem Dev.addTot_totHeld (d : Dev) (ent n : Nat) : (d.addTot ent n).totHeld = d.totHeld := rfl
@[simp] theorem Dev.addTot_draws (d : Dev) (ent n : Nat) : (d.addTot ent n).draws = d.draws := rfl

/-! count. -/

@[simp] theorem Dev.count_pins (d : Dev) (off ent n : Nat) : (d.count off ent n).pins = d.pins := rfl
@[simp] theorem Dev.count_cores (d : Dev) (off ent n : Nat) : (d.count off ent n).cores = d.cores := rfl
@[simp] theorem Dev.count_tier (d : Dev) (off ent n : Nat) : (d.count off ent n).tier = d.tier := rfl
@[simp] theorem Dev.count_cellar (d : Dev) (off ent n : Nat) : (d.count off ent n).cellar = d.cellar := rfl
@[simp] theorem Dev.count_srv (d : Dev) (off ent n : Nat) : (d.count off ent n).srv = d.srv := rfl
@[simp] theorem Dev.count_links (d : Dev) (off ent n : Nat) : (d.count off ent n).links = d.links := rfl
@[simp] theorem Dev.count_hif (d : Dev) (off ent n : Nat) : (d.count off ent n).hif = d.hif := rfl
@[simp] theorem Dev.count_evc (d : Dev) (off ent n : Nat) : (d.count off ent n).evc = d.evc := rfl
@[simp] theorem Dev.count_fw (d : Dev) (off ent n : Nat) : (d.count off ent n).fw = d.fw := rfl
@[simp] theorem Dev.count_sec (d : Dev) (off ent n : Nat) : (d.count off ent n).sec = d.sec := rfl
@[simp] theorem Dev.count_pwr (d : Dev) (off ent n : Nat) : (d.count off ent n).pwr = d.pwr := rfl
@[simp] theorem Dev.count_od (d : Dev) (off ent n : Nat) : (d.count off ent n).od = d.od := rfl
@[simp] theorem Dev.count_evt (d : Dev) (off ent n : Nat) : (d.count off ent n).evt = d.evt := rfl
@[simp] theorem Dev.count_cntHeld (d : Dev) (off ent n : Nat) : (d.count off ent n).cntHeld = d.cntHeld := rfl
@[simp] theorem Dev.count_totHeld (d : Dev) (off ent n : Nat) : (d.count off ent n).totHeld = d.totHeld := rfl
@[simp] theorem Dev.count_draws (d : Dev) (off ent n : Nat) : (d.count off ent n).draws = d.draws := rfl

/-! setEvt. -/

@[simp] theorem Dev.setEvt_pins (d : Dev) (r : EvtReg) (m : Nat) : (d.setEvt r m).pins = d.pins := rfl
@[simp] theorem Dev.setEvt_cores (d : Dev) (r : EvtReg) (m : Nat) : (d.setEvt r m).cores = d.cores := rfl
@[simp] theorem Dev.setEvt_tier (d : Dev) (r : EvtReg) (m : Nat) : (d.setEvt r m).tier = d.tier := rfl
@[simp] theorem Dev.setEvt_cellar (d : Dev) (r : EvtReg) (m : Nat) : (d.setEvt r m).cellar = d.cellar := rfl
@[simp] theorem Dev.setEvt_srv (d : Dev) (r : EvtReg) (m : Nat) : (d.setEvt r m).srv = d.srv := rfl
@[simp] theorem Dev.setEvt_links (d : Dev) (r : EvtReg) (m : Nat) : (d.setEvt r m).links = d.links := rfl
@[simp] theorem Dev.setEvt_hif (d : Dev) (r : EvtReg) (m : Nat) : (d.setEvt r m).hif = d.hif := rfl
@[simp] theorem Dev.setEvt_fw (d : Dev) (r : EvtReg) (m : Nat) : (d.setEvt r m).fw = d.fw := rfl
@[simp] theorem Dev.setEvt_sec (d : Dev) (r : EvtReg) (m : Nat) : (d.setEvt r m).sec = d.sec := rfl
@[simp] theorem Dev.setEvt_pwr (d : Dev) (r : EvtReg) (m : Nat) : (d.setEvt r m).pwr = d.pwr := rfl
@[simp] theorem Dev.setEvt_od (d : Dev) (r : EvtReg) (m : Nat) : (d.setEvt r m).od = d.od := rfl
@[simp] theorem Dev.setEvt_cnt (d : Dev) (r : EvtReg) (m : Nat) : (d.setEvt r m).cnt = d.cnt := rfl
@[simp] theorem Dev.setEvt_tot (d : Dev) (r : EvtReg) (m : Nat) : (d.setEvt r m).tot = d.tot := rfl
@[simp] theorem Dev.setEvt_cntHeld (d : Dev) (r : EvtReg) (m : Nat) : (d.setEvt r m).cntHeld = d.cntHeld := rfl
@[simp] theorem Dev.setEvt_totHeld (d : Dev) (r : EvtReg) (m : Nat) : (d.setEvt r m).totHeld = d.totHeld := rfl
@[simp] theorem Dev.setEvt_draws (d : Dev) (r : EvtReg) (m : Nat) : (d.setEvt r m).draws = d.draws := rfl

/-! spWrite. -/

@[simp] theorem Dev.spWrite_pins (d : Dev) (c : CoreNo) (off : Nat) (bs : List Byte) : (d.spWrite c off bs).pins = d.pins := rfl
@[simp] theorem Dev.spWrite_tier (d : Dev) (c : CoreNo) (off : Nat) (bs : List Byte) : (d.spWrite c off bs).tier = d.tier := rfl
@[simp] theorem Dev.spWrite_cellar (d : Dev) (c : CoreNo) (off : Nat) (bs : List Byte) : (d.spWrite c off bs).cellar = d.cellar := rfl
@[simp] theorem Dev.spWrite_srv (d : Dev) (c : CoreNo) (off : Nat) (bs : List Byte) : (d.spWrite c off bs).srv = d.srv := rfl
@[simp] theorem Dev.spWrite_links (d : Dev) (c : CoreNo) (off : Nat) (bs : List Byte) : (d.spWrite c off bs).links = d.links := rfl
@[simp] theorem Dev.spWrite_hif (d : Dev) (c : CoreNo) (off : Nat) (bs : List Byte) : (d.spWrite c off bs).hif = d.hif := rfl
@[simp] theorem Dev.spWrite_evc (d : Dev) (c : CoreNo) (off : Nat) (bs : List Byte) : (d.spWrite c off bs).evc = d.evc := rfl
@[simp] theorem Dev.spWrite_fw (d : Dev) (c : CoreNo) (off : Nat) (bs : List Byte) : (d.spWrite c off bs).fw = d.fw := rfl
@[simp] theorem Dev.spWrite_sec (d : Dev) (c : CoreNo) (off : Nat) (bs : List Byte) : (d.spWrite c off bs).sec = d.sec := rfl
@[simp] theorem Dev.spWrite_pwr (d : Dev) (c : CoreNo) (off : Nat) (bs : List Byte) : (d.spWrite c off bs).pwr = d.pwr := rfl
@[simp] theorem Dev.spWrite_od (d : Dev) (c : CoreNo) (off : Nat) (bs : List Byte) : (d.spWrite c off bs).od = d.od := rfl
@[simp] theorem Dev.spWrite_evt (d : Dev) (c : CoreNo) (off : Nat) (bs : List Byte) : (d.spWrite c off bs).evt = d.evt := rfl
@[simp] theorem Dev.spWrite_cnt (d : Dev) (c : CoreNo) (off : Nat) (bs : List Byte) : (d.spWrite c off bs).cnt = d.cnt := rfl
@[simp] theorem Dev.spWrite_tot (d : Dev) (c : CoreNo) (off : Nat) (bs : List Byte) : (d.spWrite c off bs).tot = d.tot := rfl
@[simp] theorem Dev.spWrite_cntHeld (d : Dev) (c : CoreNo) (off : Nat) (bs : List Byte) : (d.spWrite c off bs).cntHeld = d.cntHeld := rfl
@[simp] theorem Dev.spWrite_totHeld (d : Dev) (c : CoreNo) (off : Nat) (bs : List Byte) : (d.spWrite c off bs).totHeld = d.totHeld := rfl
@[simp] theorem Dev.spWrite_draws (d : Dev) (c : CoreNo) (off : Nat) (bs : List Byte) : (d.spWrite c off bs).draws = d.draws := rfl

/-! spClear. -/

@[simp] theorem Dev.spClear_pins (d : Dev) (c : CoreNo) : (d.spClear c).pins = d.pins := rfl
@[simp] theorem Dev.spClear_tier (d : Dev) (c : CoreNo) : (d.spClear c).tier = d.tier := rfl
@[simp] theorem Dev.spClear_cellar (d : Dev) (c : CoreNo) : (d.spClear c).cellar = d.cellar := rfl
@[simp] theorem Dev.spClear_srv (d : Dev) (c : CoreNo) : (d.spClear c).srv = d.srv := rfl
@[simp] theorem Dev.spClear_links (d : Dev) (c : CoreNo) : (d.spClear c).links = d.links := rfl
@[simp] theorem Dev.spClear_hif (d : Dev) (c : CoreNo) : (d.spClear c).hif = d.hif := rfl
@[simp] theorem Dev.spClear_evc (d : Dev) (c : CoreNo) : (d.spClear c).evc = d.evc := rfl
@[simp] theorem Dev.spClear_fw (d : Dev) (c : CoreNo) : (d.spClear c).fw = d.fw := rfl
@[simp] theorem Dev.spClear_sec (d : Dev) (c : CoreNo) : (d.spClear c).sec = d.sec := rfl
@[simp] theorem Dev.spClear_pwr (d : Dev) (c : CoreNo) : (d.spClear c).pwr = d.pwr := rfl
@[simp] theorem Dev.spClear_od (d : Dev) (c : CoreNo) : (d.spClear c).od = d.od := rfl
@[simp] theorem Dev.spClear_evt (d : Dev) (c : CoreNo) : (d.spClear c).evt = d.evt := rfl
@[simp] theorem Dev.spClear_cnt (d : Dev) (c : CoreNo) : (d.spClear c).cnt = d.cnt := rfl
@[simp] theorem Dev.spClear_tot (d : Dev) (c : CoreNo) : (d.spClear c).tot = d.tot := rfl
@[simp] theorem Dev.spClear_cntHeld (d : Dev) (c : CoreNo) : (d.spClear c).cntHeld = d.cntHeld := rfl
@[simp] theorem Dev.spClear_totHeld (d : Dev) (c : CoreNo) : (d.spClear c).totHeld = d.totHeld := rfl
@[simp] theorem Dev.spClear_draws (d : Dev) (c : CoreNo) : (d.spClear c).draws = d.draws := rfl

/-! Tables of the cores. -/

@[simp] theorem Dev.tagE_setCore (d : Dev) (c : CoreNo) (v : CoreSt) (a : Tag) : (d.setCore c v).tagE a = d.tagE a := rfl
@[simp] theorem Dev.slot_setCore (d : Dev) (c : CoreNo) (v : CoreSt) (a : Nat) : (d.setCore c v).slot a = d.slot a := rfl
@[simp] theorem Dev.bar_setCore (d : Dev) (c : CoreNo) (v : CoreSt) (a : Nat) : (d.setCore c v).bar a = d.bar a := rfl
@[simp] theorem Dev.setCore_scratch (d : Dev) (c : CoreNo) (v : CoreSt) : (d.setCore c v).cores.scratch = d.cores.scratch := rfl
@[simp] theorem Dev.setCore_written (d : Dev) (c : CoreNo) (v : CoreSt) : (d.setCore c v).cores.written = d.cores.written := rfl
@[simp] theorem Dev.core_setTag (d : Dev) (t : Tag) (v : TagE) (a : CoreNo) : (d.setTag t v).core a = d.core a := rfl
@[simp] theorem Dev.slot_setTag (d : Dev) (t : Tag) (v : TagE) (a : Nat) : (d.setTag t v).slot a = d.slot a := rfl
@[simp] theorem Dev.bar_setTag (d : Dev) (t : Tag) (v : TagE) (a : Nat) : (d.setTag t v).bar a = d.bar a := rfl
@[simp] theorem Dev.setTag_scratch (d : Dev) (t : Tag) (v : TagE) : (d.setTag t v).cores.scratch = d.cores.scratch := rfl
@[simp] theorem Dev.setTag_written (d : Dev) (t : Tag) (v : TagE) : (d.setTag t v).cores.written = d.cores.written := rfl
@[simp] theorem Dev.core_setSlot (d : Dev) (n : Nat) (v : Slot) (a : CoreNo) : (d.setSlot n v).core a = d.core a := rfl
@[simp] theorem Dev.tagE_setSlot (d : Dev) (n : Nat) (v : Slot) (a : Tag) : (d.setSlot n v).tagE a = d.tagE a := rfl
@[simp] theorem Dev.bar_setSlot (d : Dev) (n : Nat) (v : Slot) (a : Nat) : (d.setSlot n v).bar a = d.bar a := rfl
@[simp] theorem Dev.setSlot_scratch (d : Dev) (n : Nat) (v : Slot) : (d.setSlot n v).cores.scratch = d.cores.scratch := rfl
@[simp] theorem Dev.setSlot_written (d : Dev) (n : Nat) (v : Slot) : (d.setSlot n v).cores.written = d.cores.written := rfl
@[simp] theorem Dev.core_setBar (d : Dev) (n : Nat) (v : Bar) (a : CoreNo) : (d.setBar n v).core a = d.core a := rfl
@[simp] theorem Dev.tagE_setBar (d : Dev) (n : Nat) (v : Bar) (a : Tag) : (d.setBar n v).tagE a = d.tagE a := rfl
@[simp] theorem Dev.slot_setBar (d : Dev) (n : Nat) (v : Bar) (a : Nat) : (d.setBar n v).slot a = d.slot a := rfl
@[simp] theorem Dev.setBar_scratch (d : Dev) (n : Nat) (v : Bar) : (d.setBar n v).cores.scratch = d.cores.scratch := rfl
@[simp] theorem Dev.setBar_written (d : Dev) (n : Nat) (v : Bar) : (d.setBar n v).cores.written = d.cores.written := rfl

/-! What an update stores, read back, and the entries it leaves alone. -/

@[simp] theorem Dev.tagE_setTag_same (d : Dev) (t : Tag) (v : TagE) : (d.setTag t v).tagE t = v := Tbl.get_set_same _ _ _ _
theorem Dev.tagE_setTag_ne (d : Dev) (t : Tag) {u : _} (v : TagE) (h : u ≠ t) : (d.setTag t v).tagE u = d.tagE u :=
  Tbl.get_set_ne _ _ _ (fun e => h (BitVec.eq_of_toNat_eq e))
@[simp] theorem Dev.core_setCore_same (d : Dev) (t : CoreNo) (v : CoreSt) : (d.setCore t v).core t = v := Tbl.get_set_same _ _ _ _
theorem Dev.core_setCore_ne (d : Dev) (t : CoreNo) {u : _} (v : CoreSt) (h : u ≠ t) : (d.setCore t v).core u = d.core u :=
  Tbl.get_set_ne _ _ _ (fun e => h (BitVec.eq_of_toNat_eq e))
@[simp] theorem Dev.slot_setSlot_same (d : Dev) (t : Nat) (v : Slot) : (d.setSlot t v).slot t = v := Tbl.get_set_same _ _ _ _
theorem Dev.slot_setSlot_ne (d : Dev) (t : Nat) {u : Nat} (v : Slot) (h : u ≠ t) : (d.setSlot t v).slot u = d.slot u := Tbl.get_set_ne _ _ _ h
@[simp] theorem Dev.bar_setBar_same (d : Dev) (t : Nat) (v : Bar) : (d.setBar t v).bar t = v := Tbl.get_set_same _ _ _ _
theorem Dev.bar_setBar_ne (d : Dev) (t : Nat) {u : Nat} (v : Bar) (h : u ≠ t) : (d.setBar t v).bar u = d.bar u := Tbl.get_set_ne _ _ _ h
@[simp] theorem Dev.obj_setObj_same (d : Dev) (t : ObjNo) (v : Obj) : (d.setObj t v).obj t = v := Tbl.get_set_same _ _ _ _
theorem Dev.obj_setObj_ne (d : Dev) (t : ObjNo) {u : _} (v : Obj) (h : u ≠ t) : (d.setObj t v).obj u = d.obj u :=
  Tbl.get_set_ne _ _ _ (fun e => h (BitVec.eq_of_toNat_eq e))
@[simp] theorem Dev.part_setPart_same (d : Dev) (t : PartNo) (v : Part) : (d.setPart t v).part t = v := Tbl.get_set_same _ _ _ _
theorem Dev.part_setPart_ne (d : Dev) (t : PartNo) {u : _} (v : Part) (h : u ≠ t) : (d.setPart t v).part u = d.part u :=
  Tbl.get_set_ne _ _ _ (fun e => h (BitVec.eq_of_toNat_eq e))
@[simp] theorem Dev.queue_setQueue_same (d : Dev) (t : QueueNo) (v : QueueSt) : (d.setQueue t v).queue t = v := Tbl.get_set_same _ _ _ _
theorem Dev.queue_setQueue_ne (d : Dev) (t : QueueNo) {u : _} (v : QueueSt) (h : u ≠ t) : (d.setQueue t v).queue u = d.queue u :=
  Tbl.get_set_ne _ _ _ (fun e => h (BitVec.eq_of_toNat_eq e))
@[simp] theorem Dev.lease_setLease_same (d : Dev) (t : Nat) (v : Lease) : (d.setLease t v).lease t = v := Tbl.get_set_same _ _ _ _
theorem Dev.lease_setLease_ne (d : Dev) (t : Nat) {u : Nat} (v : Lease) (h : u ≠ t) : (d.setLease t v).lease u = d.lease u := Tbl.get_set_ne _ _ _ h
@[simp] theorem Dev.plan_setPlan_same (d : Dev) (t : PlanNo) (v : Plan) : (d.setPlan t v).plan t = v := Tbl.get_set_same _ _ _ _
theorem Dev.plan_setPlan_ne (d : Dev) (t : PlanNo) {u : _} (v : Plan) (h : u ≠ t) : (d.setPlan t v).plan u = d.plan u :=
  Tbl.get_set_ne _ _ _ (fun e => h (BitVec.eq_of_toNat_eq e))
@[simp] theorem Dev.seq_setSeq_same (d : Dev) (t : SeqNo) (v : Seq) : (d.setSeq t v).seq t = v := Tbl.get_set_same _ _ _ _
theorem Dev.seq_setSeq_ne (d : Dev) (t : SeqNo) {u : _} (v : Seq) (h : u ≠ t) : (d.setSeq t v).seq u = d.seq u :=
  Tbl.get_set_ne _ _ _ (fun e => h (BitVec.eq_of_toNat_eq e))
@[simp] theorem Dev.port_setPort_same (d : Dev) (t : PortNo) (v : Port) : (d.setPort t v).port t = v := Tbl.get_set_same _ _ _ _
theorem Dev.port_setPort_ne (d : Dev) (t : PortNo) {u : _} (v : Port) (h : u ≠ t) : (d.setPort t v).port u = d.port u :=
  Tbl.get_set_ne _ _ _ (fun e => h (BitVec.eq_of_toNat_eq e))
@[simp] theorem Dev.cat_setCat_same (d : Dev) (t : Nat) (v : CatE) : (d.setCat t v).cat t = v := Tbl.get_set_same _ _ _ _
theorem Dev.cat_setCat_ne (d : Dev) (t : Nat) {u : Nat} (v : CatE) (h : u ≠ t) : (d.setCat t v).cat u = d.cat u := Tbl.get_set_ne _ _ _ h
@[simp] theorem Dev.comp_setComp_same (d : Dev) (t : Nat) (v : Comp) : (d.setComp t v).comp t = v := Tbl.get_set_same _ _ _ _
theorem Dev.comp_setComp_ne (d : Dev) (t : Nat) {u : Nat} (v : Comp) (h : u ≠ t) : (d.setComp t v).comp u = d.comp u := Tbl.get_set_ne _ _ _ h
@[simp] theorem Dev.blk_setBlk_same (d : Dev) (ch b : Nat) (v : Blk) : (d.setBlk ch b v).blk ch b = v := Tbl.get_set_same _ _ _ _

/-! An object changes nothing else of the tiers. -/

@[simp] theorem Dev.tier_mem_setObj (d : Dev) (o : ObjNo) (v : Obj) : (d.setObj o v).tier.mem = d.tier.mem := rfl
@[simp] theorem Dev.tier_moves_setObj (d : Dev) (o : ObjNo) (v : Obj) : (d.setObj o v).tier.moves = d.tier.moves := rfl
@[simp] theorem Dev.tier_run_setObj (d : Dev) (o : ObjNo) (v : Obj) : (d.setObj o v).tier.run = d.tier.run := rfl
@[simp] theorem Dev.tier_misses_setObj (d : Dev) (o : ObjNo) (v : Obj) : (d.setObj o v).tier.misses = d.tier.misses := rfl
@[simp] theorem Dev.tier_through_setObj (d : Dev) (o : ObjNo) (v : Obj) : (d.setObj o v).tier.through = d.tier.through := rfl
@[simp] theorem Dev.tier_relNo_setObj (d : Dev) (o : ObjNo) (v : Obj) : (d.setObj o v).tier.relNo = d.tier.relNo := rfl
@[simp] theorem Dev.tier_rot_setObj (d : Dev) (o : ObjNo) (v : Obj) : (d.setObj o v).tier.rot = d.tier.rot := rfl
@[simp] theorem Dev.tier_quads_setObj (d : Dev) (o : ObjNo) (v : Obj) : (d.setObj o v).tier.quads = d.tier.quads := rfl
@[simp] theorem Dev.tier_rack_setObj (d : Dev) (o : ObjNo) (v : Obj) : (d.setObj o v).tier.rack = d.tier.rack := rfl
@[simp] theorem Dev.tier_floor1_setObj (d : Dev) (o : ObjNo) (v : Obj) : (d.setObj o v).tier.floor1 = d.tier.floor1 := rfl
@[simp] theorem Dev.tier_floor2_setObj (d : Dev) (o : ObjNo) (v : Obj) : (d.setObj o v).tier.floor2 = d.tier.floor2 := rfl
@[simp] theorem Dev.tier_floor3_setObj (d : Dev) (o : ObjNo) (v : Obj) : (d.setObj o v).tier.floor3 = d.tier.floor3 := rfl
@[simp] theorem Dev.tier_map0_setObj (d : Dev) (o : ObjNo) (v : Obj) : (d.setObj o v).tier.map0 = d.tier.map0 := rfl
@[simp] theorem Dev.tier_map1_setObj (d : Dev) (o : ObjNo) (v : Obj) : (d.setObj o v).tier.map1 = d.tier.map1 := rfl
@[simp] theorem Dev.tier_fetchAhead_setObj (d : Dev) (o : ObjNo) (v : Obj) : (d.setObj o v).tier.fetchAhead = d.tier.fetchAhead := rfl

/-! An effect on the device alone. -/

@[simp] theorem State.onDev_eq (s : State) (f : Dev → Dev) : s.onDev f = .next { s with dev := f s.dev } := rfl

end Sys2Proof.Machine
end

