-- ==== Sys2Proof/Laws/Ops.lean ====
section
/-! SUPPORT. What the shared operations of Machine/Ops.lean do, said once: the completion of a command, references, counts. -/

namespace Sys2Proof.Machine

/-! References and slot uses. -/

theorem Dev.dropRefs_keeps (os : List ObjNo) (d : Dev) :
    (d.dropRefs os).cores = d.cores ∧ (d.dropRefs os).pins = d.pins ∧ (d.dropRefs os).cellar = d.cellar ∧ (d.dropRefs os).srv = d.srv ∧
    (d.dropRefs os).links = d.links ∧ (d.dropRefs os).hif = d.hif ∧ (d.dropRefs os).fw = d.fw ∧ (d.dropRefs os).sec = d.sec ∧
    (d.dropRefs os).pwr = d.pwr ∧ (d.dropRefs os).od = d.od ∧ (d.dropRefs os).draws = d.draws ∧ (d.dropRefs os).tier.mem = d.tier.mem ∧
    (d.dropRefs os).cntHeld = d.cntHeld ∧ (d.dropRefs os).totHeld = d.totHeld := by
  unfold Dev.dropRefs
  induction os generalizing d with
  | nil => simp
  | cons o os ih => simpa using ih (d.setObj o { d.obj o with refs := (d.obj o).refs - 1 })

theorem Dev.takeRefs_keeps (os : List ObjNo) (d : Dev) :
    (d.takeRefs os).cores = d.cores ∧ (d.takeRefs os).pins = d.pins ∧ (d.takeRefs os).cellar = d.cellar ∧ (d.takeRefs os).srv = d.srv ∧
    (d.takeRefs os).links = d.links ∧ (d.takeRefs os).hif = d.hif ∧ (d.takeRefs os).fw = d.fw ∧ (d.takeRefs os).sec = d.sec ∧
    (d.takeRefs os).pwr = d.pwr ∧ (d.takeRefs os).od = d.od ∧ (d.takeRefs os).draws = d.draws := by
  unfold Dev.takeRefs
  induction os generalizing d with
  | nil => simp
  | cons o os ih => simpa using ih (d.setObj o { d.obj o with refs := (d.obj o).refs + 1 })

theorem Dev.slotFold_keeps (ns : List Nat) (f : Slot → Slot) (d : Dev) :
    let e := ns.foldl (fun d n => d.setSlot n (f (d.slot n))) d
    e.cores.tag = d.cores.tag ∧ e.cores.core = d.cores.core ∧ e.cores.scratch = d.cores.scratch ∧ e.cores.written = d.cores.written ∧
    e.cores.bar = d.cores.bar ∧ e.pins = d.pins ∧ e.tier = d.tier ∧ e.cellar = d.cellar ∧ e.srv = d.srv ∧ e.links = d.links ∧
    e.hif = d.hif ∧ e.fw = d.fw ∧ e.sec = d.sec ∧ e.pwr = d.pwr ∧ e.od = d.od ∧ e.draws = d.draws ∧
    e.cntHeld = d.cntHeld ∧ e.totHeld = d.totHeld := by
  induction ns generalizing d with
  | nil => simp
  | cons n ns ih => simpa [Dev.setSlot] using ih (d.setSlot n (f (d.slot n)))

/-! A completion (R92, R93, R98, R103). -/

theorem Dev.AsideCompletion.refl (d : Dev) : d.AsideCompletion d := ⟨rfl, rfl, rfl, rfl, rfl, rfl, rfl, rfl, rfl, rfl, rfl, rfl, rfl, rfl, rfl⟩

theorem Dev.AsideCompletion.trans {a b c : Dev} (h : a.AsideCompletion b) (k : b.AsideCompletion c) : a.AsideCompletion c :=
  ⟨k.1.trans h.1, k.2.trans h.2, k.3.trans h.3, k.4.trans h.4, k.5.trans h.5, k.6.trans h.6, k.7.trans h.7, k.8.trans h.8,
    k.9.trans h.9, k.10.trans h.10, k.11.trans h.11, k.12.trans h.12, k.13.trans h.13, k.14.trans h.14,
    k.15.trans h.15⟩

theorem Dev.addCnt_aside (d : Dev) (off n : Nat) : d.AsideCompletion (d.addCnt off n) :=
  ⟨rfl, rfl, rfl, rfl, rfl, rfl, rfl, rfl, rfl, rfl, rfl, rfl, rfl, rfl, rfl⟩
theorem Dev.addTot_aside (d : Dev) (ent n : Nat) : d.AsideCompletion (d.addTot ent n) :=
  ⟨rfl, rfl, rfl, rfl, rfl, rfl, rfl, rfl, rfl, rfl, rfl, rfl, rfl, rfl, rfl⟩
theorem Dev.count_aside (d : Dev) (off ent n : Nat) : d.AsideCompletion (d.count off ent n) :=
  (Dev.addCnt_aside d off n).trans (Dev.addTot_aside _ ent n)
theorem Dev.setEvt_aside (d : Dev) (r : EvtReg) (m : Nat) : d.AsideCompletion (d.setEvt r m) :=
  ⟨rfl, rfl, rfl, rfl, rfl, rfl, rfl, rfl, rfl, rfl, rfl, rfl, rfl, rfl, rfl⟩
theorem Dev.setTag_aside (d : Dev) (t : Tag) (v : TagE) : d.AsideCompletion (d.setTag t v) :=
  ⟨rfl, rfl, rfl, rfl, rfl, rfl, rfl, rfl, rfl, rfl, rfl, rfl, rfl, rfl, rfl⟩
theorem Dev.setCore_aside (d : Dev) (c : CoreNo) (v : CoreSt) : d.AsideCompletion (d.setCore c v) :=
  ⟨rfl, rfl, rfl, rfl, rfl, rfl, rfl, rfl, rfl, rfl, rfl, rfl, rfl, rfl, rfl⟩
theorem Dev.setBar_aside (d : Dev) (n : Nat) (v : Bar) : d.AsideCompletion (d.setBar n v) :=
  ⟨rfl, rfl, rfl, rfl, rfl, rfl, rfl, rfl, rfl, rfl, rfl, rfl, rfl, rfl, rfl⟩
theorem Dev.setSlot_aside (d : Dev) (n : Nat) (v : Slot) : d.AsideCompletion (d.setSlot n v) :=
  ⟨rfl, rfl, rfl, rfl, rfl, rfl, rfl, rfl, rfl, rfl, rfl, rfl, rfl, rfl, rfl⟩
theorem Dev.forget_aside (d : Dev) (t : Tag) : d.AsideCompletion { d with cores := d.cores.forget t } :=
  ⟨rfl, rfl, rfl, rfl, rfl, rfl, rfl, rfl, rfl, rfl, rfl, rfl, rfl, rfl, rfl⟩
theorem Dev.tags_aside (d : Dev) (ts : Tbl TagE) : d.AsideCompletion { d with cores := { d.cores with tag := ts } } :=
  ⟨rfl, rfl, rfl, rfl, rfl, rfl, rfl, rfl, rfl, rfl, rfl, rfl, rfl, rfl, rfl⟩
theorem Dev.lost_aside (d : Dev) (l : List Tag) : d.AsideCompletion { d with cores := { d.cores with lost := l } } :=
  ⟨rfl, rfl, rfl, rfl, rfl, rfl, rfl, rfl, rfl, rfl, rfl, rfl, rfl, rfl, rfl⟩
theorem Dev.aside_ite {c : Prop} [Decidable c] {d e f : Dev} (h : d.AsideCompletion e) (k : d.AsideCompletion f) :
    d.AsideCompletion (if c then e else f) := by
  split
  · exact h
  · exact k

theorem Dev.countDone_aside (d : Dev) (x : Desc) (st : Byte) : d.AsideCompletion (d.countDone x st) := by
  unfold Dev.countDone
  extract_lets d1 d2 d3
  have h1 : d.AsideCompletion d1 := Dev.aside_ite (Dev.addTot_aside _ _ _) (Dev.AsideCompletion.refl _)
  have h2 : d.AsideCompletion d2 := h1.trans (Dev.addCnt_aside _ _ _)
  have h3 : d.AsideCompletion d3 := Dev.aside_ite (h2.trans (Dev.count_aside _ _ _ _)) h2
  exact Dev.aside_ite h1 (Dev.aside_ite (h3.trans (Dev.setEvt_aside _ _ _)) (Dev.aside_ite (h3.trans (Dev.setEvt_aside _ _ _)) h3))

theorem Dev.dropUses_aside (d : Dev) (t : Tag) : d.AsideCompletion (d.dropUses t) := by
  have h := Dev.slotFold_keeps (Tbl.get [] d.cores.slotUse t.toNat) (fun s => { s with uses := s.uses - 1 }) d
  obtain ⟨_, _, h3, h4, _, h6, h7, h8, h9, h10, h11, h12, h13, h14, h15, h16, h17, h18⟩ := h
  exact ⟨h6, h8, h9, h10, h11, h12, h13, h14, h15, h16, h3, h4, congrArg TierSt.mem h7, h17, h18⟩

theorem Dev.dropRefs_aside (d : Dev) (os : List ObjNo) : d.AsideCompletion (d.dropRefs os) := by
  obtain ⟨h1, h2, h3, h4, h5, h6, h7, h8, h9, h10, h11, h12, h13, h14⟩ := Dev.dropRefs_keeps os d
  exact ⟨h2, h3, h4, h5, h6, h7, h8, h9, h10, h11, by rw [h1], by rw [h1], h12, h13, h14⟩

theorem Dev.drainerGone_aside (d : Dev) (t : Tag) (e : TagE) : d.AsideCompletion (d.drainerGone t e) :=
  ⟨rfl, rfl, rfl, rfl, rfl, rfl, rfl, rfl, rfl, rfl, rfl, rfl, rfl, rfl, rfl⟩

theorem Dev.producerGone_aside (d : Dev) (t : Tag) (c : CoreNo) : d.AsideCompletion (d.producerGone t c) := by
  unfold Dev.producerGone
  exact Dev.aside_ite (Dev.setCore_aside _ _ _) (Dev.AsideCompletion.refl _)

/-- A completion leaves all of these alone. -/
theorem Dev.complete_aside (d : Dev) (t : Tag) (st : Byte) (detail : BitVec 16) (result : Nat) :
    d.AsideCompletion (d.complete t st detail result) := by
  unfold Dev.complete
  extract_lets e d1 d2 d3 d4 d5 d6 c6 d7
  have h1 : d.AsideCompletion d1 := Dev.countDone_aside _ _ _
  have h2 : d.AsideCompletion d2 := h1.trans (Dev.dropUses_aside _ _)
  have h3 : d.AsideCompletion d3 := h2.trans (Dev.dropRefs_aside _ _)
  have h4 : d.AsideCompletion d4 := h3.trans (Dev.drainerGone_aside _ _ _)
  have h5 : d.AsideCompletion d5 := h4.trans (Dev.producerGone_aside _ _ _)
  have h6 : d.AsideCompletion d6 := h5.trans (Dev.forget_aside _ _)
  have h7 : d.AsideCompletion d7 := h6.trans (Dev.tags_aside _ _)
  exact Dev.aside_ite (h7.trans (Dev.setTag_aside _ _ _)) (Dev.AsideCompletion.refl _)

theorem Dev.completeOk_aside (d : Dev) (t : Tag) (result : Nat) : d.AsideCompletion (d.completeOk t result) :=
  Dev.complete_aside d t _ 0 result

theorem Dev.ite_tag {c : Prop} [Decidable c] {d e f : Dev} (h : e.cores.tag = d.cores.tag) (k : f.cores.tag = d.cores.tag) :
    (if c then e else f).cores.tag = d.cores.tag := by
  split
  · exact h
  · exact k

theorem Dev.countDone_tag (d : Dev) (x : Desc) (st : Byte) : (d.countDone x st).cores.tag = d.cores.tag := by
  unfold Dev.countDone
  extract_lets d1 d2 d3
  have h1 : d1.cores.tag = d.cores.tag := Dev.ite_tag rfl rfl
  have h2 : d2.cores.tag = d.cores.tag := h1
  have h3 : d3.cores.tag = d.cores.tag := Dev.ite_tag h2 h2
  exact Dev.ite_tag h1 (Dev.ite_tag h3 (Dev.ite_tag h3 h3))

theorem Dev.drainerGone_tag (d : Dev) (t : Tag) (e : TagE) : (d.drainerGone t e).cores.tag = d.cores.tag := rfl

theorem Dev.producerGone_tag (d : Dev) (t : Tag) (c : CoreNo) : (d.producerGone t c).cores.tag = d.cores.tag := by
  unfold Dev.producerGone
  exact Dev.ite_tag rfl rfl

/-- The tag table after a completion: the waits and fences of every entry noted, and the entry itself. -/
theorem Dev.complete_tagTable (d : Dev) (t : Tag) (st : Byte) (detail : BitVec 16) (result : Nat) (h : (d.tagE t).live = true) :
    (d.complete t st detail result).cores.tag =
      Tbl.set TagE.reset (Tbl.mapAll TagE.reset (fun _ => TagE.noteDone t (stSuccess st)) d.cores.tag) t.toNat
        { d.tagE t with st := .completing, status := st, detail := detail, result := BitVec.ofNat 32 result,
                        timeLo := d.hif.devTime.truncate 32, wait0 := .none, wait1 := .none, fence := none, refs := [], dead := [] } := by
  have hh := (Dev.complete_aside d t st detail result).hif
  revert hh
  unfold Dev.complete
  extract_lets e d1 d2 d3 d4 d5 d6 c6 d7
  have he : e.live = true := h
  simp only [he, if_true, Dev.setTag_hif]
  intro hh
  have ht : d5.cores.tag = d.cores.tag := by
    refine (Dev.producerGone_tag _ _ _).trans ((Dev.drainerGone_tag _ _ _).trans ?_)
    have h3 : d3.cores = d2.cores := (Dev.dropRefs_keeps _ _).1
    rw [h3]
    exact (Dev.slotFold_keeps _ (fun s => { s with uses := s.uses - 1 }) _).1.trans (Dev.countDone_tag _ _ _)
  have h6 : d6.cores.tag = d.cores.tag := ht
  simp only [Dev.setTag, hh]
  show Tbl.set _ (Tbl.mapAll _ _ d6.cores.tag) _ _ = _
  rw [h6]

/-- Another command's entry through a completion: only its waits and its fence take note. -/
theorem Dev.complete_other (d : Dev) (t u : Tag) (st : Byte) (detail : BitVec 16) (result : Nat) (h : u ≠ t) (hu : (d.tagE u).st ≠ .free) :
    (d.complete t st detail result).tagE u = if (d.tagE t).live then (d.tagE u).noteDone t (stSuccess st) else d.tagE u := by
  by_cases hl : (d.tagE t).live = true
  · have hne : d.tagE u ≠ TagE.reset := fun c => hu (by rw [c]; rfl)
    have hf : TagE.noteDone t (stSuccess st) (d.tagE u) ≠ TagE.reset := fun c => hu (by
      have := congrArg TagE.st c
      simpa [TagE.noteDone, TagE.reset] using this)
    have hk : u.toNat ≠ t.toNat := fun c => h (BitVec.eq_of_toNat_eq c)
    simp only [hl, if_true]
    unfold Dev.tagE
    rw [Dev.complete_tagTable d t st detail result hl]
    rw [Tbl.get_set_ne _ _ _ hk]
    exact Tbl.get_mapAll (f := fun _ => TagE.noteDone t (stSuccess st)) hne hf
  · have hl : (d.tagE t).live = false := by simpa using hl
    unfold Dev.complete
    simp [hl]

/-- A live command that completes is COMPLETING with the status, DETAIL, RESULT and TIME_LO decided then. -/
theorem Dev.complete_tag (d : Dev) (t : Tag) (st : Byte) (detail : BitVec 16) (result : Nat) (h : (d.tagE t).live = true) :
    ((d.complete t st detail result).tagE t).Done st detail result d.hif.devTime := by
  have hh := (Dev.complete_aside d t st detail result).hif
  revert hh
  unfold Dev.complete
  extract_lets e d1 d2 d3 d4 d5 d6 c6 d7
  have he : e.live = true := h
  simp only [he, if_true, Dev.setTag_hif]
  intro hh
  rw [Dev.tagE_setTag_same]
  exact ⟨rfl, rfl, rfl, rfl, by simp only [hh]⟩

/-- A command that does not run, wait or stand ready is left alone. -/
theorem Dev.complete_dead (d : Dev) (t : Tag) (st : Byte) (detail : BitVec 16) (result : Nat) (h : (d.tagE t).live = false) :
    d.complete t st detail result = d := by
  unfold Dev.complete
  simp [h]

/-- What runs is live. -/
theorem Dev.runs_live {d : Dev} {t : Tag} {op : Nat} (h : d.runs t op = true) :
    (d.tagE t).st = .running ∧ (d.tagE t).desc.op = op ∧ (d.tagE t).live = true := by
  unfold Dev.runs at h
  simp at h
  exact ⟨h.1, h.2, by simp [TagE.live, h.1]⟩

/-- A live command that completes, in the words of the statements. -/
theorem Dev.complete_completed (d : Dev) (t : Tag) (st : Byte) (detail : BitVec 16) (result : Nat) (h : (d.tagE t).live = true) :
    d.Completed (d.complete t st detail result) t st detail result :=
  ⟨Dev.complete_tag d t st detail result h, Dev.complete_aside d t st detail result⟩

theorem Dev.completeOk_completed (d : Dev) (t : Tag) (result : Nat) (h : (d.tagE t).live = true) :
    d.Completed (d.completeOk t result) t (d.tagE t).okStatus 0 result := Dev.complete_completed d t _ 0 result h

/-- A completed entry stays as it is through later completions. -/
theorem Dev.complete_stays (d : Dev) (t u : Tag) (st : Byte) (detail : BitVec 16) (result : Nat) (h : (d.tagE u).st = .completing) :
    ((d.complete t st detail result).tagE u).st = .completing ∧ ((d.complete t st detail result).tagE u).status = (d.tagE u).status ∧
    ((d.complete t st detail result).tagE u).detail = (d.tagE u).detail ∧
    ((d.complete t st detail result).tagE u).result = (d.tagE u).result ∧
    ((d.complete t st detail result).tagE u).timeLo = (d.tagE u).timeLo := by
  by_cases e : u = t
  · subst e
    have : (d.tagE u).live = false := by simp [TagE.live, h]
    rw [Dev.complete_dead _ _ _ _ _ this]
    exact ⟨h, rfl, rfl, rfl, rfl⟩
  · rw [Dev.complete_other d t u st detail result e (by simp [h])]
    split <;> exact ⟨h, rfl, rfl, rfl, rfl⟩

theorem Dev.complete_keepsDone (d : Dev) (t u : Tag) (st s' : Byte) (de de' : BitVec 16) (r r' : Nat) (now : W64)
    (h : (d.tagE u).Done s' de' r' now) : ((d.complete t st de r).tagE u).Done s' de' r' now := by
  obtain ⟨a, b, c, e, g⟩ := Dev.complete_stays d t u st de r h.state
  exact ⟨a, b.trans h.status, c.trans h.detail, e.trans h.result, g.trans h.time⟩

/-- A live command stays live through another's completion. -/
theorem Dev.live_other (d : Dev) (t u : Tag) (st : Byte) (detail : BitVec 16) (result : Nat) (h : u ≠ t) (hu : (d.tagE u).live = true) :
    ((d.complete t st detail result).tagE u).live = true ∧ ((d.complete t st detail result).tagE u).retries = (d.tagE u).retries ∧
    ((d.complete t st detail result).tagE u).desc = (d.tagE u).desc ∧ ((d.complete t st detail result).tagE u).st = (d.tagE u).st := by
  have : (d.tagE u).st ≠ .free := by
    intro c
    simp [TagE.live, c] at hu
  rw [Dev.complete_other d t u st detail result h this]
  split
  · exact ⟨by simpa [TagE.live, TagE.noteDone] using hu, rfl, rfl, rfl⟩
  · exact ⟨hu, rfl, rfl, rfl⟩

/-- Several commands completed, one after the other. -/
theorem Dev.completeAll_aside (ts : List Tag) (f : Dev → Tag → Byte) (d : Dev) :
    d.AsideCompletion (ts.foldl (fun d t => d.complete t (f d t) 0 0) d) := by
  induction ts generalizing d with
  | nil => exact Dev.AsideCompletion.refl d
  | cons t ts ih => exact (Dev.complete_aside d t (f d t) 0 0).trans (ih _)

theorem Dev.completeAll_keepsDone (ts : List Tag) (f : Dev → Tag → Byte) (d : Dev) (u : Tag) (st : Byte) (de : BitVec 16) (r : Nat) (now : W64)
    (h : (d.tagE u).Done st de r now) : ((ts.foldl (fun d t => d.complete t (f d t) 0 0) d).tagE u).Done st de r now := by
  induction ts generalizing d with
  | nil => exact h
  | cons t ts ih => exact ih _ (Dev.complete_keepsDone d t u (f d t) st 0 de 0 r now h)

theorem Dev.completeAll_done (ts : List Tag) (f : TagE → Byte) (hf : ∀ a b : TagE, a.retries = b.retries → f a = f b) (d : Dev) (u : Tag)
    (hm : u ∈ ts) (hl : (d.tagE u).live = true) :
    ((ts.foldl (fun d t => d.complete t (f (d.tagE t)) 0 0) d).tagE u).Done (f (d.tagE u)) 0 0 d.hif.devTime := by
  induction ts generalizing d with
  | nil => cases hm
  | cons t ts ih =>
    by_cases hut : u = t
    · subst hut
      exact Dev.completeAll_keepsDone ts (fun d t => f (d.tagE t)) _ u _ _ _ _ (Dev.complete_tag d u _ 0 0 hl)
    · have hm' : u ∈ ts := by
        cases hm with
        | head => exact absurd rfl hut
        | tail _ h => exact h
      obtain ⟨h1, h2, _, _⟩ := Dev.live_other d t u (f (d.tagE t)) 0 0 hut hl
      have := ih (d.complete t (f (d.tagE t)) 0 0) hm' h1
      rw [hf _ _ h2, (Dev.complete_aside _ _ _ _ _).hif] at this
      exact this

end Sys2Proof.Machine
end

