-- ==== Sys2Proof/Laws/Access.lean ====
section
/-! SUPPORT. What reads and writes through an address word do, said once: bytes stored read back, everything else is kept. -/

namespace Sys2Proof.Machine

/-! Parts of the device that stay. -/

theorem Dev.OnlyIn.refl (ks : List DevPart) (d : Dev) : d.OnlyIn ks d := by
  intro k _
  cases k <;> rfl

theorem Dev.OnlyIn.trans {ks : List DevPart} {a b c : Dev} (h : a.OnlyIn ks b) (g : b.OnlyIn ks c) : a.OnlyIn ks c := by
  intro k hk
  have h := h k hk
  have g := g k hk
  cases k <;> exact Eq.trans g h

theorem Dev.OnlyIn.mono {ks ls : List DevPart} {a b : Dev} (h : a.OnlyIn ks b) (hl : ∀ k ∈ ks, k ∈ ls) : a.OnlyIn ls b :=
  fun k hk => h k fun hk' => hk (hl k hk')

theorem Dev.OnlyIn.ite {ks : List DevPart} {c : Prop} [Decidable c] {d e f : Dev} (h : d.OnlyIn ks e) (g : d.OnlyIn ks f) :
    d.OnlyIn ks (if c then e else f) := by
  split
  · exact h
  · exact g

/-- A completion changes cores, object references, counters and event bits only. -/
theorem Dev.OnlyIn.of_aside {d e : Dev} (h : d.AsideCompletion e) : d.OnlyIn [.cores, .tier, .evc, .evt, .cnt, .tot] e := by
  intro k hk
  cases k <;> simp at hk
  · exact h.pins
  · exact h.cellar
  · exact h.srv
  · exact h.links
  · exact h.hif
  · exact h.fw
  · exact h.sec
  · exact h.pwr
  · exact h.od
  · exact h.cntHeld
  · exact h.totHeld
  · exact h.draws

/-! Scratchpad bytes. -/

theorem Dev.spWrite_keeps (d : Dev) (c : CoreNo) (off : Nat) (bs : List Byte) : d.OnlyIn [.cores] (d.spWrite c off bs) := by
  intro k hk
  cases k <;> simp at hk <;> rfl

theorem Dev.spWrite_tag (d : Dev) (c : CoreNo) (off : Nat) (bs : List Byte) :
    d.spWrite c off bs = { d with cores := { d.cores with scratch := (d.spWrite c off bs).cores.scratch, written := (d.spWrite c off bs).cores.written } } := rfl

theorem Memory.readN_writeN (m : Memory) (a : Nat) (bs : List Byte) : (m.writeN a bs).readN a bs.length = bs := by
  apply List.ext_getElem?
  intro i
  by_cases h : i < bs.length
  · have h2 : i < ((m.writeN a bs).readN a bs.length).length := by rw [Memory.readN_length]; exact h
    have h3 := Memory.readN_getD (m.writeN a bs) (a := a) h
    rw [Memory.read_writeN_inside m bs h] at h3
    simp only [List.getD_eq_getElem?_getD, List.getElem?_eq_getElem h2, List.getElem?_eq_getElem h, Option.getD_some] at h3 ⊢
    rw [h3]
  · rw [List.getElem?_eq_none (by rw [Memory.readN_length]; omega), List.getElem?_eq_none (by omega)]

/-- Bytes stored through a scratchpad-form address word read back, and no other scratchpad byte changes. -/
theorem Dev.memWrite_sp (d : Dev) (w off : Nat) (bs : List Byte) (h : isSp w = true) :
    (d.memWrite w off bs).spAt w off bs.length = bs ∧ d.SpKept (d.memWrite w off bs) w off bs.length := by
  unfold Dev.memWrite
  by_cases hb : bs = []
  · subst hb
    exact ⟨rfl, fun _ _ => by simp⟩
  · simp only [hb, h, if_true, if_false]
    exact ⟨Memory.readN_writeN _ _ _, fun a ha => Memory.read_writeN_outside _ _ ha⟩

/-! Work on memory and counters: nothing of the cores but scratchpad bytes and written bits changes. -/

/-- Between `d` and `e` memory, counters, event bits and draws may differ; of the cores only scratchpad bytes and written bits. -/
structure Dev.Worked (d e : Dev) : Prop where
  cores : e.cores = { d.cores with scratch := e.cores.scratch, written := e.cores.written }
  parts : d.OnlyIn [.cores, .tier, .evc, .evt, .cnt, .tot, .draws] e

theorem Dev.Worked.refl (d : Dev) : d.Worked d := ⟨rfl, Dev.OnlyIn.refl _ d⟩

theorem Dev.Worked.trans {a b c : Dev} (h : a.Worked b) (g : b.Worked c) : a.Worked c := by
  refine ⟨?_, h.parts.trans g.parts⟩
  rw [g.cores, h.cores]

theorem Dev.Worked.ite {c : Prop} [Decidable c] {d e f : Dev} (h : d.Worked e) (g : d.Worked f) : d.Worked (if c then e else f) := by
  split
  · exact h
  · exact g

theorem Dev.Worked.foldl {α : Type} (f : Dev → α → Dev) (hf : ∀ (d : Dev) x, d.Worked (f d x)) (xs : List α) (d : Dev) : d.Worked (xs.foldl f d) := by
  induction xs generalizing d with
  | nil => exact Dev.Worked.refl d
  | cons x xs ih => exact (hf d x).trans (ih (f d x))

theorem Dev.Worked.tag {d e : Dev} (h : d.Worked e) : e.cores.tag = d.cores.tag := by rw [h.cores]
theorem Dev.Worked.tagE {d e : Dev} (h : d.Worked e) (t : Tag) : e.tagE t = d.tagE t := by unfold Dev.tagE; rw [h.tag]
theorem Dev.Worked.core {d e : Dev} (h : d.Worked e) (c : CoreNo) : e.core c = d.core c := by unfold Dev.core; rw [h.cores]
theorem Dev.Worked.slot {d e : Dev} (h : d.Worked e) (n : Nat) : e.slot n = d.slot n := by unfold Dev.slot; rw [h.cores]
theorem Dev.Worked.hif {d e : Dev} (h : d.Worked e) : e.hif = d.hif := h.parts .hif (by simp)

/-- A command that completes after work is done as if it had completed before it. -/
theorem Dev.Worked.done {d e : Dev} {t : Tag} (h : d.Worked e) (hl : (d.tagE t).live = true) (st : Byte) (detail : BitVec 16) (result : Nat) :
    ((e.complete t st detail result).tagE t).Done st detail result d.hif.devTime := by
  have h1 := (Dev.complete_completed e t st detail result (by rw [h.tagE]; exact hl)).1
  rwa [h.hif] at h1

theorem Dev.Worked.doneOk {d e : Dev} {t : Tag} (h : d.Worked e) (hl : (d.tagE t).live = true) (result : Nat) :
    ((e.completeOk t result).tagE t).Done (d.tagE t).okStatus 0 result d.hif.devTime := by
  have h1 := (Dev.completeOk_completed e t result (by rw [h.tagE]; exact hl)).1
  rwa [h.hif, h.tagE] at h1

/-- What work and a completion leave alone. -/
theorem Dev.Worked.complete_parts {d e f : Dev} (h : d.Worked e) (g : e.AsideCompletion f) :
    d.OnlyIn [.cores, .tier, .evc, .evt, .cnt, .tot, .draws] f :=
  h.parts.trans ((Dev.OnlyIn.of_aside g).mono (by simp))

theorem Dev.addCnt_worked (d : Dev) (off n : Nat) : d.Worked (d.addCnt off n) := ⟨rfl, by intro k hk; cases k <;> simp at hk <;> rfl⟩
theorem Dev.addTot_worked (d : Dev) (ent n : Nat) : d.Worked (d.addTot ent n) := ⟨rfl, by intro k hk; cases k <;> simp at hk <;> rfl⟩
theorem Dev.count_worked (d : Dev) (off ent n : Nat) : d.Worked (d.count off ent n) := (Dev.addCnt_worked d off n).trans (Dev.addTot_worked _ ent n)
theorem Dev.setEvt_worked (d : Dev) (r : EvtReg) (m : Nat) : d.Worked (d.setEvt r m) := ⟨rfl, by intro k hk; cases k <;> simp at hk <;> rfl⟩
theorem Dev.freeNat_worked (d : Dev) : d.Worked d.freeNat.2 := ⟨rfl, by intro k hk; cases k <;> simp [Dev.freeNat] at hk ⊢ <;> rfl⟩
theorem Dev.freeBytes_worked (d : Dev) (n : Nat) : d.Worked (d.freeBytes n).2 := ⟨rfl, by intro k hk; cases k <;> simp [Dev.freeBytes] at hk ⊢ <;> rfl⟩
theorem Dev.stall_worked (d : Dev) (off ent : Nat) : d.Worked (d.stall off ent) := (Dev.freeNat_worked d).trans (Dev.count_worked _ _ _ _)
theorem Dev.bankStall_worked (d : Dev) (c : CoreNo) : d.Worked (d.bankStall c) := (Dev.freeNat_worked d).trans (Dev.addCnt_worked _ _ _)
/-- Only the concentrator may differ. -/
theorem Dev.evc_worked (d : Dev) (e : Evc) : d.Worked { d with evc := e } := ⟨rfl, by intro k hk; cases k <;> simp at hk <;> rfl⟩
theorem Dev.setEvtCycles_worked (d : Dev) (r : EvtReg) (m : Nat) : d.Worked (d.setEvtCycles r m) := by
  unfold Dev.setEvtCycles
  have h := (Dev.setEvt_worked d r m).trans (Dev.freeNat_worked _)
  exact Dev.Worked.ite h (h.trans (Dev.evc_worked _ _))
theorem Dev.zreads_worked (d : Dev) (c : CoreNo) (n : Nat) : d.Worked (d.zreads c n) := by
  unfold Dev.zreads
  exact Dev.Worked.ite (Dev.Worked.refl d) ((Dev.freeNat_worked d).trans (Dev.addCnt_worked _ _ _))
theorem Dev.spRead_worked (d : Dev) (c : CoreNo) (off n : Nat) : d.Worked (d.spRead c off n).2 := by
  unfold Dev.spRead
  exact Dev.Worked.ite (Dev.Worked.refl d) (Dev.addCnt_worked _ _ _)
theorem Dev.spWrite_worked (d : Dev) (c : CoreNo) (off : Nat) (bs : List Byte) : d.Worked (d.spWrite c off bs) :=
  ⟨rfl, by intro k hk; cases k <;> simp at hk <;> rfl⟩
theorem Dev.setObj_worked (d : Dev) (o : ObjNo) (v : Obj) : d.Worked (d.setObj o v) := ⟨rfl, by intro k hk; cases k <;> simp at hk <;> rfl⟩
theorem Dev.tier_worked (d : Dev) (v : TierSt) : d.Worked { d with tier := v } := ⟨rfl, by intro k hk; cases k <;> simp at hk <;> rfl⟩
theorem Dev.ensureFrame_worked (d : Dev) (o : ObjNo) (g : Nat) : d.Worked (d.ensureFrame o g) := by
  unfold Dev.ensureFrame
  exact Dev.Worked.ite (Dev.Worked.refl d) ((Dev.setObj_worked _ _ _).trans (Dev.tier_worked _ _))
theorem Dev.objWrite_worked (d : Dev) (o : ObjNo) (off : Nat) (bs : List Byte) : d.Worked (d.objWrite o off bs) := by
  unfold Dev.objWrite
  exact (Dev.Worked.foldl _ (fun d g => Dev.ensureFrame_worked d o g) _ _).trans (Dev.tier_worked _ _)
theorem Dev.memRead_worked (d : Dev) (w off n : Nat) : d.Worked (d.memRead w off n).2 := by
  unfold Dev.memRead
  split
  · exact Dev.spRead_worked _ _ _ _
  · exact Dev.Worked.refl d
theorem Dev.memWrite_worked (d : Dev) (w off : Nat) (bs : List Byte) : d.Worked (d.memWrite w off bs) := by
  unfold Dev.memWrite
  exact Dev.Worked.ite (Dev.Worked.refl d) (Dev.Worked.ite (Dev.spWrite_worked _ _ _ _) (Dev.objWrite_worked _ _ _ _))
theorem Dev.memFree_worked (d : Dev) (w off n : Nat) : d.Worked (d.memFree w off n) := (Dev.freeBytes_worked d n).trans (Dev.memWrite_worked _ _ _ _)
theorem Dev.useGran_worked (d : Dev) (o : ObjNo) (g : Nat) : d.Worked (d.useGran o g) := by
  unfold Dev.useGran
  exact (Dev.Worked.ite (Dev.setObj_worked _ _ _) (Dev.Worked.refl d)).trans (Dev.tier_worked _ _)
/-- Judging a command's accesses does work only. -/
theorem Dev.accessGrans_worked (d : Dev) (rs ws : List (ObjNo × Nat)) : d.Worked (d.accessGrans rs ws).2 := by
  unfold Dev.accessGrans
  split
  · exact Dev.Worked.refl d
  · simp only
    split
    · exact Dev.tier_worked _ _
    · split
      · exact (Dev.freeNat_worked d).trans (Dev.addCnt_worked _ _ _)
      · exact Dev.Worked.foldl _ (fun d (m : ObjNo × Nat) => Dev.useGran_worked d m.1 m.2) _ _
theorem Dev.access_worked (d : Dev) (rs ws : List (Nat × Nat)) : d.Worked (d.access rs ws).2 := Dev.accessGrans_worked d _ _
/-- A destination left undefined is work only. -/
theorem Dev.spoil_worked (d : Dev) (t : Tag) (x : Desc) : d.Worked (d.spoil t x) := by
  unfold Dev.spoil
  exact Dev.Worked.foldl _ (fun d (a : Nat × Nat × Nat) => Dev.memFree_worked d a.1 a.2.1 a.2.2) _ _
theorem Dev.writeReport_worked (d : Dev) (x : Desc) (st : Byte) : d.Worked (d.writeReport x st) := by
  unfold Dev.writeReport
  exact Dev.Worked.ite (Dev.memWrite_worked _ _ _ _) (Dev.Worked.refl d)

theorem Dev.mxeSat_worked (d : Dev) (c : CoreNo) (m n : Nat) : d.Worked (d.mxeSat c m n) := by
  unfold Dev.mxeSat
  exact Dev.Worked.ite (Dev.Worked.refl d) ((Dev.count_worked _ _ _ _).trans (Dev.setEvtCycles_worked _ _ _))
theorem Dev.mxeMac_worked (d : Dev) (c : CoreNo) (m n : Nat) : d.Worked (d.mxeMac c m n) := by
  unfold Dev.mxeMac
  exact Dev.Worked.ite (Dev.Worked.refl d) (Dev.count_worked _ _ _ _)
theorem Dev.veGroups_worked (d : Dev) (c : CoreNo) (n : Nat) : d.Worked (d.veGroups c n) := Dev.count_worked _ _ _ _
theorem Dev.veTally_worked (d : Dev) (c : CoreNo) (a b : Nat) : d.Worked (d.veTally c a b) := by
  unfold Dev.veTally
  have h := (Dev.Worked.ite (c := a = 0) (Dev.Worked.refl d) (Dev.count_worked d (veReg c 0x18) (0xB030 * 256 + 3) a)).trans
    (Dev.Worked.ite (c := b = 0) (Dev.Worked.refl _) (Dev.count_worked _ (veReg c 0x20) (0xB030 * 256 + 4) b))
  exact Dev.Worked.ite h (h.trans (Dev.setEvtCycles_worked _ _ _))

/-! What a stopped engine has done is work only. -/

theorem moveRow_worked (x : Desc) (d : Dev) (r : Nat) : d.Worked (moveRow x d r) := by
  unfold moveRow
  split
  · exact Dev.memWrite_worked _ _ _ _
  · exact (Dev.memRead_worked d _ _ _).trans (Dev.memWrite_worked _ _ _ _)
theorem Dev.cutMove_worked (d : Dev) (x : Desc) (n : Nat) : d.Worked (d.cutMove x n) := by
  unfold Dev.cutMove
  exact ((Dev.Worked.ite (Dev.Worked.refl d) (Dev.Worked.foldl _ (fun d (m : ObjNo × Nat) => Dev.useGran_worked d m.1 m.2) _ _)).trans
    (Dev.Worked.foldl _ (moveRow_worked x) _ _)).trans (Dev.Worked.foldl _ (fun d (r : Nat) => Dev.memFree_worked d _ _ _) _ _)
/-- A stopped MOVE has written at most the rows it could. -/
theorem Dev.stopMove_spec (d : Dev) (x : Desc) : (d.stopMove x).1 ≤ d.openRows x ∧ d.Worked (d.stopMove x).2 := by
  unfold Dev.stopMove
  exact ⟨Nat.lt_succ_iff.mp (Nat.mod_lt _ (Nat.succ_pos _)), ((Dev.freeNat_worked d).trans (Dev.cutMove_worked _ _ _)).trans (Dev.bankStall_worked _ _)⟩
theorem Dev.vStore_worked (d : Dev) (x : Desc) (r c0 : Nat) (o : RowOut) : d.Worked (d.vStore x r c0 o) := by
  unfold Dev.vStore
  exact (Dev.memWrite_worked d _ _ _).trans (Dev.Worked.ite (Dev.memWrite_worked _ _ _ _) (Dev.Worked.refl _))
theorem Dev.cutRow_worked (d : Dev) (x : Desc) (r j : Nat) : d.Worked (d.cutRow x r j) := by
  unfold Dev.cutRow
  exact Dev.Worked.ite (Dev.Worked.refl d) (Dev.Worked.ite (Dev.Worked.ite (Dev.Worked.refl d)
    ((Dev.memWrite_worked d _ _ _).trans (Dev.veTally_worked _ _ _ _))) ((Dev.vStore_worked d x r 0 _).trans (Dev.veTally_worked _ _ _ _)))
theorem Dev.cutStream_worked (d : Dev) (x : Desc) (k : Nat) : d.Worked (d.cutStream x k) := by
  unfold Dev.cutStream
  exact (((Dev.Worked.foldl _ (fun d (r : Nat) => Dev.vStore_worked d x r 0 _) _ d).trans
    (Dev.Worked.ite (Dev.cutRow_worked _ x _ _) (Dev.Worked.refl _))).trans
    ((Dev.veGroups_worked _ _ _).trans (Dev.bankStall_worked _ _))).trans (Dev.veTally_worked _ _ _ _)
theorem Dev.stopStream_worked (d : Dev) (x : Desc) : d.Worked (d.stopStream x) := by
  unfold Dev.stopStream
  exact Dev.Worked.ite (Dev.Worked.refl d) ((Dev.freeNat_worked d).trans (Dev.cutStream_worked _ _ _))
/-- A running command that stops does work only. -/
theorem Dev.stop_worked (d : Dev) (t : Tag) (x : Desc) : d.Worked (d.stop t x).2 := by
  unfold Dev.stop
  split
  · exact (Dev.stopMove_spec d x).2
  · split
    · exact Dev.stopStream_worked d x
    · exact Dev.spoil_worked d t x

/-! Counting alone: no byte of memory changes. -/

/-- Between `d` and `e` counters, event bits and draws may differ, nothing else. -/
def Dev.Counted (d e : Dev) : Prop := d.OnlyIn [.evc, .evt, .cnt, .tot, .draws] e

theorem Dev.Counted.refl (d : Dev) : d.Counted d := Dev.OnlyIn.refl _ d
theorem Dev.Counted.trans {a b c : Dev} (h : a.Counted b) (g : b.Counted c) : a.Counted c := Dev.OnlyIn.trans h g
theorem Dev.Counted.ite {c : Prop} [Decidable c] {d e f : Dev} (h : d.Counted e) (g : d.Counted f) : d.Counted (if c then e else f) :=
  Dev.OnlyIn.ite h g
theorem Dev.Counted.cores {d e : Dev} (h : d.Counted e) : e.cores = d.cores := h .cores (by simp)
theorem Dev.Counted.tier {d e : Dev} (h : d.Counted e) : e.tier = d.tier := h .tier (by simp)
theorem Dev.Counted.cellar {d e : Dev} (h : d.Counted e) : e.cellar = d.cellar := h .cellar (by simp)
theorem Dev.Counted.hif {d e : Dev} (h : d.Counted e) : e.hif = d.hif := h .hif (by simp)
theorem Dev.Counted.eq {d e : Dev} (h : d.Counted e) :
    e = { d with evc := e.evc, evt := e.evt, cnt := e.cnt, tot := e.tot, draws := e.draws } := by
  have g := fun k hk => h k hk
  have h1 : e.pins = d.pins := g .pins (by simp)
  have h2 : e.cores = d.cores := g .cores (by simp)
  have h3 : e.tier = d.tier := g .tier (by simp)
  have h4 : e.cellar = d.cellar := g .cellar (by simp)
  have h5 : e.srv = d.srv := g .srv (by simp)
  have h6 : e.links = d.links := g .links (by simp)
  have h7 : e.hif = d.hif := g .hif (by simp)
  have h8 : e.fw = d.fw := g .fw (by simp)
  have h9 : e.sec = d.sec := g .sec (by simp)
  have h10 : e.pwr = d.pwr := g .pwr (by simp)
  have h11 : e.od = d.od := g .od (by simp)
  have h12 : e.cntHeld = d.cntHeld := g .cntHeld (by simp)
  have h13 : e.totHeld = d.totHeld := g .totHeld (by simp)
  rw [← h1, ← h2, ← h3, ← h4, ← h5, ← h6, ← h7, ← h8, ← h9, ← h10, ← h11, ← h12, ← h13]
theorem Dev.Counted.worked {d e : Dev} (h : d.Counted e) : d.Worked e := ⟨by rw [h.cores], Dev.OnlyIn.mono h (by simp)⟩
theorem Dev.Counted.foldl {α : Type} (f : Dev → α → Dev) (hf : ∀ (d : Dev) x, d.Counted (f d x)) (xs : List α) (d : Dev) :
    d.Counted (xs.foldl f d) := by
  induction xs generalizing d with
  | nil => exact Dev.Counted.refl d
  | cons x xs ih => exact (hf d x).trans (ih (f d x))
theorem Dev.addCnt_counted (d : Dev) (off n : Nat) : d.Counted (d.addCnt off n) := by intro k hk; cases k <;> simp at hk <;> rfl
theorem Dev.addTot_counted (d : Dev) (ent n : Nat) : d.Counted (d.addTot ent n) := by intro k hk; cases k <;> simp at hk <;> rfl
theorem Dev.count_counted (d : Dev) (off ent n : Nat) : d.Counted (d.count off ent n) := (Dev.addCnt_counted d off n).trans (Dev.addTot_counted _ ent n)
theorem Dev.setEvt_counted (d : Dev) (r : EvtReg) (m : Nat) : d.Counted (d.setEvt r m) := by intro k hk; cases k <;> simp at hk <;> rfl
theorem Dev.freeNat_counted (d : Dev) : d.Counted d.freeNat.2 := by intro k hk; cases k <;> simp [Dev.freeNat] at hk ⊢ <;> rfl
theorem Dev.freeBytes_counted (d : Dev) (n : Nat) : d.Counted (d.freeBytes n).2 := by
  intro k hk; cases k <;> simp [Dev.freeBytes] at hk ⊢ <;> rfl
theorem Dev.stall_counted (d : Dev) (off ent : Nat) : d.Counted (d.stall off ent) := (Dev.freeNat_counted d).trans (Dev.count_counted _ _ _ _)
theorem Dev.bankStall_counted (d : Dev) (c : CoreNo) : d.Counted (d.bankStall c) := (Dev.freeNat_counted d).trans (Dev.addCnt_counted _ _ _)
theorem Dev.mxePart_counted (d : Dev) (c : CoreNo) (ms : List Nat) : d.Counted (d.mxePart c ms) :=
  Dev.Counted.foldl _ (fun d (_ : Nat) => Dev.stall_counted d _ _) ms d
theorem Dev.evc_counted (d : Dev) (e : Evc) : d.Counted { d with evc := e } := by intro k hk; cases k <;> simp at hk <;> rfl
theorem Dev.setEvtCycles_counted (d : Dev) (r : EvtReg) (m : Nat) : d.Counted (d.setEvtCycles r m) := by
  unfold Dev.setEvtCycles
  have h := (Dev.setEvt_counted d r m).trans (Dev.freeNat_counted _)
  exact Dev.Counted.ite h (h.trans (Dev.evc_counted _ _))
theorem Dev.zreads_counted (d : Dev) (c : CoreNo) (n : Nat) : d.Counted (d.zreads c n) := by
  unfold Dev.zreads
  exact Dev.Counted.ite (Dev.Counted.refl d) ((Dev.freeNat_counted d).trans (Dev.addCnt_counted _ _ _))
theorem Dev.memRead_counted (d : Dev) (w off n : Nat) : d.Counted (d.memRead w off n).2 := by
  unfold Dev.memRead Dev.spRead
  split
  · exact Dev.Counted.ite (Dev.Counted.refl d) (Dev.addCnt_counted _ _ _)
  · exact Dev.Counted.refl d
theorem Dev.mxeSat_counted (d : Dev) (c : CoreNo) (m n : Nat) : d.Counted (d.mxeSat c m n) := by
  unfold Dev.mxeSat
  exact Dev.Counted.ite (Dev.Counted.refl d) ((Dev.count_counted _ _ _ _).trans (Dev.setEvtCycles_counted _ _ _))
theorem Dev.mxeMac_counted (d : Dev) (c : CoreNo) (m n : Nat) : d.Counted (d.mxeMac c m n) := by
  unfold Dev.mxeMac
  exact Dev.Counted.ite (Dev.Counted.refl d) (Dev.count_counted _ _ _ _)
theorem Dev.veTally_counted (d : Dev) (c : CoreNo) (a b : Nat) : d.Counted (d.veTally c a b) := by
  unfold Dev.veTally
  have h := (Dev.Counted.ite (c := a = 0) (Dev.Counted.refl d) (Dev.count_counted d (veReg c 0x18) (0xB030 * 256 + 3) a)).trans
    (Dev.Counted.ite (c := b = 0) (Dev.Counted.refl _) (Dev.count_counted _ (veReg c 0x20) (0xB030 * 256 + 4) b))
  exact Dev.Counted.ite h (h.trans (Dev.setEvtCycles_counted _ _ _))

/-! An object read gives as many bytes as asked. -/

theorem Dev.granRead_length (d : Dev) (o : ObjNo) (g off n : Nat) : (d.granRead o g off n).length = n := by
  unfold Dev.granRead
  simp only
  split
  · exact Memory.readN_length _ _ _
  · split
    · split
      · exact List.length_replicate
      · exact Memory.readN_length _ _ _
    · exact List.length_replicate

/-- Bytes of the granules `off / 65536 + j` below `k` that lie in the range. -/
theorem granPieces (off n k : Nat) (hn : 0 < n) :
    (((List.range k).map (off / granSize + ·)).map fun g => min (off + n) ((g + 1) * granSize) - max off (g * granSize)).sum =
      if k = 0 then 0 else min (off + n) ((off / granSize + k) * granSize) - off := by
  induction k with
  | zero => rfl
  | succ k ih =>
    rw [List.range_succ, List.map_append, List.map_append, List.sum_append, ih]
    have hg : granSize = 65536 := rfl
    simp only [hg, List.map_cons, List.map_nil, List.sum_cons, List.sum_nil]
    split <;> simp <;> omega

theorem Dev.objRead_length (d : Dev) (o : ObjNo) (off n : Nat) : (d.objRead o off n).length = n := by
  unfold Dev.objRead gransOf
  by_cases hn : n = 0
  · subst hn; rfl
  · rw [if_neg hn, List.length_flatMap]
    simp only [Dev.granRead_length, upFrom]
    have h := granPieces off n ((off + n - 1) / granSize - off / granSize + 1) (by omega)
    rw [if_neg (by omega)] at h
    rw [h]
    have hg : granSize = 65536 := rfl
    rw [hg]
    omega

theorem Dev.memRead_length (d : Dev) (w off n : Nat) : (d.memRead w off n).1.length = n := by
  unfold Dev.memRead
  split
  · exact Memory.readN_length _ _ _
  · exact Dev.objRead_length _ _ _ _

/-! Bytes of a memory that a scratchpad read gives, whatever its counts. -/

theorem Dev.memRead_spAt (d : Dev) (w off n : Nat) (h : isSp w = true) : (d.memRead w off n).1 = d.spAt w off n := by
  simp [Dev.memRead, h, Dev.spRead, Dev.spAt]

end Sys2Proof.Machine
end

