-- ==== Sys2Proof/Laws/Flits.lean ====
section
/-! SUPPORT. Lemmas about numbers in bytes, CRC-32C, flits and FEC blocks (spec/12 R324, R325, R332). -/

namespace Sys2Proof

open Machine

/-! CRC-32C is 32 bits wide. -/

theorem crc32cBit_lt {c : Nat} (h : c < 2 ^ 32) : crc32cBit c < 2 ^ 32 := by
  unfold crc32cBit
  split
  · exact Nat.xor_lt_two_pow (by omega) (by decide)
  · omega
theorem crc32cByte_lt {c : Nat} (h : c < 2 ^ 32) (b : Byte) : crc32cByte c b < 2 ^ 32 := by
  have bits : ∀ (l : List Nat) (c : Nat), c < 2 ^ 32 → l.foldl (fun x _ => crc32cBit x) c < 2 ^ 32 := by
    intro l
    induction l with
    | nil => exact fun _ h => h
    | cons _ l ih => exact fun _ h => ih _ (crc32cBit_lt h)
  exact bits _ _ (Nat.xor_lt_two_pow h (by have := b.isLt; omega))
theorem crc32c_lt (l : List Byte) : crc32c l < 2 ^ 32 := by
  have bytes : ∀ (l : List Byte) (c : Nat), c < 2 ^ 32 → l.foldl crc32cByte c < 2 ^ 32 := by
    intro l
    induction l with
    | nil => exact fun _ h => h
    | cons b l ih => exact fun _ h => ih _ (crc32cByte_lt h b)
  exact Nat.xor_lt_two_pow (bytes l _ (by decide)) (by decide)

/-! Numbers in bytes. -/

@[simp] theorem natLe_length (n v : Nat) : (natLe n v).length = n := by
  induction n generalizing v with
  | zero => rfl
  | succ n ih => simp [natLe, ih]
theorem leNat_natLe (n v : Nat) : leNat (natLe n v) = v % 256 ^ n := by
  induction n generalizing v with
  | zero => simp [natLe, leNat, Nat.mod_one]
  | succ n ih =>
    simp only [natLe, leNat, ih, BitVec.toNat_ofNat]
    rw [show 256 ^ (n + 1) = 256 * 256 ^ n from Nat.pow_succ', Nat.mod_mul]
@[simp] theorem sized_length (n : Nat) (bs : List Byte) : (sized n bs).length = n := by simp [sized]

/-! Flits. -/

theorem flitBytes_length (h : W32) (p : List Byte) : (flitBytes h p).length = 256 := by simp [flitBytes]
/-- A flit that is formed has a CRC that holds. -/
theorem flitBytes_ok (h : W32) (p : List Byte) : flitOk (flitBytes h p) = true := by
  have l : (natLe 4 h.toNat ++ sized 248 p).length = 252 := by simp
  have c := crc32c_lt (natLe 4 h.toNat ++ sized 248 p)
  rw [flitOk, flitBytes]
  rw [List.drop_left' l, List.take_left' l, List.take_of_length_le (by simp), leNat_natLe, Nat.mod_eq_of_lt (by simpa using c)]
  simp
/-- Its header is read back. -/
theorem flitBytes_hdr (h : W32) (p : List Byte) : leNat ((flitBytes h p).take 4) = h.toNat := by
  have e : flitBytes h p = natLe 4 h.toNat ++ (sized 248 p ++ natLe 4 (crc32c (natLe 4 h.toNat ++ sized 248 p))) := by
    simp [flitBytes, List.append_assoc]
  rw [e, List.take_left' (by simp), leNat_natLe, Nat.mod_eq_of_lt (by have := h.isLt; simpa using this)]

/-! The receiver's FEC. -/

theorem length_le_of_nodup_subset {xs ys : List Nat} (n : xs.Nodup) (s : xs ⊆ ys) : xs.length ≤ ys.length := by
  induction xs generalizing ys with
  | nil => exact Nat.zero_le _
  | cons x xs ih =>
    have m : x ∈ ys := s (List.mem_cons_self ..)
    have e := ih (List.nodup_cons.mp n).2 fun y h => (List.mem_erase_of_ne fun (q : y = x) => (List.nodup_cons.mp n).1 (q ▸ h)).mpr (s (List.mem_cons_of_mem _ h))
    have := List.length_erase_of_mem m
    have := List.length_pos_of_mem m
    simp only [List.length_cons]
    omega

/-- A place is wrong only where a symbol came in wrong. -/
theorem RxFlit.bad_sub (fl : RxFlit) (i : Nat) (h : i ∈ fl.bad) : i ∈ fl.wrong.map (·.1.toNat) := by
  have keep : ∀ (ws : List (BitVec 9 × Byte)) (b : List Byte), i ∉ ws.map (·.1.toNat) →
      (ws.foldl (fun b e => b.set e.1.toNat e.2) b).getD i 0 = b.getD i 0 := by
    intro ws
    induction ws with
    | nil => exact fun _ _ => rfl
    | cons e ws ih =>
      intro b hn
      simp only [List.map_cons, List.mem_cons, not_or] at hn
      rw [List.foldl_cons, ih _ hn.2]
      simp [List.getD_eq_getElem?_getD, Ne.symm hn.1]
  refine Decidable.byContradiction fun hn => ?_
  have e := keep fl.wrong (fecBlock fl.flit) hn
  simp only [RxFlit.bad, List.mem_filter, RxFlit.came, e] at h
  simp at h
/-- No more places are wrong than symbols came in wrong. -/
theorem RxFlit.bad_length_le (fl : RxFlit) : fl.bad.length ≤ fl.wrong.length := by
  have n : fl.bad.Nodup := List.nodup_range.filter _
  have s : fl.bad ⊆ fl.wrong.map (·.1.toNat) := fun i h => fl.bad_sub i h
  simpa using length_le_of_nodup_subset n s
/-- With at most 8 symbols wrong the flit is what its sender sent. -/
theorem RxFlit.bytes_of_few (fl : RxFlit) (h : fl.wrong.length ≤ 8) : fl.bytes = sized 256 fl.flit :=
  if_pos (Nat.le_trans fl.bad_length_le h)
theorem RxFlit.bad_clean (f : List Byte) : (⟨f, []⟩ : RxFlit).bad = [] :=
  List.length_eq_zero_iff.mp (Nat.le_zero.mp (RxFlit.bad_length_le ⟨f, []⟩))

end Sys2Proof

namespace Sys2Proof.Machine

/-! What leaves on a port. -/

@[simp] theorem Port.gaveCrd_retry (p : Port) : p.gaveCrd.retry = p.retry := by unfold Port.gaveCrd; split <;> rfl
@[simp] theorem Port.gaveCrd_credit (p : Port) : p.gaveCrd.credit = p.credit := by unfold Port.gaveCrd; split <;> rfl
@[simp] theorem Port.sendFlit_credit (p : Port) (k : Option Pkt) (b : List Byte) : (p.sendFlit k b).credit = p.credit := by
  simp [Port.sendFlit]
@[simp] theorem Port.sendFlit_txSeq (p : Port) (k : Option Pkt) (b : List Byte) : (p.sendFlit k b).txSeq = p.txSeq + 1 := rfl
theorem Port.sendFlit_retry (p : Port) (k : Option Pkt) (b : List Byte) : (p.sendFlit k b).retry.length = p.retry.length + 1 := by
  simp [Port.sendFlit]
/-- A packet that leaves takes a flit of the retry buffer and a credit of its channel for each of its flits. -/
theorem Port.transmit_retry (p : Port) (k : Pkt) :
    (p.transmit k).retry.length = p.retry.length + pktFlits k ∧
      (p.transmit k).credit = Tbl.mod 0 p.credit (pktVc k.typ.toNat) (· - pktFlits k) := by
  have go : ∀ (l : List Nat) (f : Nat → Option Pkt) (g : Nat → List Byte) (p : Port),
      (l.foldl (fun p i => p.sendFlit (f i) (g i)) p).retry.length = p.retry.length + l.length ∧
        (l.foldl (fun p i => p.sendFlit (f i) (g i)) p).credit = p.credit := by
    intro l f g
    induction l with
    | nil => exact fun _ => ⟨rfl, rfl⟩
    | cons i l ih =>
      intro p
      have h := ih (p.sendFlit (f i) (g i))
      rw [List.foldl_cons, h.1, h.2, Port.sendFlit_retry, Port.sendFlit_credit]
      exact ⟨by simp; omega, rfl⟩
  have h := go (List.range (pktFlits k)) (fun i => if i = 0 then some k else none) (fun i => ((pktBytes k).drop (248 * i)).take 248)
    { p with credit := Tbl.mod 0 p.credit (pktVc k.typ.toNat) (· - pktFlits k), wire := [] }
  exact ⟨by rw [Port.transmit, h.1]; simp, by rw [Port.transmit, h.2]⟩

end Sys2Proof.Machine
end

