-- ==== Sys2Proof/Laws/Sequencer.lean ====
section
/-! SUPPORT. What the operations of Machine/Sequencer.lean do, said once. -/

namespace Sys2Proof.Machine

theorem Dev.barEnd_eq (d : Dev) (n : Nat) (st : Byte) : d.barEnd n st =
    ((d.bar n).arrivals.foldl (fun d t => d.complete t ((fun e : TagE => if st = stDONE then e.okStatus else st) (d.tagE t)) 0 0) d).setBar n
      Bar.reset := by
  unfold Dev.barEnd
  congr 2
  funext d t
  split <;> rfl

/-- The end of a barrier: every live arrival completes, and nothing else of the device changes but the barrier. -/
theorem Dev.barEnd_spec (d : Dev) (n : Nat) (st : Byte) : d.AsideCompletion (d.barEnd n st) ∧
    ∀ u ∈ (d.bar n).arrivals, (d.tagE u).live = true →
      ((d.barEnd n st).tagE u).Done (if st = stDONE then (d.tagE u).okStatus else st) 0 0 d.hif.devTime := by
  rw [Dev.barEnd_eq]
  refine ⟨(Dev.completeAll_aside _ _ _).trans (Dev.setBar_aside _ _ _), ?_⟩
  intro u hm hl
  rw [Dev.tagE_setBar]
  refine Dev.completeAll_done _ (fun e => if st = stDONE then e.okStatus else st) ?_ d u hm hl
  intro a b h
  simp only [TagE.okStatus, h]

end Sys2Proof.Machine
end

