-- ==== Sys2Proof/WellFormed.lean ====
section
/-! DEFINITION. The checks on a command's operands that its type does not already make: what can stand at the boundary of
the device at all. A command that fails them describes nothing the outside world can do. -/

namespace Sys2Proof

/-- A channel block number names one of the 5,472 blocks (R220). -/
def wfBlock (b : BlockNo) : Bool := decide (b.toNat < 5472)

/-- A serial number has 12 characters (R26, R326). -/
def wfSerial (s : List Byte) : Bool := decide (s.length = 12)

/-- A unit number names a unit that exists (R83, R198). -/
def wfUnit : UnitId → Bool
  | .core _ => true
  | .quad _ => true
  | .rack r => decide (r.toNat < 12)
  | .channel _ => true
  | .lane _ _ => true

/-- A packet's body is at most 4,104 bytes, with a 16-byte tag after it when ENC is 1 (R332). -/
def wfPkt (k : Pkt) : Bool := decide (k.body.length ≤ if k.hdr.enc then 4120 else 4104)

/-- MEMBER of an Object Dictionary request is a member number or 0xFF (R500). -/
def wfMember (m : BitVec 8) : Bool := decide (m.toNat < 64 ∨ m = 0xFF)

/-- Well-formed commands. -/
def Instr.wf : Instr → Bool
  | .bootInit failed => failed.all wfUnit
  | .thermTrip cask sensor => !cask || decide (sensor.toNat < 8)
  | .eraseDone _ b => wfBlock b
  | .blockRelocate _ b => wfBlock b
  | .blockRetire _ b => wfBlock b
  | .granuleLost entry _ => decide (0 < entry.toNat)
  | .sensorRead temps => decide (temps.length = 51)
  | .initMsg _ m => wfSerial m.serial
  | .groupForm found => found.all fun f => wfSerial f.serial
  | .groupAdd _ d => match d with
    | none => true
    | some f => wfSerial f.serial
  | .openPkt k => wfPkt k
  | .openAck k => wfPkt k
  | .dataPkt _ k => wfPkt k
  | .donePkt k => wfPkt k
  | .abortPkt k => wfPkt k
  | .nack k => wfPkt k
  | .rcmd k => wfPkt k
  | .rdone k => wfPkt k
  | .stepPkt k => wfPkt k
  | .mgmt k => wfPkt k
  | .beat k => wfPkt k
  | .epoch k => wfPkt k
  | .flitReceive _ fl => decide (fl.flit.length = 256) && fl.wrong.all (fun e => decide (e.1.toNat < 272)) &&
      decide (fl.wrong.map (·.1)).Nodup
  | .registerWrite _ _ size v => decide (v >>> (8 * AccSize.bytes size) = 0)
  | .time k _ => wfPkt k
  | .group g => wfPkt g.pkt
  | .retest u _ => wfUnit u
  | .unitRetire u => wfUnit u
  | .reencryptMove x => match x with
    | .frame _ _ => true
    | .block _ b => wfBlock b
  | .odRead _ m _ => wfMember m
  | .odWrite _ m _ v => wfMember m && decide (v.length ≤ 4096)
  | .odDescribe _ m _ => wfMember m
  | .odNext _ m _ => wfMember m
  | .odRestore _ m => wfMember m
  | _ => true

end Sys2Proof
end

