-- ==== Sys2Proof/Tests/Slice0.lean ====
section
/-! SUPPORT. Tests: an ill-formed command for each check of WellFormed, a state and operands that meet the hypotheses of each clause of
the statements, and single steps whose outcome is read off the spec. -/

namespace Sys2Proof.Tests

set_option Elab.async false

open Sys2Proof Sys2Proof.Machine

/-! Well-formedness: each check refuses a term and takes another. -/

/-- A packet of a type with a body. -/
def pkt (typ : Byte) (enc : Bool) (body : List Byte) : Pkt := ⟨⟨0, enc, 0, 1, 0, false, 0⟩, typ, 0, body⟩
/-- Serial of 12 characters. -/
def ser : List Byte := List.replicate 12 0x41
def dev1 (s : List Byte) : Found := ⟨s, [], true, true⟩

theorem test_wf_block : (Instr.eraseDone 0 5472).wf = false ∧ (Instr.blockRelocate 0 5472).wf = false ∧ (Instr.blockRetire 0 5472).wf = false ∧
    (Instr.reencryptMove (.block 0 5472)).wf = false ∧ (Instr.eraseDone 0 5471).wf = true := by decide
theorem test_wf_unit : (Instr.retest (.rack 12) true).wf = false ∧ (Instr.unitRetire (.rack 12)).wf = false ∧
    (Instr.bootInit [.rack 12]).wf = false ∧ (Instr.unitRetire (.rack 11)).wf = true := by decide
theorem test_wf_trip : (Instr.thermTrip true 8).wf = false ∧ (Instr.thermTrip true 7).wf = true ∧ (Instr.thermTrip false 15).wf = true := by decide
theorem test_wf_lost : (Instr.granuleLost 0 0).wf = false ∧ (Instr.granuleLost 1 0).wf = true := by decide
theorem test_wf_temps : (Instr.sensorRead (List.replicate 50 0)).wf = false ∧ (Instr.sensorRead (List.replicate 51 0)).wf = true := by decide
theorem test_wf_serial : (Instr.initMsg 0 ⟨[0x41], 0, 0, 0, 0, 0⟩).wf = false ∧ (Instr.groupForm [dev1 [0x41]]).wf = false ∧
    (Instr.groupAdd 1 (some (dev1 [0x41]))).wf = false ∧ (Instr.groupAdd 1 (some (dev1 ser))).wf = true := by decide
theorem test_wf_packet : (Instr.donePkt (pkt 4 false (List.replicate 4105 0))).wf = false ∧
    (Instr.donePkt (pkt 4 false (List.replicate 4104 0))).wf = true := by decide +kernel
theorem test_wf_packet_enc : (Instr.donePkt (pkt 4 true (List.replicate 4121 0))).wf = false ∧
    (Instr.donePkt (pkt 4 true (List.replicate 4120 0))).wf = true := by decide +kernel
theorem test_wf_flit : (Instr.flitReceive 0 ⟨List.replicate 255 0, []⟩).wf = false ∧ (Instr.flitReceive 0 ⟨List.replicate 256 0, [(272, 0)]⟩).wf = false ∧
    (Instr.flitReceive 0 ⟨List.replicate 256 0, [(1, 0), (1, 1)]⟩).wf = false ∧
    (Instr.flitReceive 0 ⟨List.replicate 256 0, [(271, 0)]⟩).wf = true := by decide +kernel
theorem test_wf_member : (Instr.odRead .pf 64 0).wf = false ∧ (Instr.odDescribe .pf 64 0).wf = false ∧ (Instr.odNext .pf 64 0).wf = false ∧
    (Instr.odRestore .pf 64).wf = false ∧ (Instr.odWrite .pf 64 0 []).wf = false ∧ (Instr.odRead .pf 0xFF 0).wf = true := by decide
theorem test_wf_write : (Instr.registerWrite 0 (.bar 0) .dword 0x100000000).wf = false ∧ (Instr.registerWrite 0 (.bar 0) .dword 0xFFFFFFFF).wf = true := by
  decide
theorem test_wf_value : (Instr.odWrite .pf 0 0 (List.replicate 4097 0)).wf = false ∧
    (Instr.odWrite .pf 0 0 (List.replicate 4096 0)).wf = true := by decide +kernel

/-! States for the witnesses. -/

/-- A state over a device. -/
def st (d : Dev) : State := { State.reset with dev := d }
/-- A descriptor with some words. -/
def words (w0 w1 w2 w3 w4 w5 w6 w7 : W64) : Desc := ⟨w0, w1, w2, w3, w4, w5, w6, w7⟩
/-- Tag 5 in a state, with a descriptor. -/
def tagIn (s : TagState) (x : Desc) (d : Dev) : Dev := d.setTag 5 { TagE.reset with st := s, desc := x }
/-- Tag 5 runs a descriptor. -/
def runsD (x : Desc) : Dev := tagIn .running x Dev.reset

/-! Witnesses: the sequencer. -/

def nopD : Dev := runsD (words 0x501 0 0 0 0 0 0 0)
/-- BARRIER 3 of 2, without and with an arrival. -/
def barX : Desc := words 0x502 0x203 0 0 0 0 0 0
def barD (b : Bar) : Dev := (runsD barX).setBar 3 b
theorem test_witness_SequencerOwnCommands :
    nopD.runs 5 0x01 = true ∧ (runsD barX).runs 5 0x02 = true ∧ (runsD barX).bar (barId barX) = Bar.reset ∧ barCount barX ≠ 1 ∧
    (let b := (barD ⟨true, 0, 2, none, [7]⟩).bar (barId barX)
     b.isOpen = true ∧ b.part = barX.part ∧ b.count = barCount barX ∧ (5 : Tag) ∉ b.arrivals ∧ b.arrivals.length + 1 = b.count) ∧
    (let b := (barD ⟨true, 0, 2, none, []⟩).bar (barId barX)
     b.isOpen = true ∧ b.part = barX.part ∧ b.count = barCount barX ∧ (5 : Tag) ∉ b.arrivals ∧ b.arrivals.length + 1 ≠ b.count) ∧
    (let b := (barD ⟨true, 1, 2, none, [7]⟩).bar (barId barX)
     b.isOpen = true ∧ b.part ≠ barX.part ∧ (5 : Tag) ∉ b.arrivals) ∧
    (let b := (barD ⟨true, 0, 3, none, [7]⟩).bar (barId barX)
     b.isOpen = true ∧ b.part = barX.part ∧ b.count ≠ barCount barX ∧ (5 : Tag) ∉ b.arrivals) ∧
    (let d := barD ⟨true, 0, 2, some 0, [7]⟩
     (d.bar 3).isOpen = true ∧ (d.bar 3).limit = some 0 ∧ 0 ≤ d.now) := by decide
def cancelX : Desc := words 0x503 0x007 0 0 0 0 0 0
def cancelD (s : TagState) : Dev := (runsD cancelX).setTag 7 { TagE.reset with st := s }
theorem test_witness_Cancel : (cancelD .waiting).runs 5 0x03 = true ∧ cancelTarget cancelX = 7 ∧
    ((cancelD .waiting).tagE 7).desc.part = ((cancelD .waiting).tagE 5).desc.part ∧ ((cancelD .waiting).tagE 7).st = .waiting ∧
    ((cancelD .ready).tagE 7).st = .ready ∧ ((cancelD .running).tagE 7).st = .running ∧ ((cancelD .free).tagE 7).st = .free := by decide

def waitD (a b : Wait) (f : Option (List Tag)) : Dev :=
  Dev.reset.setTag 5 { TagE.reset with st := .waiting, wait0 := a, wait1 := b, fence := f }
/-- A NOP, a BARRIER of all ones, one of none, a MOVE from no object, a TIER command of no tier, all READY. -/
def readyD (x : Desc) : Dev := tagIn .ready x Dev.reset
theorem test_witness_Waits :
    ((waitD (.got 1 true) .none none).tagE 5).wait0.decided = true ∧ ((waitD (.got 1 true) .none none).tagE 5).wait0.failed = none ∧
    ((waitD (.got 1 false) .none none).tagE 5).wait0.failed = some 1 ∧ ((waitD .none (.got 2 false) none).tagE 5).wait1.failed = some 2 ∧
    ((waitD .none .none (some [])).tagE 5).st = .waiting ∧ ((waitD .none .none (some [])).tagE 5).fence = some [] := by decide
/-- An ASSIGNED core 0 with a MOVE of one row and 64 bytes within its scratchpad. -/
def own0 (d : Dev) : Dev := d.setCore 0 { CoreSt.reset with assigned := true }
def moveX : Desc := words 0x520 0x8000000000000000 0x8000000000000040 0x0000000100000040 0 0 0 0
theorem test_witness_Starts :
    firstBad ((readyD (words 0x502 0x7F00 0 0 0 0 0 0)).checksA ((readyD (words 0x502 0x7F00 0 0 0 0 0 0)).tagE 5)) = some (stLENGTH, 0x9201) ∧
    hasZero (words 0x502 0 0 0 0 0 0 0) (opSpec (words 0x502 0 0 0 0 0 0 0)) = true ∧
    firstBad ((readyD (words 0x502 0 0 0 0 0 0 0)).checksA ((readyD (words 0x502 0 0 0 0 0 0 0)).tagE 5)) = none ∧
    firstBad ((readyD moveX).checksB ((readyD moveX).tagE 5)) = some (stRIGHTS, 0x9004) ∧
    (let d := own0 (readyD moveX)
     let e := d.tagE 5
     firstBad (d.checksA e) = none ∧ hasZero e.desc (opSpec e.desc) = false ∧ firstBad (d.checksB e) = none ∧ firstBad (d.checksC e) = none ∧
       e.desc.op ≠ 0x13 ∧ (d.pass 5).startOn { e with checked := true } = some false ∧ e.st = .ready ∧ e.checked = false) := by decide
theorem test_witness_Watchdog :
    (let d := { nopD with hif := { nopD.hif with devTime := 50000001 } }
     (d.tagE 5).st = .running ∧ (d.tagE 5).started.toNat + d.watchdogNs < d.now) := by decide

def doneE (iss : Issuer) : TagE := { TagE.reset with st := .completing, iss := iss }
def ringQ (head tail : Nat) : QueueSt := { QueueSt.reset with en := true, cqBase := 0x1000, cfg := 0x1000000000000, cqHead := head, cqTail := tail }
def ringD (head tail : Nat) : Dev := (Dev.reset.setQueue 0 (ringQ head tail)).setTag 5 (doneE (.queue 0))
theorem test_witness_RecordsReachTheirRing :
    (((ringD 0 0).tagE 5).st = .completing ∧ ((ringD 0 0).tagE 5).iss = .queue 0 ∧ ((ringD 0 0).tagE 5).desc.quiet = false ∧
      ((ringD 0 0).queue 0).fault = false ∧ ((ringD 0 0).queue 0).full = false ∧
      attDoubt ((ringD 0 0).tagE 5).desc ((ringD 0 0).tagE 5).status ((ringD 0 0).tagE 5).detail = false) ∧ ((ringD 0 1).queue 0).full = true ∧
    (let d := Dev.reset.setQueue 0 { ringQ 0 0 with due := [⟨[0], false⟩] }
     (d.queue 0).due = [⟨[0], false⟩] ∧ (d.queue 0).fault = false ∧ (d.queue 0).full = false) := by decide
/-- A driver's ATTEND of sequence 3, GEN 0, that ended AT_MAP (R259). -/
def doubtD : Dev :=
  ((Dev.reset.setQueue 0 (ringQ 0 0)).setTag 5
    { doneE (.queue 0) with desc := { Desc.zero with w0 := 0x30, w4 := 0x3000000000 }, status := 0x80 }).setSeq 3 { Seq.reset with st := .decode }
theorem test_witness_AttendDoubt :
    (doubtD.tagE 5).st = .completing ∧ (doubtD.tagE 5).iss = .queue 0 ∧
    attDoubt (doubtD.tagE 5).desc (doubtD.tagE 5).status (doubtD.tagE 5).detail = true ∧ atSeq (doubtD.tagE 5).desc = 3 ∧
    (doubtD.seq (atSeq (doubtD.tagE 5).desc)).alive = true ∧ (doubtD.seq (atSeq (doubtD.tagE 5).desc)).part = (doubtD.tagE 5).desc.part ∧
    (doubtD.seq (atSeq (doubtD.tagE 5).desc)).gen.toNat = atGen (doubtD.tagE 5).desc := by decide
/-- A NOP ends DONE; its completion keeps RESULT 0 (R107). -/
theorem test_nop : ((doNop 5 nopD).tagE 5).st = .completing ∧ ((doNop 5 nopD).tagE 5).status = stDONE ∧ ((doNop 5 nopD).tagE 5).result = 0 := by
  decide
/-- The record of that NOP: TAG 5 and OPCODE 0x01 in C0 (R103). -/
theorem test_record : ((doNop 5 nopD).tagRecord ((doNop 5 nopD).tagE 5)).bytes = [0, 5, 0, 0, 1, 0, 0, 0, 0, 0, 0, 0, 0, 0, 0, 0] := by decide

/-! Witnesses: the engines. -/

/-- A MATMUL of one by one by one INT8 elements, its output in scratchpad, or (w4 without OUT) in the tile queue, or of two tiles. -/
def mmX (n w4 : W64) : Desc :=
  words 0x510 0x8000000000000000 0x8000000000001000 (n <<< 44 ||| 0x1000001) w4 0 0x8000000000002000 0
def mmOutX : Desc := mmX 1 0x11104000
def mmTqX : Desc := mmX 1 0x11100007
def mmTwoX : Desc := mmX 17 0x11100007
theorem test_witness_MatmulComputesItsTiles :
    (runsD mmOutX).runs 5 0x10 = true ∧ mmWx mmOutX = false ∧ mmTiles mmOutX = [(0, 0)] ∧ (runsD mmOutX).pushedOf 5 = 0 ∧ mmOut mmOutX = true ∧
    mmM mmOutX = 1 ∧ isSp (mmOutX.w 6) = true ∧
    (runsD mmTqX).runs 5 0x10 = true ∧ mmWx mmTqX = false ∧ mmTiles mmTqX ≠ [] ∧ mmOut mmTqX = false ∧
    ((runsD mmTqX).core mmTqX.core).due = [] := by decide

/-- A tile of producer 5 for drainer 7. -/
def tile (prod : Tag) (last fail sv : Bool) (i : BitVec 8) : Tile := ⟨[], [], prod, 7, i, 0, last, fail, sv⟩
def pushD (x : Desc) (q : List Tile) : Dev :=
  (runsD x).setCore 0 { CoreSt.reset with producer := some 5, due := [tile 5 false false false 0], queue := q }
theorem test_witness_TilePush :
    (let d := pushD mmTwoX []
     (d.core 0).producer = some 5 ∧ d.runs 5 0x10 = true ∧ (d.tagE 5).desc.core = 0 ∧ d.cores.lost.contains 5 = false ∧
       (d.core 0).queue.length < 16 ∧ d.pushedOf 5 + 1 ≠ (mmTiles mmTwoX).length) ∧
    ((pushD mmTqX []).core 0).queue.length < 16 ∧ (pushD mmTqX []).pushedOf 5 + 1 = (mmTiles mmTqX).length ∧
    (pushD mmTqX []).drainedBy 5 ((pushD mmTqX []).tagE 5) = [] ∧
    16 ≤ ((pushD mmTqX (List.replicate 16 (tile 1 false false false 0))).core 0).queue.length := by decide
/-- A tile-mode VECOP of one tile (or two, or with scales) that drains producer 5, as tag 7. -/
def vtX (cols w4 : W64) : Desc := words 0x711 0 0 0x8000000000000000 (0x0100720000000005 ||| w4) (cols <<< 32 ||| 1) 0 0
def popD (x : Desc) (q : List Tile) : Dev :=
  (Dev.reset.setTag 7 { TagE.reset with st := .running, desc := x }).setCore 0 { CoreSt.reset with queue := q }
theorem test_witness_TilePop :
    (let d := popD (vtX 16 0) []
     d.drainer 0 = some 7 ∧ d.runs 7 0x11 = true ∧ vTq (d.tagE 7).desc = true ∧ (d.tagE 7).desc.core = 0 ∧ (d.core 0).queue = [] ∧
       (d.tagE (vProd (d.tagE 7).desc)).inFlight = false) ∧
    (tile 6 true false true 0).prod ≠ vProd (vtX 16 0) ∧
    ((tile 5 true true true 0).prod = vProd (vtX 16 0) ∧ (tile 5 true true true 0).fail = true) ∧
    (let e := tile 5 true false true 1
     e.prod = vProd (vtX 16 0) ∧ e.fail = false ∧ e.drain = 7 ∧ ceilDiv (vRows (vtX 16 0)) 16 ≤ e.i.toNat) ∧
    (let e := tile 5 true false false 0
     let x := vtX 16 0x2000000000
     e.i.toNat < ceilDiv (vRows x) 16 ∧ e.j.toNat < ceilDiv (vCols x) 16 ∧ e.last = decide (0 + 1 = vTiles x) ∧ vCs x = 1 ∧
       e.scalesValid = false) ∧
    (let e := tile 5 true false true 0
     let x := vtX 16 0
     e.last = decide (0 + 1 = vTiles x) ∧ vCs x ≠ 1 ∧ 0 + 1 = vTiles x) ∧
    (let e := tile 5 false false true 0
     let x := vtX 17 0
     e.i.toNat < ceilDiv (vRows x) 16 ∧ e.j.toNat < ceilDiv (vCols x) 16 ∧ e.last = decide (0 + 1 = vTiles x) ∧ 0 + 1 ≠ vTiles x) ∧
    (let d := { runsD mmTqX with cores := { (runsD mmTqX).cores with lost := [5] } }
     d.runs 5 0x10 = true ∧ d.cores.lost.contains 5 = true ∧ d.drainedBy 5 (d.tagE 5) = []) := by decide

/-- A stream-mode ADD of one FP32 element; a SAMPLE of one FP32 logit. -/
def veX : Desc := words 0x511 0x8000000000000000 0x8000000000000040 0x8000000000000080 0x0177700000000000 0x0000000100000001 0 0
def smX : Desc := words 0x512 0x8000000000000000 0x8000000000000040 0x0000000100000001 0x7000000000000000 0 0 0
/-- That SAMPLE with TOP_P of 1.0. -/
def smD : Dev := (runsD smX).spWrite 0 0x44 [0, 0, 0x80, 0x3F]
theorem test_witness_VectorEngineCompletes :
    (runsD veX).runs 5 0x11 = true ∧ vTq veX = false ∧ vRows veX = 1 ∧ vOp veX ≠ 0x21 ∧ isSp (veX.w 3) = true ∧
    smD.runs 5 0x12 = true ∧ smRows smX = 1 ∧ isSp (smX.w 2) = true ∧ (smpRow (runsD smX) smX 0 0).st ≠ stDONE := by decide
theorem test_witness_SampleSound (r : BitVec 24) : (smpRow smD smX 0 r).st = stDONE := by rfl
/-- A row whose TOP_P is 0 is a row of bad parameters, 0x82 (R185). -/
theorem test_sample_bad : (smpRow (runsD smX) smX 0 0).st = 0x82 := by decide

/-- An EXPAND of one INT8 element from object 1, which holds one valid block: MAGIC, format 1, INT8, one row, one column, SCALE2 of 1.0. -/
def exX : Desc := words 0x513 0x0000010000000000 0x8000000000000000 0x0000100001000000 0x10000000 0 0 0
def hdr56 (rb : Byte) : List Byte :=
  [0xB7, 0xC1, 0x11, 0, 0, 0, 0, 0, 1, 0, 0, 0, 1, 0, 1, 0, 0, 0, 0x80, 0x3F, rb, 0, 0, 0] ++ List.replicate 32 0
def blockBytes (rb : Byte) : List Byte := hdr56 rb ++ natLe 8 (crc32c (hdr56 rb ++ [0x2A])) ++ [0x2A]
/-- Object 1, LIVE in T1, over some bytes. -/
def objD (bs : List Byte) (d : Dev) : Dev :=
  let o : Obj := { Obj.reset with st := .live, size := 65536, gran := [(0, { Gran.reset with t1 := some ⟨0, 0⟩ })] }
  { d with tier := { d.tier with obj := [(1, o)], mem := Memory.writeN [] (objKey 1 0) bs } }
def exD (rb : Byte) : Dev := objD (blockBytes rb) (runsD exX)
theorem test_witness_Blocks :
    (exD 0).readsBlocks 5 = true ∧ ((exD 0).wx 5).again = false ∧ ((exD 0).wx 5).next < wxTotal exX ∧ 64 ≤ ((exD 0).obj 1).size ∧
    (exD 0).accessGrans ((gransOf 0 64).map fun g => (1, g)) [] = (.ready, exD 0) ∧ ((exD 0).wx 5).tries + 1 ≤ (exD 0).retryLimit ∧
    (let d := (exD 0).setWx 5 { WxRun.reset with tries := 3 }
     (d.wx 5).again = false ∧ (d.wx 5).next < wxTotal exX ∧ d.retryLimit < (d.wx 5).tries + 1) := by decide +kernel
theorem test_witness_BlockGood :
    let d := exD 0
    let h := BlkHdr.ofBytes (d.objRead 1 0 64)
    headerOk h (d.slot h.slot) (d.slotOwned 0 h.slot) = true ∧ seqOk exX 0 h = true ∧ h.stored ≤ (d.obj 1).size ∧ h.sidecar = false ∧
    (d.readHdr 5 h).accessGrans ((gransOf 0 h.stored).map fun g => (1, g)) [] = (.ready, d.readHdr 5 h) ∧
    h.crc = blockCrc (d.objRead 1 0 64) [] (d.objRead 1 64 h.payload) ∧ sidecarOk (d.wx 5) h [] = true ∧
    blockRows h (d.slot h.slot).image (d.objRead 1 64 h.payload) = some ([[42]], 0) := by decide +kernel
theorem test_witness_BlockOutOfPlace :
    let d := exD 1
    let h := BlkHdr.ofBytes (d.objRead 1 0 64)
    headerOk h (d.slot h.slot) (d.slotOwned 0 h.slot) = true ∧ seqOk exX 0 h = false := by decide +kernel
theorem test_witness_Expand :
    (let d := (exD 0).setWx 5 { WxRun.reset with again := true }
     d.readsBlocks 5 = true ∧ (d.wx 5).again = true) ∧
    (let d := (exD 0).setWx 5 { WxRun.reset with next := 1 }
     d.runs 5 0x13 = true ∧ exFunc exX = 0 ∧ (d.wx 5).next = wxTotal exX) ∧ isSp (exX.w 2) = true := by decide +kernel

/-- A SLOT_LOAD from scratchpad, a SLOT_PIN and a SLOT_UNPIN of `n` at version 1 of slot 0. -/
def slX : Desc := words 0x513 0x8000000000000000 0x8000000000002000 4096 1 0 0 0
def pinX (f n : W64) : Desc := words 0x513 0x8000000000000000 0x8000000000000000 n f 1 0 0
/-- A KIND 1 image for BF16 of a version, its table empty, with its CRC. -/
def imgHead (v : Byte) : List Byte := [0x5A, 0xC1, 0, 0, 0x61, 0, 0, 0, v, 0, 0, 0] ++ List.replicate 44 0
def imgOf (v : Byte) (z : List Byte) : List Byte := imgHead v ++ (natLe 8 (crc32c (imgHead v ++ z)) ++ z)
def imgBytes (v : Byte) : List Byte := imgOf v (List.replicate 4032 0)
def slD (bs : List Byte) (ver : W32) : Dev :=
  let d := (runsD slX).setSlot 0 { Slot.reset with version := ver, st := .ready }
  { d with cores := { d.cores with scratch := Memory.writeN [] 0 bs } }
theorem img_length (v : Byte) (z : List Byte) : (imgOf v z).length = 64 + z.length := by simp [imgOf, imgHead, natLe]; omega
theorem slD_reads (v : Byte) (ver : W32) : ((slD (imgBytes v) ver).memRead (slX.w 1) 0 4096).1 = imgBytes v := by
  have h : (imgBytes v).length = 4096 := by rw [imgBytes, img_length, List.length_replicate]
  have e := Memory.readN_writeN [] 0 (imgBytes v)
  rw [h] at e
  rw [Dev.memRead_spAt _ _ _ _ (by decide), Dev.spAt, show spKey (spCore (slX.w 1)) (spOff (slX.w 1) + 0) = 0 by decide]
  have hs : (slD (imgBytes v) ver).cores.scratch = Memory.writeN [] 0 (imgBytes v) := by simp only [slD]
  rewrite [hs, e]
  rfl
/-- The field of the CRC in an image, and what the table's check reads. -/
theorem img_crc (v : Byte) (z : List Byte) : leNat (((imgOf v z).drop 56).take 8) = crc32c (imgHead v ++ z) := by
  have h := crc32c_lt (imgHead v ++ z)
  generalize hc : crc32c (imgHead v ++ z) = c at h
  rw [imgOf, hc]
  simp [imgHead, natLe, leNat]
  omega
theorem img_tail (v : Byte) (z : List Byte) : (imgOf v z).take 56 ++ (imgOf v z).drop 64 = imgHead v ++ z := by simp [imgOf, imgHead, natLe]
theorem img_drop (v : Byte) (z : List Byte) (n : Nat) : (imgOf v z).drop (64 + n) = z.drop n := by
  rw [← List.drop_drop]
  simp [imgOf, imgHead, natLe]
theorem img_words (v : Byte) (z : List Byte) (i : Nat) (h : i = 2 ∨ i = 3 ∨ i = 4 ∨ i = 5 ∨ i = 6) :
    leNat (((imgOf v z).drop (8 * i)).take 8) = 0 := by
  rcases h with rfl | rfl | rfl | rfl | rfl <;> simp [imgOf, imgHead, natLe, leNat]
theorem img_w0 (v : Byte) (z : List Byte) : leNat ((imgOf v z).take 8) = 0x610000C15A := by simp [imgOf, imgHead, natLe, leNat]
theorem img_w1 (v : Byte) (z : List Byte) : leNat (((imgOf v z).drop 8).take 8) = v.toNat := by simp [imgOf, imgHead, natLe, leNat]
theorem img_version (v : Byte) (z : List Byte) : imgVersion (imgOf v z) = v.toNat := by simp [imgVersion, imgOf, imgHead, natLe, leNat]
theorem img_ok (v : Byte) : imageOk (imgBytes v) = true := by
  have hl := crc32c_lt (imgHead v ++ List.replicate 4032 0)
  have hv : v.toNat < 2 ^ 32 := by have := v.isLt; omega
  have d0 : ((imgBytes v).drop 64).take (2 ^ 8 + 1) = List.replicate 257 0 := by
    rw [imgBytes, img_drop v _ 0]; simp [List.take_replicate, -List.reduceReplicate]
  have d1 : (imgBytes v).drop (64 + (2 ^ 8 + 1)) = List.replicate 3775 0 := by
    rw [imgBytes, img_drop]; simp [List.drop_replicate, -List.reduceReplicate]
  have hk : imgKind (imgBytes v) = 1 := by rw [imgKind, imgBytes, img_w0]; decide
  have he : imgEtype (imgBytes v) = 6 := by rw [imgEtype, imgBytes, img_w0]; decide
  have hg : imgVLog (imgBytes v) = 0 := by rw [imgVLog, imgBytes, img_w0]; decide
  have hw : imgCbkW (imgBytes v) = 0 := by rw [imgCbkW, imgBytes, img_w0]; decide
  have ht : expTableOk (imgBytes v) 8 = true := by
    simp only [expTableOk, codeLengths, d1, d0]
    have h1 : ((List.replicate 257 (0 : Byte)).map (·.toNat)).all (· ≤ 12) = true := by decide +kernel
    have h2 : (((List.replicate 257 (0 : Byte)).map (·.toNat)).map fun l => if l = 0 then 0 else 2 ^ (12 - l)).foldl (· + ·) 0 ≤ 2 ^ 12 := by
      decide +kernel
    have h3 : (List.replicate 3775 (0 : Byte)).all (· == 0) = true :=
      List.all_eq_true.mpr fun x hx => by rw [(List.mem_replicate.mp hx).2]; rfl
    rewrite [h1, h3]
    simp only [h2, decide_true, Bool.and_self]
  have w0 := img_w0 v (List.replicate 4032 0)
  have w1 := img_w1 v (List.replicate 4032 0)
  have w7 : leNat (((imgBytes v).drop 56).take 8) = crc32c (imgHead v ++ List.replicate 4032 0) := img_crc v _
  have wz := fun i h => img_words v (List.replicate 4032 0) i h
  unfold imageOk
  simp only [hk, he, hg, hw, ht, show 8 * 7 = 56 from rfl, w7]
  have f7 : fld (crc32c (imgHead v ++ List.replicate 4032 0)) 63 32 = 0 ∧
      fld (crc32c (imgHead v ++ List.replicate 4032 0)) 31 0 = crc32c (imgHead v ++ List.replicate 4032 0) := by
    generalize crc32c (imgHead v ++ List.replicate 4032 0) = c at hl
    simp only [fld, Nat.shiftRight_eq_div_pow]
    omega
  have f1 : fld (leNat (((imgBytes v).drop (8 * 1)).take 8)) 63 32 = 0 := by
    rewrite [show 8 * 1 = 8 from rfl, imgBytes, w1]
    simp only [fld, Nat.shiftRight_eq_div_pow]
    omega
  have f0 : leNat (((imgBytes v).drop (8 * 0)).take 8) = 0x610000C15A := w0
  have fz : ([2, 3, 4, 5, 6].all fun i => leNat (((imgBytes v).drop (8 * i)).take 8) == 0) = true := by
    simp only [List.all_cons, List.all_nil, imgBytes, img_words, true_or, or_true, beq_self_eq_true, Bool.and_self]
  have ft : (imgBytes v).take 56 ++ (imgBytes v).drop 64 = imgHead v ++ List.replicate 4032 0 := img_tail v _
  rewrite [f0, f1, fz, f7.1, f7.2, ft]
  simp only [beq_self_eq_true, Bool.and_true, if_true]
  generalize expTableOk (imgBytes v) 4 = a
  generalize expTableOk (imgBytes v) 5 = b
  revert a b
  decide
theorem slD_runs (bs : List Byte) (v : W32) : (slD bs v).runs 5 0x13 = true := by
  have e : (slD bs v).tagE 5 = (runsD slX).tagE 5 := by simp only [slD, Dev.tagE, Dev.setSlot]
  unfold Dev.runs
  rewrite [e]
  decide
theorem slD_slot (bs : List Byte) (v : W32) : ((slD bs v).slot 0).version = v := by
  simp only [slD, Dev.slot, Dev.setSlot, Tbl.get_set_same]
theorem slD_access (bs : List Byte) (v : W32) : (slD bs v).access [(slX.w 1, 4096)] [] = (.ready, slD bs v) := by
  simp [Dev.access, Dev.accessGrans, areaGrans, show isSp (slX.w 1) = true by decide]
/-- The image of version 1 is valid, and slot 0 holds version 2 (or 1). -/
theorem test_witness_SlotLoad (v : W32) : (slD (imgBytes 1) v).runs 5 0x13 = true ∧ exFunc slX = 1 ∧
    (slD (imgBytes 1) v).access [(slX.w 1, 4096)] [] = (.ready, slD (imgBytes 1) v) ∧
    imageOk ((slD (imgBytes 1) v).memRead (slX.w 1) 0 4096).1 = true ∧
    imgVersion ((slD (imgBytes 1) v).memRead (slX.w 1) 0 4096).1 = 1 ∧ ((slD (imgBytes 1) v).slot 0).version = v := by
  rewrite [slD_reads]
  exact ⟨slD_runs _ v, by decide, slD_access _ v, img_ok 1, img_version 1 _, slD_slot _ v⟩
theorem test_witness_SlotLoadBad : imageOk ((slD [0] 2).memRead (slX.w 1) 0 4096).1 = false := by
  rfl
def pinD (f n : W64) (v : Slot) : Dev := (runsD (pinX f n)).setSlot 0 v
def ready1 (p : BitVec 16) : Slot := { Slot.reset with st := .ready, version := 1, pins := p }
theorem test_witness_SlotPins :
    (pinD 2 1 (ready1 0)).runs 5 0x13 = true ∧ exFunc (pinX 2 1) = 2 ∧ exFunc (pinX 3 1) = 3 ∧ exSlot (pinX 2 1) = 0 ∧ exSlotVer (pinX 2 1) = 1 ∧
    (ready1 65534).pins.toNat + exCount (pinX 2 1) ≤ 65535 ∧ 65535 < (ready1 65535).pins.toNat + exCount (pinX 2 1) ∧
    exCount (pinX 3 1) ≤ (ready1 1).pins.toNat ∧ (ready1 0).pins.toNat < exCount (pinX 3 1) ∧ Slot.reset.st ≠ .ready := by decide

/-- MOVE within the scratchpad of core 0, and MOVE from granule 0 of object 1, damaged, missing, or there. -/
def mvD (g : Gran) (stt : ObjState) : Dev :=
  let o : Obj := { Obj.reset with st := stt, size := 65536, gran := [(0, g)] }
  let d := runsD (words 0x520 0x0000010000000000 0x8000000000000000 0x0000000100000040 0 0 0 0)
  { d with tier := { d.tier with obj := [(1, o)] } }
def mvAcc (d : Dev) : Acc × Dev :=
  let x := (d.tagE 5).desc
  d.access (if mvZero x then [] else [((mvSrc x).addr, (mvSrc x).span)]) [((mvDst x).addr, (mvDst x).span)]
theorem test_witness_MoveCopiesItsRows :
    (runsD moveX).runs 5 0x20 = true ∧ (mvAcc (runsD moveX)).1 = .ready ∧ mvRows moveX = 1 ∧ isSp (moveX.w 2) = true ∧
    (mvAcc (mvD { Gran.reset with damaged := true } .live)).1 = .damaged 1 0 ∧ (mvAcc (mvD Gran.reset .sealed)).1 = .waits := by decide
/-- MOVE copies the bytes of its source and completes with one row (R110). -/
theorem test_move : let d := doMove 5 ((runsD moveX).spWrite 0 0 [1, 2, 3])
    Memory.readN d.cores.scratch (spKey 0 0x40) 4 = [1, 2, 3, 0] ∧ (d.tagE 5).result = 1 := by decide +kernel

/-- A MOVE of two rows ended by the watchdog answers the number of rows it wrote in full, at most both (R112). -/
theorem test_move_stopped : let x := words 0x520 0x8000000000000000 0x8000000000000100 0x0000000200000040 0x0000004000000040 0 0 0
    ((runsD x).openRows x = 2) ∧ ((runsD x).stopMove x).1 < 3 :=
  ⟨by decide, Nat.mod_lt _ (by decide)⟩

/-! Witnesses: MASK and ATTEND. -/

/-- A granule in a frame of T1; an object of one granule; a device with objects and bytes. -/
def granT1 : Gran := { Gran.reset with t1 := some ⟨0, 0⟩ }
def objG (s : ObjState) (g : Gran) : Obj := { Obj.reset with st := s, size := 65536, gran := [(0, g)] }
def tierD (os : List (Nat × Obj)) (bs : List (Nat × List Byte)) (d : Dev) : Dev :=
  { d with tier := { d.tier with obj := os, mem := bs.foldl (fun m e => Memory.writeN m e.1 e.2) [] } }

/-- An automaton for a vocabulary of 8 in object 1: one state, one mask, one transition from tokens 0 to 7; a work area in object 2. -/
def auHead : List Byte :=
  natLe 4 0x1C1AE ++ natLe 4 8 ++ natLe 4 1 ++ natLe 4 1 ++ natLe 4 0 ++ natLe 4 1 ++ natLe 8 80 ++ natLe 8 128 ++ List.replicate 20 0
def auBytes : List Byte :=
  auHead ++ natLe 4 (crc32c auHead) ++ (natLe 4 0 ++ natLe 4 0 ++ natLe 4 1 ++ natLe 4 1) ++ (natLe 4 0 ++ natLe 4 7 ++ natLe 4 0 ++ natLe 4 0)
def mkX (f : W64) : Desc := words 0x514 0x10000000000 0x20000000000 0x800000001 f 0 0 0
def mkD (f : W64) (bs work : List Byte) : Dev :=
  tierD [(1, objG .live granT1), (2, objG .live granT1)] [(objKey 1 0, bs), (objKey 2 0, work)] (runsD (mkX f))
def mkFirst (d : Dev) (x : Desc) : Acc × Dev := d.access [(x.w 1, 64), (x.w 2, 16 * mkRows x)] []
def mkThen (d : Dev) (x : Desc) : Acc × Dev :=
  (mkFirst d x).2.access ((List.range (mkRows x)).flatMap (maskReads (mkFirst d x).2 x)) [((mkWork x).addr, (mkWork x).span)]
def mkBadRows (d : Dev) (x : Desc) : Nat := ((List.range (mkRows x)).filter fun r => (maskRow (mkThen d x).2 x r).st ≠ 0).length
theorem test_witness_MaskUnitCompletes : (∀ f : W64, f = 0 ∨ f = 1 →
    (mkD f auBytes []).runs 5 0x14 = true ∧ mkFunc (mkX f) = f.toNat ∧ (mkFirst (mkD f auBytes []) (mkX f)).1 = .ready ∧
    (mkFirst (mkD f auBytes []) (mkX f)).2.auOk (urObj ((mkX f).w 1)) (mkVocab (mkX f)) = true ∧ (mkThen (mkD f auBytes []) (mkX f)).1 = .ready ∧
    mkBadRows (mkD f auBytes []) (mkX f) = 0 ∧ mkRows (mkX f) = 1 ∧ isSp ((mkX f).w 2) = false ∧
    (∀ g ∈ gransOf (urOff ((mkX f).w 2)) (mkWork (mkX f)).span, ((mkThen (mkD f auBytes []) (mkX f)).2.gran (urObj ((mkX f).w 2)) g).t1.isSome = true ∧
      ((mkThen (mkD f auBytes []) (mkX f)).2.gran (urObj ((mkX f).w 2)) g).damaged = false) ∧
    mkBadRows (mkD f auBytes [1]) (mkX f) = 1 ∧
    (mkFirst (mkD f [] []) (mkX f)).1 = .ready ∧
    (mkFirst (mkD f [] []) (mkX f)).2.auOk (urObj ((mkX f).w 1)) (mkVocab (mkX f)) = false) := by
  rintro f (rfl | rfl) <;> decide +kernel

/-- An ATTEND of sequence 3, generation 1: one row of a head of 64, E4M3, over one position, its map in object 2, its page granule 0 of object 1. -/
def atX : Desc := words 0x530 0x8000000000000000 0x8000000000001000 0x8000000000100000 0x0001003000044700 0x0000040100000000 0 0
def atSeqE (s : SeqState) (g : BitVec 16) (p : PartNo) : Seq := { Seq.reset with st := s, gen := g, part := p, kvObj := 2 }
def atD0 (q : Seq) (fill : Nat) (bs : List Byte) : Dev :=
  (tierD [(1, objG .live granT1), (2, objG .live granT1)] [(objKey 1 0, bs), (objKey 2 0, kvHeader 4 1 1 0 1 1 3 0),
    (objKey 2 4096, natLe 8 (pageEntry 1 false false 0 1 0 fill))] (runsD atX)).setSeq 3 q
def atGood : Dev := atD0 (atSeqE .decode 1 0) 1 []
def atEs (d : Dev) (x : Desc) (o : ObjNo) : List (Nat × Nat) := (List.range (atE x)).zip (atEntries d x o)
theorem test_witness_AttendSnapshot :
    atGood.runs 5 0x30 = true ∧ (atGood.attRun 5).on = false ∧ atSeq atX = 3 ∧ (Dev.reset.seq 3).st = .free ∧
    ((atD0 (atSeqE .decode 2 0) 1 []).seq 3).gen.toNat ≠ atGen atX ∧
    (let q := (atD0 (atSeqE .decode 1 1) 1 []).seq 3
     q.st ≠ .free ∧ q.gen.toNat = atGen atX ∧ q.part ≠ atX.part) ∧
    (let q := atGood.seq 3
     let d1 := (atGood.accessGrans (atMapGrans atGood atX q.kvObj) []).2
     q.st ≠ .free ∧ q.gen.toNat = atGen atX ∧ q.part = atX.part ∧ (atGood.accessGrans (atMapGrans atGood atX q.kvObj) []).1 = .ready ∧
       atReject d1 atX q.kvObj (atEs d1 atX q.kvObj) (atWalk d1 atX q.kvObj (atEs d1 atX q.kvObj)) = none ∧
       atDamaged atX (atEs d1 atX q.kvObj) = none ∧ atWalk d1 atX q.kvObj (atEs d1 atX q.kvObj) = [0]) ∧
    (let d := atD0 (atSeqE .decode 1 0) 0 []
     let q := d.seq 3
     let d1 := (d.accessGrans (atMapGrans d atX q.kvObj) []).2
     (d.accessGrans (atMapGrans d atX q.kvObj) []).1 = .ready ∧
       atReject d1 atX q.kvObj (atEs d1 atX q.kvObj) (atWalk d1 atX q.kvObj (atEs d1 atX q.kvObj)) = some (0x81, 0, 0)) := by decide +kernel
/-- The ATTEND under way, with a page or two to land, at a row state. -/
def atRun0 (todo : List Nat) (fill : Nat) (row : AttRow) : AttRun :=
  { AttRun.reset with
    on := true, mapObj := 2, pagesMax := 1, walk := todo, todo := todo, rows := [row]
    pages := [(0, BitVec.ofNat 64 (pageEntry 1 false false 0 1 0 fill))] }
def rowStart : AttRow := ⟨negInf, 0, List.replicate 64 0, false⟩
/-- A row of sum infinity, whose output is zeros. -/
def rowBig : AttRow := ⟨negInf, 0x7F800000, List.replicate 64 0, false⟩
def atRunD (todo : List Nat) (fill : Nat) (row : AttRow) (q : List Byte) : Dev :=
  (atGood.setAtt 5 (atRun0 todo fill row)).spWrite 0 0 q
def atOuts (d : Dev) (fill : Nat) : List (List W32 × Bool) :=
  ((atPage 5 atX 0 1 0 fill (d.accessGrans [(1, 0)] []).2).attRun 5).rows.map (atOut atX)
theorem test_witness_PageLand :
    (let d := atRunD [0, 1] 1 rowStart []
     d.runs 5 0x30 = true ∧ (d.attRun 5).on = true ∧ ((d.attRun 5).todo.take 4).contains 0 = true ∧ (d.attRun 5).todo.erase 0 ≠ [] ∧
       (let w := (Tbl.get (0 : W64) (d.attRun 5).pages 0).toNat
        peObj w = 1 ∧ peGran w = 0 ∧ peFill w = 1) ∧ atPageGrans atX (d.attRun 5) 0 (1, 0) = ([(1, 0)], []) ∧ (d.accessGrans [(1, 0)] []).1 = .ready) ∧
    (let d := atRunD [0] 1 rowStart [0x7F]
     (d.attRun 5).todo.erase 0 = [] ∧ ((atOuts d 1).filter fun o => rowNan o.1).length = 1) ∧
    (let o := atOuts (atRunD [0] 0 rowStart []) 0
     (o.filter fun o => rowNan o.1).length = 0 ∧ (o.filter (·.2)).length = 1) ∧
    (let o := atOuts (atRunD [0] 0 rowBig []) 0
     (o.filter fun o => rowNan o.1).length = 0 ∧ (o.filter (·.2)).length = 0) := by decide +kernel

/-! Witnesses: the tier engine. -/

/-- A tier command with its size word and its last word. -/
def trX (op w6 w7 : W64) : Desc := words (0x500 + op) 0x10000000000 0x20000000000 0x10000 0x10000 0x20000000000 w6 w7
/-- A partition 0 whose re-encryption works: 64 frames of each tier are held back. -/
def busyPart (d : Dev) : Dev := d.setPart 0 { Part.zeroPart with live2 := true }
/-- An attached creation over catalogue entry 1 of 64 KiB; a creation of 64 KiB; one of the whole of T1. -/
def crAtt : Desc := trX 0x40 0x10000 0x100000050
def crLive (k : W64) : Desc := trX 0x40 0x10000 (0x40 + k)
def crAll : Desc := trX 0x40 410169376768 0x40
def catD (d : Dev) : Dev := d.setCat 1 { CatE.reset with used := true, size := 0x10000, granules := 1 }
theorem test_witness_ObjCreate :
    (runsD crAtt).runs 5 0x40 = true ∧ createCheck (runsD crAtt) crAtt = some (0x82, 0) ∧
    createCheck (catD (runsD crAtt)) crAtt = none ∧ trAttach crAtt = true ∧
    (∀ k : W64, k = 0 ∨ k = 0x20 → createCheck (runsD (crLive k)) (crLive k) = none ∧ trAttach (crLive k) = false ∧
      ((runsD (crLive k)).room 0 .t1 1).1 = true) ∧
    createCheck (busyPart (runsD crAll)) crAll = none ∧ trAttach crAll = false ∧
    ((busyPart (runsD crAll)).room crAll.part (tierOf (trTier crAll)) (ceilDiv (trSize crAll) granSize)).1 = false := by
  refine ⟨by decide +kernel, by decide +kernel, by decide +kernel, by decide +kernel, ?_, by decide +kernel, by decide +kernel, by decide +kernel⟩
  rintro k (rfl | rfl) <;> decide +kernel
/-- A creation of 64 KiB takes object number 1 (R195). -/
theorem test_create : ((doObjCreate 5 (runsD (crLive 0))).tagE 5).result = 1 ∧ ((doObjCreate 5 (runsD (crLive 0))).obj 1).st = .live := by decide +kernel

def dyObj (n : Nat) : Obj := { objG .dying granT1 with was := .live, refs := n }
def dyD (n : Nat) : Dev :=
  tierD [(1, dyObj n)] [] (Dev.reset.setTag 5 { TagE.reset with st := .running, desc := trX 0x41 0 0, refs := [1] })
theorem test_witness_Destroy :
    (dyD 1).runs 5 0x41 = true ∧ ((dyD 1).obj 1).st = .dying ∧ (dyD 1).destroyers 1 = [5] ∧ ((dyD 1).obj 1).refs = 1 ∧
    (dyD 2).destroyers 1 = [5] ∧ ((dyD 2).obj 1).refs ≠ 1 ∧
    (let d := tierD [(1, dyObj 0)] [] Dev.reset
     (d.obj 1).st = .dying ∧ d.destroyers 1 = [] ∧ (d.obj 1).refs = 0) := by decide +kernel

def sObj (s : ObjState) (g : Gran) : Obj := { objG s g with cat := 1, readOnly := true }
/-- A range command on object 1, its release range in object 2, whose granule is pinned; another partition's object 9 over a tier. -/
def rgD (op w7 : W64) (s : ObjState) (g : Gran) (os : List (Nat × Obj)) : Dev :=
  tierD ([(1, sObj s g), (2, sObj .sealed { granT1 with pins := 1 })] ++ os) [] (busyPart (runsD (trX op 0 w7)))
def fillObj (t : Tier) (n : Nat) : Obj := { Obj.reset with st := .live, part := 1, place := t, size := n }
/-- A granule with copies in both tiers, and one with a copy in T2 only. -/
def granBoth : Gran := { granT1 with t2 := some ⟨0, 0⟩ }
def fill1 : List (Nat × Obj) := [(9, fillObj .t1 (410169376768 - 64 * 65536))]
def fill2 : List (Nat × Obj) := [(9, fillObj .t2 (824633720832 - 64 * 65536))]
/-- The start of a range command: its check, and what its granules come to. -/
def rgStart (op : Nat) (d : Dev) : Option (Byte × Nat) × Option (List Nat × Nat × Dev) :=
  let x := (d.tagE 5).desc
  let gs := (trGrans x).filter fun g => !trShared x g
  let e := if op = 0x46 then d.unpinAll (urObj (x.w 5)) ((trRelGrans x).filter fun g => !trShared x g) true else d
  (rangeCheck d x, Dev.granSteps 5 gs 0 (e.setTierRun 5 ⟨gs, 0⟩))
/-- A range command has a start that fails, one dealt with at once, one that leaves a move, and one that finds no frame. -/
def rgWitness (op w7 : W64) (g : Gran) (fill : List (Nat × Obj)) : Bool :=
  let bad := rgD op w7 .opened g []
  let d1 := rgD op w7 .sealed granBoth []
  let d2 := rgD op w7 .sealed g []
  let d3 := rgD op w7 .sealed g fill
  d1.runs 5 op.toNat && d1.tierRun 5 == none && [bad, d1, d2, d3].all (fun d => !d.rangeBlocked 5) && rangeCheck bad (trX op 0 w7) == some (0x82, 0) &&
  (rgStart op.toNat d1).1 == none && (match (rgStart op.toNat d1).2 with
    | some (l, _, e) => l == [] && !e.movesOf 5
    | none => false) &&
  (rgStart op.toNat d2).1 == none && (match (rgStart op.toNat d2).2 with
    | some (_, _, e) => e.movesOf 5
    | none => false) &&
  (rgStart op.toNat d3).1 == none && (rgStart op.toNat d3).2.isNone
theorem test_witness_RangeCommands :
    rgWitness 0x42 0x40 Gran.reset fill1 = true ∧ rgWitness 0x43 0x80 granT1 fill2 = true ∧ rgWitness 0x44 0x40 Gran.reset fill1 = true ∧
    rgWitness 0x46 0x40 Gran.reset fill1 = true := by decide +kernel
/-- A granule an earlier command still has to act on is left for later. -/
theorem test_range_waits :
    (let d := (((rgD 0x42 0x40 .sealed Gran.reset []).setTag 6 { TagE.reset with st := .running, desc := trX 0x42 0 0x40 }).setTag 5
        { TagE.reset with st := .running, order := 1, desc := trX 0x42 0 0x40 }).setTierRun 6 ⟨[0], 0⟩
     (match (rgStart 0x42 d).2 with
      | some (l, _, _) => l == [0]
      | none => false) = true ∧ d.runs 5 0x42 = true ∧ d.tierRun 5 = none ∧ d.rangeBlocked 5 = true) := by decide +kernel

def unD (n : Nat) : Dev := tierD [(1, sObj .sealed { granT1 with pins := n })] [] (runsD (trX 0x45 0 0))
def oqD : Dev := tierD [(2, objG .live granT1)] [] (runsD (trX 0x48 0 0))
theorem test_witness_UnpinAndQuery :
    (unD 0).runs 5 0x45 = true ∧ rangeCheck (unD 0) (trX 0x45 0 0) = some (0x84, 0) ∧ rangeCheck (unD 1) (trX 0x45 0 0) = none ∧
    (unD 0).rangeBlocked 5 = false ∧ (unD 1).rangeBlocked 5 = false ∧ trGrans (trX 0x45 0 0) = [0] ∧ oqD.runs 5 0x48 = true ∧ (oqD.access [] [((trX 0x48 0 0).w 2, 64)]).1 = .ready ∧
    (oqD.access [] [((trX 0x48 0 0).w 2, 64)]).2 = oqD ∧ isSp ((trX 0x48 0 0).w 2) = false ∧
    (∀ g ∈ gransOf (urOff ((trX 0x48 0 0).w 2)) 64, (oqD.gran (urObj ((trX 0x48 0 0).w 2)) g).t1.isSome = true ∧
      (oqD.gran (urObj ((trX 0x48 0 0).w 2)) g).damaged = false) := by decide +kernel

/-- A seal of object 1 with one channel in service; blocks of that channel in a table. -/
def seD (s : ObjState) (blk : Tbl Blk) : Dev :=
  let d := tierD [(1, { objG s granT1 with t3 := 50331648 })] [] (runsD (trX 0x47 0 0))
  { d with cellar := { d.cellar with chmap := 1, blk := blk } }
def noBlks : Tbl Blk := (List.range 5472).map fun b => (b, { Blk.reset with st := .allocated })
theorem get_range {α : Type} (d v : α) (n b : Nat) (h : b < n) : Tbl.get d ((List.range n).map fun b => (b, v)) b = v := by
  have : ∀ (l : List Nat), b ∈ l → Tbl.get d (l.map fun b => (b, v)) b = v := by
    intro l
    induction l with
    | nil => simp
    | cons a l ih =>
      intro m
      by_cases e : b = a
      · simp [Tbl.get, e]
      · simp [Tbl.get, e, ih ((List.mem_cons.mp m).resolve_left e)]
  exact this _ (List.mem_range.mpr h)
theorem seD_none (s : ObjState) : (seD s noBlks).availBlks 0 = 0 := by
  rw [Dev.availBlks, List.length_eq_zero_iff, List.filter_eq_nil_iff]
  intro b hb
  simp only [upFrom, List.mem_map, List.mem_range] at hb
  obtain ⟨i, hi, rfl⟩ := hb
  have : (seD s noBlks).blk 0 (11 + i) = { Blk.reset with st := .allocated } := by
    simp only [Dev.blk, seD, noBlks]
    rw [show 0 * 5472 + (11 + i) = 11 + i by omega]
    exact get_range _ _ _ _ (by omega)
  simp [this, Blk.available]
theorem test_witness_Seal :
    (seD .live []).runs 5 0x47 = true ∧ (seD .live []).sealOf 5 = none ∧ sealCheck (seD .live []) 1 = some (0x82, 0) ∧
    sealCheck (seD .opened []) 1 = none ∧ (seD .opened []).sealShort 1 = 0 ∧ sealCheck (seD .opened noBlks) 1 = none := by decide +kernel
theorem test_witness_SealShort : (seD .opened noBlks).sealShort 1 = 1 := by
  have c : (seD .opened noBlks).chans = [0] := by
    show setBits (1 : BitVec 64).toNat 64 = [0]
    decide
  have b : blocksOf 1 1 = [1] := by decide
  simp [Dev.sealShort, c, b, sumNat, seD_none, Nat.mod_one]
/-- The oldest change that is ready: a seal by tag 5, or a deletion. -/
def chD (c : CatChange) : Dev :=
  let d := tierD [(1, objG .opened granT1)] [] (runsD (trX 0x47 0 0))
  { d with cellar := { d.cellar with changes := [.seal 6 2 7 false CatE.reset, c] } }
def delD : Dev := (chD (.delete 7)).setBlk 3 40 { Blk.reset with st := .allocated, entry := 7, committed := true }
theorem test_witness_CatalogueCommit :
    (chD (.seal 5 1 7 true CatE.reset)).cellar.changes.find? (·.ready) = some (.seal 5 1 7 true CatE.reset) ∧
    ((chD (.seal 5 1 7 true CatE.reset)).tagE 5).live = true ∧ ((chD (.seal 5 1 7 true CatE.reset)).obj 1).st ≠ .dying ∧
    delD.cellar.changes.find? (·.ready) = some (.delete 7) ∧ (delD.blk 3 40).entry = 7 ∧ (delD.blk 3 40).committed = true := by decide

def mv1 (dst : Tier) (w : Bool) (dropT1 : Bool) : Mv := ⟨1, 0, some .t1, dst, ⟨3, 0⟩, .cmd 5, [], [], dropT1, w⟩
def movD (m : Mv) (s : ObjState) : Dev :=
  let d := tierD [(1, sObj s granT1)] [] Dev.reset
  { d with tier := { d.tier with moves := [m] } }
def fetD (os : List (Nat × Obj)) : Dev :=
  let d := tierD ((1, sObj .sealed Gran.reset) :: os) [] (busyPart Dev.reset)
  { d with tier := { d.tier with misses := [⟨1, 0⟩] } }
def mvLater : Mv := { mv1 .t2 false false with g := 1 }
def laterD : Dev :=
  let d := movD mvLater .sealed
  { d with tier := { d.tier with moves := [mvLater, mv1 .t2 false false] } }
theorem test_witness_MoveHeldBack : laterD.moveOf 1 1 = some mvLater ∧ laterD.notFirst mvLater = true := by decide
theorem test_witness_MovesAndFetch :
    (∀ m ∈ [mv1 .t2 true false, mv1 .t2 false true, mv1 .t1 false false], (movD m .sealed).moveOf 1 0 = some m ∧
      ((movD m .sealed).gran 1 0).damaged = false ∧ (movD m .sealed).notFirst m = false ∧ (movD m .sealed).tier.run = [] ∧
      (movD m .sealed).tier.fetchQ = [] ∧ m.dst ≠ .t3 ∧ (m.dropT1 = true → m.dst = .t2)) ∧
    (mv1 .t2 true false).src = some .t1 ∧ (Tier.t1 ≠ (mv1 .t2 true false).dst) ∧
    (∀ os ∈ [[], fill1], (fetD os).tier.misses.contains (Miss.mk 1 0) = true ∧ (fetD os).tier.moves.length < 256 ∧
      ((fetD os).obj 1).eff = .sealed ∧ ((fetD os).gran 1 0).at ((fetD os).obj 1).place = none ∧ (fetD os).moving 1 0 = false ∧
      ((fetD os).gran 1 0).damaged = false ∧ 0 < ((fetD os).obj 1).granCount) ∧
    (let e (d : Dev) : Dev := { d with tier := { d.tier with misses := [] } }
     ((e (fetD [])).room 0 .t1 1).1 = true ∧ ((e (fetD fill1)).room 0 .t1 1).1 = false) := by decide +kernel

/-! Witnesses: the Cellar. -/

def cel (f : Cellar → Cellar) (d : Dev) : Dev := { d with cellar := f d.cellar }
/-- A descriptor for a block and code word; an operation with it; channel 2, die 0. -/
def flcF (b c : BitVec 16) : FlcDesc := ⟨0, b, c, 9, 0, 0⟩
def dop (op : FlcOp) (b c : BitVec 16) : DieOp := ⟨op, flcF b c, none, false, 0⟩
def celQ (q : List DieOp) (s : DieSt) : Dev := (Dev.reset.setFlcQueue 2 q).setDie 2 0 s
def dieBusy (o : DieOp) : DieSt := ⟨some o, none, 0⟩
theorem test_witness_ChannelQueues :
    64 ≤ ((celQ (List.replicate 64 (dop .readG 16 0)) DieSt.reset).flcQueue 2).length ∧
    ((celQ (List.replicate 63 (dop .readG 16 0)) (dieBusy (dop .erase 16 0))).flcQueue 2).length < 64 ∧
    ((celQ [] (dieBusy (dop .erase 16 0))).die 2 (dop .readG 16 0).die).run.isSome = true ∧
    (celQ [] DieSt.reset).flcQueue 2 = [] ∧ (celQ [] DieSt.reset).die 2 (dop .readG 16 0).die = DieSt.reset ∧
    (∀ op ∈ [FlcOp.readG, .readCal, .readCw, .dieReset], (celQ [] DieSt.reset).flcCheck 2 (dop op 5471 3068) = 0 ∧
      (celQ [] DieSt.reset).flcCheck 2 (dop op 5472 0) = 3) ∧
    ((celQ [] DieSt.reset).setBlk 2 16 { Blk.reset with st := .test }).flcCheck 2 (dop .progG 16 0) = 0 ∧
    (celQ [] DieSt.reset).flcCheck 2 (dop .progG 16 0) = 4 ∧ (celQ [] DieSt.reset).flcCheck 2 (dop .progCw 8 0) = 0 ∧
    (celQ [] DieSt.reset).flcCheck 2 (dop .progCw 16 0) = 4 ∧ (celQ [] DieSt.reset).flcCheck 2 (dop .erase 16 0) = 4 ∧
    ((celQ [] DieSt.reset).journalPut 2 0 ⟨true, 16, 0, 0⟩).flcCheck 2 (dop .erase 16 0) = 0 ∧
    (∀ p, ((celQ [] (dieBusy (dop .erase 16 0))).die 2 0).run = some p ∨ ((celQ [] (dieBusy (dop .erase 16 0))).die 2 0).susp = some p →
      p.reg = false) ∧
    (let d := (celQ [] DieSt.reset).setBlk 2 24 { Blk.reset with st := .interrupted }
     d.startHeld 2 none = false ∧ d.startHeld 2 (some ⟨true, 24, 0, 0⟩) = false ∧ d.startHeld 2 (some ⟨true, 16, 0, 0⟩) = true) := by
  refine ⟨by decide, by decide, by decide, by decide, by decide, by decide, by decide, by decide, by decide, by decide, by decide, by decide, ?_, by decide +kernel⟩
  rintro p (h | h)
  · injection (show some (dop .erase 16 0) = some p from h) with h
    rw [← h]
    rfl
  · cases (show (none : Option DieOp) = some p from h)

def finD (o : DieOp) (k : Blk) : Dev := (celQ [] (dieBusy o)).setBlk 2 16 k
def lateD (o : DieOp) (q : List DieOp) : Dev :=
  let d := celQ q (dieBusy o)
  { d with hif := { d.hif with devTime := 1000000 } }
theorem test_witness_OperationsFinish :
    (let d := finD (dop .readG 16 0) { Blk.reset with st := .allocated, wp := 4 }
     d.die 2 0 = ⟨some (dop .readG 16 0), none, 0⟩ ∧ d.flcQueue 2 = [] ∧ (d.blk 2 16).st ≠ .interrupted ∧ 0 + 4 ≤ (d.blk 2 16).wp) ∧
    (finD (dop .progG 16 0) { Blk.reset with st := .test }).die 2 0 = ⟨some (dop .progG 16 0), none, 0⟩ ∧
    (dataBlk (dop .erase 0 0).blk = false ∧ (dop .erase 0 0).blk < 11) ∧
    ((finD (dop .erase 16 0) { Blk.reset with st := .erasing }).blk 2 16).st = .erasing ∧ dataBlk (dop .erase 16 0).blk = true ∧
    (let d := finD (dop .erase 16 0) { Blk.reset with st := .erasing, verified := true }
     (d.blk 2 16).st = .erasing ∧ (d.blk 2 16).verified = true) ∧
    (∀ op ∈ [FlcOp.progG, .erase],
      let d := lateD (dop op 16 0) [dop .readG 24 0]
      d.die 2 0 = ⟨some (dop op 16 0), none, 0⟩ ∧ dataBlk (dop op 16 0).blk = true ∧ bitN (dop op 16 0).desc.flags.toNat 1 = false ∧
        (dop op 16 0).since + (if (dop op 16 0).op = .progG then 200000 else 1000000) ≤ d.now ∧
        pickOp (d.flcQueue 2) 0 true = some (dop .readG 24 0) ∧ d.flcCheck 2 (dop .readG 24 0) = 0) := by decide

/-- Entry 7 of one granule in block 16 of channel 2, with an object over it. -/
def lostD (g : Gran) : Dev :=
  let d := tierD [(1, { objG .sealed g with cat := 7 })] [] (cel (fun c => { c with chmap := 5 }) Dev.reset)
  d.setCat 7 { CatE.reset with used := true, size := 65536, granules := 1, blocks := 1, places := [(0, ⟨2, 16, 0⟩)] }
def blkAt (k : Blk) (d : Dev) : Dev := d.setBlk 2 16 k
def commBlk : Blk := { Blk.reset with st := .allocated, committed := true, entry := 7, wp := 4 }
def wornD : Dev := (blkAt commBlk (lostD granT1)).markWorn 2 16 true
/-- One channel in service, every block of it taken. -/
def fullBlks : Tbl Blk := (List.range 5472).map fun b => (b, commBlk)
def fullD : Dev := cel (fun c => { c with chmap := 1, blk := fullBlks, worn := [(16, true)] }) Dev.reset
theorem upFrom_succ (a n : Nat) : upFrom a (n + 1) = a :: upFrom (a + 1) n := by
  simp only [upFrom, List.range_succ_eq_map, List.map_cons, List.map_map, Nat.add_zero]
  congr 1
  refine List.map_congr_left fun x _ => ?_
  simp only [Function.comp]
  omega
/-- Among blocks that were never used the first stays the best. -/
theorem best_stays (d : Dev) (ch a : Nat) (l : List Nat) (h : ∀ b ∈ a :: l, d.blk ch b = Blk.reset) :
    l.foldl (fun best b => match best with
      | none => some b
      | some a => if blkKey (d.blk ch b) < blkKey (d.blk ch a) then some b else some a) (some a) = some a := by
  induction l with
  | nil => rfl
  | cons b l ih =>
    rw [List.foldl_cons]
    have e : ¬ blkKey (d.blk ch b) < blkKey (d.blk ch a) := by
      rw [h b (by simp), h a (by simp)]
      exact Nat.lt_irrefl _
    simp only [if_neg e]
    refine ih fun c hc => h c ?_
    rcases List.mem_cons.mp hc with rfl | hc
    · exact List.mem_cons_self ..
    · exact List.mem_cons_of_mem _ (List.mem_cons_of_mem _ hc)
theorem best_first (d : Dev) (ch n : Nat) (hn : n = 5460) (p : Nat → Bool) (h1 : p 11 = true) (h : ∀ b, p b = true → d.blk ch b = Blk.reset) :
    d.bestBlk ch p = some 11 := by
  have e : (upFrom 11 (n + 1)).filter p = 11 :: (upFrom 12 n).filter p := by rw [upFrom_succ, List.filter_cons_of_pos h1]
  rw [Dev.bestBlk, show 5461 = n + 1 by omega, e, List.foldl_cons]
  refine best_stays d ch 11 _ fun b hb => ?_
  rcases List.mem_cons.mp hb with rfl | hb
  · exact h _ h1
  · exact h _ (List.mem_filter.mp hb).2
theorem test_witness_Losses :
    ((lostD granT1).cat 7).used = true ∧ Tbl.get Place.none ((lostD granT1).cat 7).places 0 = ⟨2, 16, 0⟩ ∧
    ((lostD granT1).objsOver 7).find? (fun o => ((lostD granT1).gran o 0).t1.isSome || ((lostD granT1).gran o 0).t2.isSome) = some 1 ∧
    ((lostD Gran.reset).objsOver 7).find? (fun o => ((lostD Gran.reset).gran o 0).t1.isSome || ((lostD Gran.reset).gran o 0).t2.isSome) = none := by
  decide +kernel
theorem lost_blk (b : Nat) : (lostD granT1).blk 0 b = Blk.reset := rfl
theorem lost_chans : (lostD granT1).chans.filter (· ≠ 2) = [0] := by decide
theorem lost_best : (lostD granT1).freeBlk 0 3000 = some 11 :=
  best_first _ _ _ rfl _ (by decide) fun b _ => lost_blk b
theorem other_free (d : Dev) (ch c b : Nat) (hc : d.chans.filter (· ≠ ch) = [c]) (hb : d.freeBlk c 3000 = some b) :
    d.otherFree ch = some (c, b) := by
  simp only [Dev.otherFree, Dev.freeOn, hc, List.findSome?_cons, hb, Option.map_some, Option.some_or]
theorem test_witness_LossElsewhere : (lostD granT1).otherFree 2 = some (0, 11) := other_free _ 2 0 11 lost_chans lost_best
theorem test_witness_Relocation :
    (wornD.blk 2 16).st = .allocated ∧ (wornD.blk 2 16).committed = true ∧ dataBlk 16 = true ∧
    Tbl.get false wornD.cellar.worn (2 * 5472 + 16) = true ∧
    (fullD.blk 0 16).st = .allocated ∧ (fullD.blk 0 16).committed = true ∧ Tbl.get false fullD.cellar.worn (0 * 5472 + 16) = true := by
  decide +kernel
theorem test_witness_Place : wornD.relocTo 2 = some (2, 11) := by
  have b : wornD.freeBlk 2 3000 = some 11 := by
    refine best_first _ _ _ rfl _ (by decide) fun b hb => ?_
    have e : wornD.blk 2 b = if 2 * 5472 + b = 2 * 5472 + 16 then commBlk else Blk.reset := rfl
    by_cases h : 2 * 5472 + b = 2 * 5472 + 16
    · rw [e, if_pos h] at hb
      exact absurd hb (by decide)
    · rw [e, if_neg h]
  have r : wornD.cellar.retiring = 0xFF := rfl
  simp [Dev.relocTo, Dev.freeOn, r, b]
theorem test_witness_Evacuation : (cel (fun c => { c with retiring := 2 }) (lostD granT1)).relocTo 2 = some (0, 11) := by
  have b : (cel (fun c => { c with retiring := 2 }) (lostD granT1)).freeBlk 0 3000 = some 11 := best_first _ _ _ rfl _ (by decide) fun b _ => rfl
  rw [Dev.relocTo, if_pos (by rfl)]
  exact other_free _ 2 0 11 (by decide) b
theorem test_witness_NoPlace : fullD.relocTo 0 = none := by
  have c : fullD.chans = [0] := by
    show setBits (1 : BitVec 64).toNat 64 = [0]
    decide
  have f (lim : Nat) : ((upFrom 11 5461).filter fun b => (fullD.blk 0 b).st == .free && decide ((fullD.blk 0 b).erases ≤ lim)) = [] := by
    rw [List.filter_eq_nil_iff]
    intro b hb
    simp only [upFrom, List.mem_map, List.mem_range] at hb
    obtain ⟨i, hi, rfl⟩ := hb
    have : fullD.blk 0 (11 + i) = commBlk := by
      simp only [Dev.blk, fullD, cel, fullBlks]
      rw [show 0 * 5472 + (11 + i) = 11 + i by omega]
      exact get_range _ _ _ _ (by omega)
    simp [this, commBlk]
  have r : fullD.cellar.retiring = 0xFF := rfl
  have g (lim : Nat) : fullD.freeBlk 0 lim = none := by rw [Dev.freeBlk, Dev.bestBlk, f]; rfl
  rw [Dev.relocTo, if_neg (by rw [r]; decide), c]
  simp [Dev.freeOn, g]
theorem test_witness_Retirement :
    (let d := blkAt { Blk.reset with fails := 3 } Dev.reset
     3 ≤ (d.blk 2 16).fails ∧ d.sealsAt 2 16 = [] ∧ (d.blk 2 16).st ≠ .retired ∧ dataBlk 16 = true) ∧
    ((lostD Gran.reset).setObj 1 Obj.reset).mayDelete 7 = true ∧ Dev.reset.cellar.chmap.getLsbD 63 = true ∧
    (cel (fun c => { c with chmap := 3 }) Dev.reset).mayRetire 0 = true ∧
    (cel (fun c => { c with chmap := 3, retiring := 0 }) Dev.reset).allocBlks 0 = 0 := by decide +kernel

/-- The lock at a level with a first key or not; FLC_ADDR at block 16 of channel 2. -/
def lockD (k : Nat × Bool) (busy : Bool) (b : Blk) : Dev :=
  blkAt b (cel (fun c => { c with lock := k.1, half := k.2, busy := busy, addr := 0x04010000 }) Dev.reset)
theorem test_witness_Lock :
    (∀ k ∈ [(0, false), (0, true), (1, false), (1, true)], ((lockD k false Blk.reset).cellar.lock, (lockD k false Blk.reset).cellar.half) = k) ∧
    Dev.reset.confActive = false ∧
    (let d := { Dev.reset with hif := { Dev.reset.hif with devTime := 100000000 } }
     d.cellar.lastWrite.toNat + 100000000 ≤ d.now) ∧
    (lockD (2, false) true Blk.reset).cellar.busy = true ∧ (lockD (0, false) false Blk.reset).cellar.lock < 1 := by decide
theorem flc_ready (n : Nat) (b : Blk) : (lockD (n, false) false b).FlcReady n := by
  have e : (lockD (n, false) false b).cellar.addr = 0x04010000 := rfl
  have m : (lockD (n, false) false b).cellar.chmap = BitVec.allOnes 64 := rfl
  exact ⟨rfl, Nat.le_refl _, by rw [m, e]; decide, by rw [e]; decide, by rw [e]; decide, by rw [e]; decide⟩
theorem test_witness_FlashRegisters :
    (let d := lockD (1, false) false Blk.reset
     d.die d.faCh (d.faBlk % 8) = DieSt.reset ∧ d.flcQueue d.faCh = []) ∧
    (∀ op ∈ [FlcOp.readId, .readCal], (celQ [] (dieBusy { dop op 16 0 with reg := true })).die 2 0 = ⟨some { dop op 16 0 with reg := true }, none, 0⟩ ∧
      (celQ [] (dieBusy { dop op 16 0 with reg := true })).flcQueue 2 = []) ∧
    (let d := (lockD (1, false) false Blk.reset).setDie 2 0 (dieBusy (dop .erase 16 0))
     (d.blk d.faCh d.faBlk).st ≠ .retired ∧ (d.die d.faCh (d.faBlk % 8)).run.isSome = true) ∧
    (let d := (lockD (2, false) false Blk.reset).setFloor .t3 0 0
     d.cellar.lock = 2 ∧ (d.blk d.faCh d.faBlk).st = .free ∧ dataBlk d.faBlk = true ∧ d.claimRefused = false) ∧
    (let d := (lockD (2, false) false { Blk.reset with st := .test }).setDie 2 0 (dieBusy (dop .erase 16 0))
     (d.blk d.faCh d.faBlk).st = .test ∧ (d.die d.faCh (d.faBlk % 8)).run.isSome = true) := by decide +kernel
/-- Both pairs of keys open the lock, and a wrong key closes it (R238). -/
theorem test_unlock : (doFlcUnlock 0x5AA5 (doFlcUnlock 0xA55A Dev.reset)).cellar.lock = 1 ∧ (doFlcUnlock 1 (doFlcUnlock 0xA55A Dev.reset)).cellar.result = 2 := by
  decide

/-! Witnesses: the serving engine. -/

def hif (f : Hif → Hif) (d : Dev) : Dev := { d with hif := f d.hif }
def pwr (f : Pwr → Pwr) (d : Dev) : Dev := { d with pwr := f d.pwr }
/-- Every feature accepted. -/
def feats (d : Dev) : Dev := hif (fun h => { h with accepted := Config.factoryFeatures }) d
/-- A serving queue of partition 0 with 16 entries in each ring and one record. -/
def srvQ : QueueSt := { QueueSt.reset with en := true, sqBase := 0x2000, cqBase := 0x1000, cfg := 0x4040000000002, sqTail := 1 }
/-- Queue 0 is that queue, and its record has these words. -/
def recS (ws : List Nat) (d : Dev) : State :=
  { State.reset with dev := d.setQueue 0 srvQ, host := Memory.writeN [] 0x2000 (ws.flatMap (natLe 8)) }
/-- The record's 16 words. -/
def w16 (ws : List Nat) : List Nat := ws ++ List.replicate (16 - ws.length) 0
theorem ring_open (ws : List Nat) (d : Dev) (h : d.hif.backlog = []) : (recS ws d).RingOpen 0 := by
  have e : (recS ws d).dev.queue 0 = srvQ := by simp only [recS, Dev.queue, Dev.setQueue, Tbl.get_set_same]
  have b : (recS ws d).dev.hif.backlog = [] := by simpa only [recS, Dev.setQueue] using h
  refine ⟨?_, ?_, ?_, ?_, ?_⟩
  · rw [e]; rfl
  · rw [e]; rfl
  · rw [e]; decide
  · rw [e]; decide
  · simp [Dev.inBacklog, b]

def srvTypes : List Nat := [0x02, 0x03, 0x08, 0x09, 0x0A, 0x0B]
def holdD : Dev := pwr (fun p => { p with devHold := true }) Dev.reset
theorem test_witness_RecordsTurnedAway :
    (∀ ty ∈ srvTypes, (recS [0x7F] Dev.reset).recordAt 0 ty = some (w16 [0x7F]) ∧ rKnown (rType (w16 [0x7F])) = false) ∧
    (∀ ty ∈ srvTypes, (recS [ty] holdD).recordAt 0 ty = some (w16 [ty]) ∧ rKnown (rType (w16 [ty])) = true ∧
      (recS [ty] holdD).dev.recHeld (rPart (w16 [ty])) = true) ∧
    (∀ ty ∈ srvTypes, (recS [0x100 + ty] Dev.reset).recordAt 0 ty = some (w16 [0x100 + ty]) ∧
      (recS [0x100 + ty] Dev.reset).dev.recHeld (rPart (w16 [0x100 + ty])) = false ∧
      rPart (w16 [0x100 + ty]) ≠ ((recS [0x100 + ty] Dev.reset).dev.queue 0).part) ∧
    (∀ ty ∈ srvTypes, (recS [0x800 + ty] Dev.reset).recordAt 0 ty = some (w16 [0x800 + ty]) ∧
      rPart (w16 [0x800 + ty]) = ((recS [0x800 + ty] Dev.reset).dev.queue 0).part ∧ rStray (w16 [0x800 + ty]) = some 1) ∧
    ((recS [0x104] Dev.reset).recordAt 0 0x04 = some (w16 [0x104]) ∧ rType (w16 [0x104]) = 0x04 ∧
      rPart (w16 [0x104]) ≠ ((recS [0x104] Dev.reset).dev.queue 0).part ∧ (recS [0x104] Dev.reset).dev.recHeld (rPart (w16 [0x104])) = false) ∧
    (let s := recS [0x01] Dev.reset
     s.recordAt 0 0x01 = some (w16 [0x01]) ∧ rType (w16 [0x01]) = 0x01 ∧
       subChecks1 s.dev (subOf 0 (s.dev.queue 0).func.toNat (w16 [0x01])) (s.dev.queue 0).part (w16 [0x01]) = some (stNOTSUP, 0) ∧
       stNOTSUP ≠ stDONE) := by decide +kernel

/-- A plan header with flags: one stream, one E4M3 head of 64, a vocabulary of 16, 64 positions, one sequence, 1 ms; its NOP template. -/
def planHead (flags : Nat) : List Byte :=
  natLe 2 0xC1F5 ++ natLe 1 1 ++ natLe 1 flags ++ natLe 2 1 ++ natLe 1 1 ++ natLe 1 0x40 ++ natLe 4 16 ++ natLe 4 0 ++ natLe 4 64 ++ natLe 2 1 ++
  natLe 2 64 ++ natLe 8 0 ++ natLe 8 1000000 ++ List.replicate 40 0 ++ natLe 4 1 ++ natLe 4 128 ++ natLe 4 1 ++ List.replicate 32 0
def tmplBytes : List Byte := natLe 8 0x501 ++ List.replicate 88 0
def planBytes : List Byte := planHead 0 ++ natLe 4 (crc32c (planHead 0 ++ tmplBytes)) ++ tmplBytes
/-- A plan over those figures; its pool is object 3. -/
def planOf (st : PlanState) (flags : Nat) : Plan := { Plan.reset with st := st, hdr := planHead flags ++ natLe 4 0, pool := 3 }
/-- Object 1 LIVE, a map in object 2 for sequence 3 with one page in granule 0 of object 1, pool object 3, SEALED plan object 4. -/
def srvD (p : Plan) (q : Seq) : Dev :=
  (((tierD [(1, objG .live granT1), (2, objG .live granT1), (3, { Obj.reset with st := .live, size := 65536 }),
      (4, { objG .sealed granT1 with readOnly := true })]
    [(objKey 2 0, kvHeader 4 1 1 0 1 1 3 0), (objKey 2 4096, natLe 8 (pageEntry 1 false false 0 1 0 64)), (objKey 4 0, planBytes)]
    (feats Dev.reset)).setPlan 1 p).setPlan 0 { p with mbox := true }).setSeq 3 q
/-- A SUBMIT to plan 1 of one token at object 1, one token wanted, TOP_P 1.0. -/
def subW : List Nat := [0x01000001, 0x100000001, 0x10000000000, 0, 0, 0, 0, 0x3F80000000000000, 0]
def subS (st : PlanState) : State := recS subW (srvD (planOf st 0) Seq.reset)
def subX : Sub := subOf 0 0 (w16 subW)
def subAdmit (st : PlanState) : Nat ⊕ (SeqNo × Nat × Dev) :=
  let d0 := (subS st).dev.sqPass 0
  let n := d0.subPlan subX.plan
  let v := d0.subVine subX (d0.plan n) (d0.promptToks subX)
  v.2.admitSeq subX n (d0.promptToks subX) v.1
theorem test_witness_Submit (st : PlanState) (h : st = .active ∨ st = .draining) :
    (subS st).recordAt 0 0x01 = some (w16 subW) ∧ rType (w16 subW) = 0x01 ∧ (subS st).dev.recHeld subX.part = false ∧
    subChecks1 ((subS st).dev.sqPass 0) subX ((subS st).dev.queue 0).part (w16 subW) = none ∧ subX.promptLen ≠ 0 ∧ subX.maxNew ≠ 0 ∧
    subChecks2 ((subS st).dev.sqPass 0) subX (((subS st).dev.sqPass 0).plan 1) = none ∧
    ((subS st).dev.sqPass 0).admitWaits 1 subX.part = false ∧
    ((subS st).dev.sqPass 0).subPlan subX.plan = 1 ∧ (subAdmit st).isRight = decide (st = .active) := by
  rcases h with rfl | rfl <;> decide +kernel
/-- A recompute of partition 0 or of plan 1 waits for plan 1's step. -/
def waitS (f : Fall) : State := { subS .active with dev := { (subS .active).dev with srv := { (subS .active).dev.srv with recomp := [⟨f, [1]⟩] } } }
theorem test_witness_SubmitHeld : ∀ f ∈ [Fall.t1 0, .time 1 2 none],
    (waitS f).recordAt 0 0x01 = some (w16 subW) ∧ subChecks1 ((waitS f).dev.sqPass 0) subX ((waitS f).dev.queue 0).part (w16 subW) = none ∧
    subChecks2 ((waitS f).dev.sqPass 0) subX (((waitS f).dev.sqPass 0).plan 1) = none ∧
    ((waitS f).dev.sqPass 0).admitWaits 1 subX.part = true := by decide +kernel
/-- The mailbox with a record of these words in its IN ring. -/
def mbS (ws : List Nat) (drain : Bool) : State :=
  st (hif (fun h => { h with mboxReady := true, drain := drain, mboxIn := Memory.writeN [] 0 (ws.flatMap (natLe 4)), inTail := ws.length })
    (srvD (planOf .active 0) { Seq.reset with st := .decode, mbox := true, reqId := 9, plan := 2 }))
def promptAdmit : Nat ⊕ (SeqNo × Nat × Dev) :=
  let d := (mbS [0x01000001, 7, 1, 3] false).dev
  let x := d.promptSub
  let d0 := d.inPass 4
  let v := d0.subVine x (d0.plan 0) (d0.promptToks x)
  v.2.admitSeq x 0 (d0.promptToks x) v.1
theorem test_witness_Prompt :
    (∀ b, (mbS [0x01000001, 7, 1, 3] b).dev.mboxTakes = true ∧ (mbS [0x01000001, 7, 1, 3] b).dev.hif.inType = 1 ∧
      (mbS [0x01000001, 7, 1, 3] b).dev.hif.inCount = 1 ∧ (mbS [0x01000001, 7, 1, 3] b).dev.hif.inLen = 3 + 1 ∧
      (mbS [0x01000001, 7, 1, 3] b).dev.hif.drain = b ∧ (mbS [0x01000001, 7, 1, 3] b).dev.recHeld 0 = false ∧
      (mbS [0x01000001, 7, 1, 3] b).dev.hif.outFull = false ∧ (mbS [0x01000001, 7, 1, 3] b).dev.inBacklog none = false) ∧
    (let d := (mbS [0x01000001, 7, 1, 3] false).dev
     (d.plan 0).mbox = true ∧ d.defaultCat ≠ 0 ∧ (d.inPass 4).admitWaits 0 0 = false ∧ d.promptSub.maxNew ≠ 0 ∧ (d.inPass 4).subPlan d.promptSub.plan = 0 ∧
       subChecks2 (d.inPass 4) d.promptSub ((d.inPass 4).plan 0) = none ∧ promptAdmit.isRight = true) ∧
    (let d := (mbS [0x02000000, 9, 0] false).dev
     d.mboxTakes = true ∧ d.hif.inType = 2 ∧ 3 ≤ d.hif.inLen ∧ (d.seq 3).mbox = true ∧ (d.seq 3).reqId = BitVec.ofNat 32 (d.hif.inAt 1) ∧
       (d.seq 3).alive = true) ∧
    (let d := (mbS [0x03000000] false).dev
     d.mboxTakes = true ∧ d.hif.inLen ≠ 0 ∧ d.hif.inType = 3 ∧ d.hif.outFull = false ∧ d.inBacklog none = false) := by decide +kernel

/-- Sequence 3, generation 1, in a state; END_SEQ, PARK and RESUME of it. -/
def seqE (s : SeqState) : Seq := { Seq.reset with st := s, gen := 1, plan := 1, len := 64, promptLen := 64, kvObj := 2, pool := 3 }
def seqW (ty : Nat) : List Nat := [ty, 0x100000003]
def inStepP : Plan := { planOf .active 0 with running := true, batch := [3] }
def seqS (ty : Nat) (p : Plan) (q : Seq) : State := recS (seqW ty) (srvD p q)
/-- The record stands, no common check fails and its sequence is found. -/
def seqOk (s : State) (ty : Nat) : Bool :=
  let w := w16 (seqW ty)
  s.recordAt 0 ty == some w && rType w == ty && !s.dev.recHeld (rPart w) && rPart w == (s.dev.queue 0).part && rStray w == none &&
  s.dev.seqNamed w == none && rSeq w == 3
theorem test_witness_EndSeq :
    (∀ e ∈ [SeqState.ending, .decode, .prefill, .safeHold], seqOk (seqS 0x02 (planOf .active 0) (seqE e)) 0x02 = true ∧
      (seqS 0x02 (planOf .active 0) (seqE e)).dev.inStep 3 = false ∧ (seqS 0x02 (planOf .active 0) (seqE e)).dev.inRerun 3 = false ∧
      ((seqS 0x02 (planOf .active 0) (seqE e)).dev.seq 3).st = e) ∧
    seqOk (seqS 0x02 inStepP (seqE .decode)) 0x02 = true ∧ (seqS 0x02 inStepP (seqE .decode)).dev.inStep 3 = true := by decide +kernel
theorem test_witness_Park :
    seqOk (seqS 0x03 inStepP (seqE .decode)) 0x03 = true ∧ (seqE .decode).parkReq = none ∧ (seqS 0x03 inStepP (seqE .decode)).dev.inStep 3 = true ∧
    (let d := (seqS 0x03 (planOf .active 0) (seqE .decode)).dev
     seqOk (seqS 0x03 (planOf .active 0) (seqE .decode)) 0x03 = true ∧ (d.inStep 3 || d.inRerun 3) = false ∧
       d.neBytes 0 .t2 + granSize * ((d.heldPages (d.seq 3)).filter (d.pageMoves .t2)).length ≤ d.floor .t2 0 ∧
       ((d.heldPages (d.seq 3)).filter (d.pageMoves .t2)).length = 1) := by decide +kernel
theorem test_witness_Resume :
    (let s := seqS 0x04 (planOf .active 0) (seqE .parked)
     let d := s.dev
     seqOk s 0x04 = true ∧ (d.seq 3).st = .parked ∧ (d.seq 3).resuming = false ∧ d.admitWaits 1 0 = false ∧ qf (w16 (seqW 0x04)) 4 31 0 ≠ 0xFFFFFFFF ∧
       (d.sqPass 0).resumeNo (d.seq 3) ((d.sqPass 0).heldPages (d.seq 3)).length ((w16 (seqW 0x04)).getD 3 0) (qf (w16 (seqW 0x04)) 4 31 0) =
         none) := by decide +kernel
def decantS (dl : Nat) : State := st (srvD (planOf .active 0) { seqE .parked with resuming := true, parkReq := some (0, 9), firstDl := dl })
theorem test_witness_DecantDone : (∀ dl ∈ [0, 1999999, 2000000],
    let d := (decantS dl).dev
    let e := d.seq 3
    e.st = .parked ∧ e.resuming = true ∧ e.parkReq = some (0, 9) ∧ e.firstDl = dl ∧ (d.heldPages e).length = 1 ∧
      (∀ x ∈ d.heldPages e, (d.gran (peObj x.2.2) (peGran x.2.2)).damaged = false ∧
        (d.obj (peObj x.2.2)).home (d.gran (peObj x.2.2) (peGran x.2.2)) = .t1 ∧ d.moving (peObj x.2.2) (peGran x.2.2) = false) ∧
      (d.plan e.plan).dueAt ((d.plan e.plan).firstK (d.now + d.admitLead)) = 2000000) ∧
    (let d := hif (fun h => { h with devTime := 10000000000 }) (srvD (planOf .active 0) (seqE .safeHold))
     (d.seq 3).st = .safeHold ∧ (d.seq 3).heldAt + d.holdRetainMs * 1000000 ≤ d.now) := by decide +kernel

/-- A PLAN_LOAD of plan 2 from object 4 with pool 3; a PLAN_RETIRE of plan 1; an ADAPTER_LOAD of version 1 as ID 5; an ADAPTER_DROP. -/
def plW : List Nat := [0x02000008, 0x40000000000, 0x30000000000, 0xFF]
def prW : List Nat := [0x01000009, 0, 0, 0xFF]
def alW : List Nat := [0x0100000A, 0x40000000000, 0, 0x100000005]
def adW : List Nat := [0x0000000B, 0, 0, 5]
def recOk (s : State) (ty : Nat) (ws : List Nat) : Bool :=
  let w := w16 ws
  s.recordAt 0 ty == some w && rType w == ty && !s.dev.recHeld (rPart w) && rPart w == (s.dev.queue 0).part && rStray w == none
theorem test_witness_Plans :
    (let s := recS plW (srvD Plan.reset Seq.reset)
     recOk s 0x08 plW = true ∧ loadCheck s.dev (w16 plW) = none ∧ (match s.dev.readPlan (urObj ((w16 plW).getD 1 0)) with
       | some (h, ts) => (planFeatures h ts (bitN ((w16 plW).getD 3 0) 8)).all s.dev.feature
       | none => false) = true) ∧
    (let s := recS prW (srvD (planOf .active 0) (seqE .decode))
     recOk s 0x09 prW = true ∧ retireCheck s.dev (w16 prW) = none ∧ s.dev.planSeqs 1 ≠ []) ∧
    (let s := recS prW (srvD (planOf .active 0) Seq.reset)
     recOk s 0x09 prW = true ∧ retireCheck s.dev (w16 prW) = none ∧ s.dev.planSeqs 1 = [] ∧ (s.dev.plan 1).running = false ∧
       (s.dev.plan 1).rerun = [] ∧ s.dev.planAwaited 1 = false) := by decide +kernel
theorem test_witness_Adapters :
    (let s := recS alW (srvD (planOf .active 16) Seq.reset)
     recOk s 0x0A alW = true ∧ adLoadCheck s.dev (w16 alW) = none) ∧
    (let s := recS adW ((srvD Plan.reset Seq.reset).setAdVers 0 5 [⟨0, 1, 4, 0, 0, 1, (0, 9), true⟩])
     recOk s 0x0B adW = true ∧ s.dev.feature 12 = true ∧ (s.dev.adCurrent 0 (BitVec.ofNat 6 (qf (w16 adW) 3 5 0))).isSome = true) := by
  decide +kernel

def stepS : State := st (srvD (planOf .active 0) { seqE .prefill with len := 0, reserved := 1, prompt := List.replicate 64 0, pool := 1 })
theorem test_witness_StepStart :
    (let d := stepS.dev
     (d.plan 1).runs = true ∧ (d.plan 1).running = false ∧ d.held = false ∧ d.pwr.partHold.getLsbD (d.plan 1).part.toNat = false ∧
       d.heldBack 1 = false ∧ d.nextStep 1 = some ⟨[3], 0, 0, 1000000⟩) ∧
    (let s1 := ({ stepS with dev := stepS.dev.vineResizeAll } : State).prepareAll (stepS.dev.plan 1) [3]
     [3].filter (fun q => (s1.dev.seq q).active) = [3]) := by decide +kernel
def tickP : Plan := { planOf .active 0 with tick := true, edge := some 0, missRow := 7 }
def backE : BackEv := ⟨some 0, none, ⟨List.replicate 32 0, false⟩⟩
def backS (q : QueueSt) : State := st ((hif (fun h => { h with backlog := [backE] }) Dev.reset).setQueue 0 q)
theorem test_witness_Steps :
    (let d := srvD { planOf .active 0 with running := true } Seq.reset
     d.stepOver (d.plan 1) = true) ∧
    (let d := hif (fun h => { h with devTime := 1050001 }) (srvD tickP Seq.reset)
     (d.plan 1).tick = true ∧ (d.plan 1).runs = true ∧ (d.plan 1).lastE = 0 ∧ 0 + (d.plan 1).interval + d.tickTol < d.now ∧
       d.missLimit ≤ (d.plan 1).missRow + 1 ∧ (d.plan 1).tickLost = false) ∧
    (∀ h ∈ [0, 1], (backS { srvQ with cqHead := h }).dev.hif.backlog = [backE] ∧ backE.q = some 0 ∧
      ((backS { srvQ with cqHead := h }).dev.queue 0).en = true ∧ ((backS { srvQ with cqHead := h }).dev.queue 0).kind = 1 ∧
      ((backS { srvQ with cqHead := h }).dev.queue 0).full = decide (h = 1)) := by decide +kernel

/-! Witnesses: the host interface. -/

def lks (f : Links → Links) (d : Dev) : Dev := { d with links := f d.links }
/-- A lease of identity 7, period 250 ms, hold 30 s. -/
def leaseE (s : LeaseState) (due : Nat) : Lease :=
  { Lease.reset with st := s, ident := if s = .none then 0 else 7, due := due, regId := 7, periodMs := 250, holdS := 30 }
/-- Function `f` with a lease, at DEV_TIME 1,000, with a sequence of its own held in DECODE. -/
def leaseD (f : Func) (l : Lease) (s : SeqState) : Dev :=
  ((hif (fun h => { h with ready := true, devTime := 1000 }) Dev.reset).setLease f.val l).setSeq 3
    { Seq.reset with st := s, was := .decode, func := f.val }
theorem test_witness_Attach :
    (∀ l ∈ [leaseE .none 0, leaseE .live 1000, leaseE .live 999, leaseE .hold 2000],
      ((st (leaseD 0 l .held)).leasePast 0).dev.attachNo 0 false = none) ∧
    ((st (leaseD 0 { leaseE .none 0 with regId := 0 } .held)).leasePast 0).dev.attachNo 0 false = some 4 ∧
    ((st (leaseD 0 { leaseE .live 1000 with regId := 8 } .held)).leasePast 0).dev.attachNo 0 false = some 6 ∧
    ((st (leaseD 0 { leaseE .live 1000 with regId := 8 } .held)).leasePast 0).dev.attachNo 0 true = none ∧
    (let d := feats (leaseD 1 (leaseE .hold 2000) .held)
     let e := { d with sec := { d.sec with vf := [(1, some 0)] } }
     ((st e).leasePast 1).dev.attachNo 1 false = none ∧ (((st e).leasePast 1).dev.lease 1).st = .hold ∧
       (((st e).leasePast 1).dev.lease 1).ident = (((st e).leasePast 1).dev.lease 1).regId ∧
       (((st e).leasePast 1).dev.seq 3).st = .held ∧ (((st e).leasePast 1).dev.seq 3).mbox = false ∧
       (((st e).leasePast 1).dev.seq 3).func = 1 ∧ (((st e).leasePast 1).dev.seq 3).firstDue = 0) := by decide +kernel
theorem test_witness_Renew :
    (let d := leaseD 0 (leaseE .live 1000) .decode
     (d.lease 0).st = .live ∧ d.now ≤ (d.lease 0).due ∧ (d.lease 0).ident = (d.lease 0).regId) ∧
    (let d := leaseD 0 { leaseE .live 1000 with regId := 8 } .decode
     (d.lease 0).st = .live ∧ d.now ≤ (d.lease 0).due ∧ (d.lease 0).ident ≠ (d.lease 0).regId) ∧
    ((leaseD 0 (leaseE .none 0) .decode).lease 0).st = .none ∧ ((leaseD 0 (leaseE .hold 2000) .decode).lease 0).st = .hold := by decide
/-- A queue of the function with a command in READY. -/
def leftD (f : Func) (due : Nat) : Dev :=
  ((leaseD f (leaseE .live due) .decode).setQueue 2 { QueueSt.reset with func := BitVec.ofNat 4 f.val, en := true }).setTag 5
    { TagE.reset with st := .ready, iss := .queue 2 }
theorem test_witness_LeavesLive : (∀ f ∈ [(0 : Func), 1],
    ((leftD f 1000).lease f.val).st = .live ∧ (leftD f 1000).now ≤ ((leftD f 1000).lease f.val).due ∧
      ((leftD f 999).lease f.val).due < (leftD f 999).now ∧ ((leftD f 1000).queue 2).func.toNat = f.val ∧
      ((leftD f 1000).tagE 5).iss = .queue 2 ∧ ((leftD f 1000).queue 2).en = true ∧ ((leftD f 1000).tagE 5).st = .ready ∧
      ((leftD f 1000).seq 3).mbox = false ∧ ((leftD f 1000).seq 3).func = f.val ∧ ((leftD f 1000).seq 3).active = true) ∧
    (let d := leaseD 0 (leaseE .hold 1000) .held
     (d.lease 0).st = .hold ∧ (d.lease 0).due ≤ d.now ∧ (d.seq 3).st = .held ∧ (d.seq 3).mbox = false ∧ (d.seq 3).func = 0) := by decide

/-- Queue 2 of the PF with a lease, its configuration and its entries. -/
def quD (k : QueueSt) : Dev := (feats (leaseD 0 (leaseE .live 1000) .free)).setQueue 2 k
def qCfg (kind : W64) : QueueSt := { QueueSt.reset with cfg := 0x4040000000000 ||| (kind <<< 1), sqBase := 0x2000, cqBase := 0x1000 }
def cmdQ (en draining : Bool) : QueueSt := { qCfg 0 with en := en, draining := draining }
theorem test_witness_Queues :
    (quD (qCfg 0)).ownsQ 0 2 = true ∧ ((quD (qCfg 0)).queue 2).en = false ∧ (quD (qCfg 0)).enableErr 0 2 = 0 ∧
    (quD (qCfg 3)).enableErr 0 2 = 4 ∧ ((quD (cmdQ true false)).queue 2).en = true ∧ (quD (cmdQ true false)).owes 2 = false ∧
    ((quD (cmdQ true false)).setTag 5 { TagE.reset with st := .ready, iss := .queue 2 }).owes 2 = true ∧
    ((quD (cmdQ true true)).queue 2).draining = true ∧ ((quD (cmdQ true false)).queue 2).sqSize = 16 ∧
    ((quD (cmdQ true false)).queue 2).cqSize = 16 ∧ ((quD (cmdQ true false)).queue 2).kind = 0 ∧ ((quD (qCfg 1)).queue 2).kind = 1 ∧
    ((quD (cmdQ true false)).queue 2).fault = false ∧ ((quD (cmdQ true false)).queue 2).sqHead ≠ 1 ∧
    (((quD (cmdQ true false)).queue 2).sqHead + 1) % ((quD (cmdQ true false)).queue 2).sqSize = 1 := by decide
/-- A NOP at the queue's head, as the host wrote it. -/
def nopS : State := { st (own0 (quD (cmdQ true false))) with host := Memory.writeN [] 0x2000 (natLe 8 0x501) }
theorem test_witness_Fetch :
    (let x := Desc.ofBytes (nopS.sqEntryAt 2 0)
     x.op = 0x01 ∧ nopS.dev.acceptCheck x true (nopS.dev.queue 2).part = none ∧ nopS.dev.covered x = false ∧
       (opChip x.op = true ∨ nopS.dev.accepted x.core < 128)) := by decide +kernel
/-- An interrupt due on vector 0 of the PF, at the end of the hold-off time of 1 µs, with MSI-X enabled, masked or not. -/
def irqD (mask on : Bool) : Dev :=
  (hif (fun h => { h with msixEn := [(0, true)], msixMask := if mask then [(0, true)] else [], msixOn := if on then [(0, true)] else [] })
    (quD { qCfg 0 with cfg := 0x4040100000000, irqDue := true, irqLast := some 0 }))
theorem test_witness_Interrupt : (∀ m on,
    ((irqD m on).queue 2).irqDue = true ∧ ((irqD m on).queue 2).irqLast = some 0 ∧ (0 : W64).toNat + ((irqD m on).queue 2).holdNs ≤ (irqD m on).now ∧
      (irqD m on).msixEnabled 0 = true ∧ Tbl.get false (irqD m on).hif.msixMask 0 = m ∧
      Tbl.get false (irqD m on).hif.msixOn (msixKey 0 ((irqD m on).queue 2).vector) = on) := by decide

/-- A transfer of 64 bytes, or of 4,160, between object 1 and host address 0x8000, of a partition 0 that is confidential or not. -/
def xfE (toDev : Bool) (len : Nat) : Xfer := ⟨2, 9, 0, toDev, false, 0x8000, 0x10000000000, len, 0⟩
def xfS (toDev : Bool) (len : Nat) (conf : Bool) (bs : List Byte) : State :=
  let d := (tierD [(1, objG .live granT1)] [] (quD (cmdQ true false))).setPart 0 { Part.zeroPart with conf := conf }
  { st (hif (fun h => { h with xfers := [xfE toDev len] }) d) with host := Memory.writeN [] 0x9000 bs }
theorem test_witness_Transfers :
    (∀ n ∈ [64, 4160], (xfS true n false []).dev.xferOf 2 9 true = some (xfE true n) ∧
      ((xfS true n false []).dev.access [] [(0x10000000000 + 0, min 4096 n)]).1 = .ready ∧
      (xfS true n false []).h2dBytes (xfE true n) (min 4096 n) ≠ none ∧ ((xfS true n false []).dev.queue 2).fault = false ∧
      ((xfS true n false []).dev.part 0).conf = false) ∧
    (let s := xfS true 64 true [1]
     s.dev.xferOf 2 9 true = some (xfE true 64) ∧ s.h2dBytes (xfE true 64) 64 = none) ∧
    (∀ c, (xfS false 4160 c []).dev.xferOf 2 9 false = some (xfE false 4160) ∧
      ((xfS false 4160 c []).dev.access [(0x10000000000 + 0, 4096)] []).1 = .ready ∧ ((xfS false 4160 c []).dev.part 0).conf = c ∧
      (xfS false 4160 c []).dev.hif.xfers.find? (fun x => x.q == 2 && x.xid == 9) = some (xfE false 4160)) ∧
    (0 + min 4096 64 = 64) ∧ (0 + min 4096 4160 ≠ 4160) := by decide +kernel

theorem test_witness_DeviceTime :
    (hif (fun h => { h with ptmEn := true }) Dev.reset).hif.ptmEn = true ∧ Dev.reset.hif.ptmEn = false ∧
    Dev.reset.links.group ≠ .satellite ∧ Dev.reset.hif.aligned = false ∧ ((leaseD 0 (leaseE .live 1000) .free).lease 0).st = .live ∧
    ((Dev.reset.setPlan 1 (planOf .active 0)).plan 1).st = .active ∧ (hif (fun h => { h with aligned := true }) Dev.reset).hif.aligned = true ∧
    (let d := hif (fun h => { h with ptmLock := true, devTime := 10000000 }) Dev.reset
     d.hif.ptmLock = true ∧ d.hif.ptmLast.toNat + 10 * d.hif.ptmPeriod.toNat * 1000 ≤ d.now) ∧
    (∀ b, (lks (fun l => { l with group := .satellite, fresh := b }) Dev.reset).links.group = .satellite ∧
      (lks (fun l => { l with group := .satellite, fresh := b }) Dev.reset).links.fresh = b) ∧
    (-2147483648 ≤ ((2147483647 : Nat) : Int) - Dev.reset.now ∧ ((2147483647 : Nat) : Int) - Dev.reset.now ≤ 2147483647) := by decide
theorem test_witness_RegisterWrites :
    Tbl.get false Dev.reset.hif.d3 0 = false ∧ mboxAt 0x62 = none ∧ 0x62 % AccSize.bytes .dword ≠ 0 ∧ AccSize.bytes (.other 2) ≠ 4 ∧ AccSize.bytes (.other 2) ≠ 8 ∧
    Tbl.get false (hif (fun h => { h with d3 := [(1, true)] }) Dev.reset).hif.d3 1 = true ∧ Dev.reset.links.group ≠ .satellite ∧
    Dev.reset.pwr.st ≠ .nap ∧ secOp 0x102 = 2 ∧
    mboxAt 0x5FFFFF = some (true, 0xFFFFF) ∧ mboxAt 0x400000 = some (false, 0) ∧ 0xFFFFF + AccSize.bytes (.other 1) ≤ 0x100000 := by decide
/-- A write of three bytes into the IN ring stores them (R366). -/
theorem test_ring_write : (match execRegisterWrite 0 (.bar 0x400005) (.other 3) 0x030201 (st Dev.reset) with
    | .next u => u.dev.hif.mboxIn
    | _ => []) = [(5, 1), (6, 2), (7, 3)] := by decide
/-- A 32-bit write of FLC_UNLOCK through BAR0 writes the key (R364, R388). -/
theorem test_register_write : (match execRegisterWrite 0 (.bar 0x40000) .dword 0xA55A (st Dev.reset) with
    | .next u => u.dev.cellar.half
    | _ => false) = true := by decide

/-! Witnesses: link transfers and ports. -/

def routed (d : Dev) : Dev := lks (fun l => { l with route := [(1, ⟨1, true, 1, 1⟩)], port := [(0, { Port.reset with st := .up, active := 0xF })] }) d
/-- A LINK_PUT of 64 bytes of object 1 to object 2 of member 1, plain, or coded by slot 0. -/
def lpX (codec : W64) : Desc := words 0x550 0x10000000000 0x20000000000 64 (0x400000000 + (codec <<< 20)) 0 0 0
def lpD (codec : W64) : Dev := tierD [(1, objG .live granT1), (2, objG .live granT1)] [] (runsD (lpX codec))
def srcX (opened busy : Bool) : SrcXfer := ⟨5, 0, 0, 1, opened, busy, 0, 1, 72⟩
def lpS (opened busy : Bool) : Dev := lks (fun l => { l with src := [srcX opened busy] }) (routed (lpD 0))
theorem test_witness_PutSource :
    (∀ c : W64, c = 0 ∨ c = 1 → (routed (lpD c)).runs 5 0x50 = true ∧ (routed (lpD c)).links.src.any (·.t == 5) = false ∧
      (∀ e ∈ (routed (lpD c)).links.xid, e.2 + 1 < 2 ^ 52) ∧ ((routed (lpD c)).routeTo (lkMember (lpX c))).valid = true ∧
      (routed (lpD c)).codecOk 0 (lkCodec (lpX c)) (lkSlot (lpX c)) (lkSlotVer (lpX c)) = decide (c = 0) ∧
      ((lpD c).routeTo (lkMember (lpX c))).valid = false) ∧
    (lpS false true).links.src.find? (·.t == 5) = some (srcX false true) ∧ (srcX false true).busy = true := by
  refine ⟨?_, by decide, by decide⟩
  rintro c (rfl | rfl) <;> decide
theorem test_witness_PutAnswers :
    (∀ c ∈ [(0 : Byte), 1, 2, 3, 4, 5], let k := pkt 0x02 false [c, 7, 0, 0, 0]
      k.typ = 0x02 ∧ (lpS false false).mine k = true ∧ (lpS false false).openBody k = some [c, 7, 0, 0, 0] ∧
        (lpS false false).answered k = some (srcX false false) ∧ (srcX false false).opened = false ∧ (lpS false false).runs 5 0x50 = true) ∧
    (∀ c ∈ [(0 : Byte), stUNCORR, 0x0D, 0x7F, 0x90], let k := pkt 0x04 false [c]
      (lpS true false).mine k = true ∧ (lpS true false).openBody k = some [c] ∧ (lpS true false).answered k = some (srcX true false) ∧
        (lpS true false).runs 5 0x50 = true ∧ stSuccess (doneStatus c) = decide (c = 0)) := by decide

/-- A transfer of 64 bytes in one block, or 8,192 in two, open into object 2. -/
def dstX (len blocks : Nat) : DstXfer :=
  ⟨1, 0, 0, 0, 0x20000000000, len, false, 0, 0, 0, 0, some 3, blocks, []⟩
def dstD (len blocks : Nat) (k : Pkt) : Dev :=
  lks (fun l => { l with dst := [dstX len blocks], port := [(0, { Port.reset with st := .up, inq := [k] })] })
    (tierD [(2, objG .live granT1)] [] Dev.reset)
/-- A PLAIN block of `n` bytes: its header, then its bytes. -/
def plainB (n : Nat) : List Byte := codecHdr 0 n n 0 modePLAIN ++ List.replicate n 7
def dataK (n : Nat) : Pkt := pkt 0x03 false (plainB n)
theorem test_witness_PutDestination :
    (let k := pkt 0x01 false (natLe 8 0x20000000000 ++ natLe 8 64 ++ natLe 8 0 ++ natLe 8 0 ++ natLe 4 1)
     let d := tierD [(2, objG .live granT1)] [] Dev.reset
     d.mine k = true ∧ (d.openBody k).isSome = true ∧ d.openDst k = none ∧
       ((d.processed k).seeXid k).openCheck k (openAsk k k.body) = 0 ∧ ((Dev.reset.processed k).seeXid k).openCheck k (openAsk k k.body) = 1) ∧
    (∀ n ∈ [1, 2], let d := dstD 64 n (dataK 64)
      (dataK 64).typ = 0x03 ∧ d.mine (dataK 64) = true ∧ (d.port 0).inq.contains (dataK 64) = true ∧ d.openDst (dataK 64) = some (dstX 64 n) ∧
        (d.accessGrans [] [(2, 0)]).1 = .ready ∧ gransOf 0 64 = [0] ∧ d.openBody (dataK 64) = some (plainB 64) ∧
        ((d.processed (dataK 64)).seeXid (dataK 64)).decodeBlock (dstX 64 n) 0 (plainB 64) = some (List.replicate 64 7)) ∧
    (let d := lks (fun l => { l with dst := [] }) (dstD 64 1 (dataK 64))
     (d.port 0).inq.contains (dataK 64) = true ∧ d.openDst (dataK 64) = none ∧ d.openBody (dataK 64) = some (plainB 64)) ∧
    (let k := pkt 0x05 false []
     (dstD 64 1 k).mine k = true ∧ (dstD 64 1 k).openBody k = some [] ∧ (dstD 64 1 k).openDst k = some (dstX 64 1)) ∧
    (∀ ty ∈ [(0x06 : Byte), 0x12], let k := pkt ty false [0]
      (dstD 64 1 k).mine k = true ∧ (dstD 64 1 k).openBody k = some [0] ∧ (dstD 64 1 k).portOf k = 0 ∧
        ((dstD 64 1 k).port 0).inq.contains k = true) ∧
    (∀ ty ∈ [(0x01 : Byte), 0x02, 0x04, 0x05, 0x06, 0x10, 0x11, 0x12, 0x20, 0x30, 0x31, 0x32, 0x40], let k := pkt ty true (List.replicate 16 0)
      Dev.reset.mine k = true ∧ Dev.reset.openBody k = none) := by decide +kernel
/-- A LINK_WAIT for a count of 2 on counter 3 within 1 µs. -/
def lwD (n : Nat) : Dev := hif (fun h => { h with devTime := 1000 }) ((runsD (words 0x551 0x200000003 0x100000000 0 0 0 0 0)).setNctr 0 3 n)
theorem test_witness_LinkWait :
    (∀ n ∈ [1, 2], (lwD n).runs 5 0x51 = true ∧ (lwD n).nctr 0 (lwNctr ((lwD n).tagE 5).desc) = n ∧ lwTarget ((lwD n).tagE 5).desc = 2) ∧
    lwTimeout ((lwD 1).tagE 5).desc ≠ 0 ∧ ((lwD 1).tagE 5).started.toNat + lwTimeout ((lwD 1).tagE 5).desc * 1000 ≤ (lwD 1).now := by decide

/-- Port 2 in a state. -/
def ptD (q : Port) : Dev := Dev.reset.setPort 2 q
def upP : Port := { Port.reset with st := .up, active := 0xF, credit := [(0, 8)] }
theorem test_witness_PortsTrain :
    ((ptD Port.reset).port 2).st = .detect ∧ ((ptD Port.reset).port 2).retired ≠ 0xF ∧
    ((ptD { Port.reset with st := .train }).port 2).st = .train ∧ ((ptD upP).port 2).st = .up ∧ (ptD { upP with trains := [0] }).recentTrains 2 < 2 ∧
    2 ≤ (ptD { upP with trains := [0, 0] }).recentTrains 2 ∧
    (let d := ptD { upP with owed := [(1, 3)] }
     Tbl.get 0 (d.port 2).owed 1 ≠ 0 ∧ (∀ w, w < 1 → Tbl.get 0 (d.port 2).owed w = 0)) := by decide
/-- A flit that follows the last one accepted and holds the first bytes of a packet; `w` of its symbols come in wrong. -/
def flitE (k : Pkt) (w : List (BitVec 9 × Byte)) : RxFlit := ⟨flitBytes (flitHdr 1 0 3 0 0) (pktBytes k), w⟩
theorem flitE_bytes (k : Pkt) (w : List (BitVec 9 × Byte)) (h : w.length ≤ 8) :
    (flitE k w).bytes = flitBytes (flitHdr 1 0 3 0 0) (pktBytes k) := by
  rw [RxFlit.bytes_of_few _ h, flitE]
  have l := flitBytes_length (flitHdr 1 0 3 0 0) (pktBytes k)
  refine List.ext_getElem (by simp [l]) fun i h1 h2 => ?_
  simp [sized, List.getD_eq_getElem?_getD, List.getElem?_eq_getElem h2]
theorem flitE_ok (k : Pkt) (w : List (BitVec 9 × Byte)) (h : w.length ≤ 8) : (flitE k w).crcOk = true ∧ (flitE k w).ft = 1 ∧ (flitE k w).fseq = 0 := by
  have b := flitE_bytes k w h
  refine ⟨by rw [RxFlit.crcOk, b, flitBytes_ok], ?_, ?_⟩
  · rw [RxFlit.ft, RxFlit.hdr, b, flitBytes_hdr]; rfl
  · rw [RxFlit.fseq, RxFlit.hdr, b, flitBytes_hdr]; rfl
theorem flitE_payload (k : Pkt) (w : List (BitVec 9 × Byte)) (h : w.length ≤ 8) : (flitE k w).payload = sized 248 (pktBytes k) := by
  rw [RxFlit.payload, flitE_bytes k w h, flitBytes]
  simp
/-- A flit of zeros, whose CRC field is not its CRC. -/
def flitZ : RxFlit := ⟨List.replicate 256 0, []⟩
theorem flitZ_bad : flitZ.crcOk = false := by
  rw [RxFlit.crcOk, RxFlit.bytes_of_few _ (by decide)]
  decide +kernel
def oneK : Pkt := pkt 0x04 false [0]
def twoK : Pkt := pkt 0x04 false (List.replicate 233 0)
def txF (r : Nat) : TxFlit := ⟨5, r, none, flitHdr 1 5 0 0 0, List.replicate 248 0⟩
theorem test_witness_FlitsArrive :
    ((ptD upP).port 2).st = .up ∧ flitZ.crcOk = false ∧
    (∀ k, (flitE k []).crcOk = true ∧ (flitE k []).ft = 1 ∧ (flitE k []).fseq = ((ptD upP).port 2).rxSeq + 1 ∧
      (flitE k []).fseq ≠ ((ptD { upP with rxSeq := 7 }).port 2).rxSeq + 1) ∧
    (∀ k ∈ [oneK, twoK], rxNext ((ptD upP).port 2).rx (flitE k []).payload = (sized 248 (pktBytes k), if k = oneK then 0 else 1)) ∧
    (ptD upP).mine (pktOf (sized 248 (pktBytes oneK))) = true ∧
    (let fl := flitE oneK [(0, 0xFF), (271, 1)]
     fl.flit.length = 256 ∧ fl.bad.length ≤ 8) ∧
    (∀ k ∈ [oneK, pkt 0x04 true (List.replicate 16 0)], if k.hdr.enc then 16 ≤ k.body.length ∧ k.body.length ≤ 4120 else k.body.length ≤ 4104) := by
  refine ⟨by decide, flitZ_bad, fun k => ?_, ?_, by decide +kernel, ⟨flitBytes_length .., Nat.le_trans (RxFlit.bad_length_le _) (by decide)⟩, by decide⟩
  · have h := flitE_ok k [] (by decide)
    exact ⟨h.1, h.2.1, by rw [h.2.2]; decide, by rw [h.2.2]; decide⟩
  · intro k h
    rw [flitE_payload k [] (by decide)]
    simp only [List.mem_cons, List.not_mem_nil, or_false] at h
    rcases h with rfl | rfl <;> decide +kernel
theorem test_witness_LinkRetry :
    afterFseq 4 ((ptD upP).port 2).retry = [] ∧
    (let d := ptD { upP with retry := [txF 3] }
     afterFseq 4 (d.port 2).retry = [txF 3] ∧ (∀ f ∈ afterFseq 4 (d.port 2).retry, f.replays + 1 ≤ d.links.replayLimit)) ∧
    (let d := ptD { upP with retry := [txF 4] }
     afterFseq 4 (d.port 2).retry = [txF 4] ∧ d.links.replayLimit < (txF 4).replays + 1) := by decide +kernel
theorem test_witness_LaneRetunes :
    (let d := ptD { upP with fixed := [(1, 1000001)] }
     (d.port 2).mayRetune 1 = true ∧ d.links.retuneAt < Tbl.get 0 (d.port 2).fixed 1) ∧
    ((ptD { upP with active := 0xD, left := 2 }).port 2).mayRejoin 1 = true ∧
    (let q := (ptD { upP with retuning := some 1, retuneMine := true }).port 2
     q.st = .up ∧ q.retuning = some 1 ∧ q.retuneMine = true ∧ q.active.getLsbD 1 = true) ∧
    (let q := (ptD { upP with retuning := some 1, agreed := true, switchPt := 1 }).port 2
     q.st = .up ∧ q.retuning = some 1 ∧ q.retuneMine = false ∧ q.agreed = true ∧ q.rejoinPt = none ∧ q.active.getLsbD 1 = true ∧
       (0 : BitVec 10) = q.rxSeq + 1 ∧ q.switchPt = 0 + 1) ∧
    (let q := (ptD { upP with active := 0xD, retuning := some 1, rejoin := true, fails := [(1, 2)] }).port 2
     q.st = .up ∧ q.retuning = some 1 ∧ q.active.getLsbD 1 = false ∧ q.rejoin = true ∧ q.retuneMine = false ∧ 3 ≤ Tbl.get 0 q.fails 1 + 1) := by decide
/-- Byte 5 of a block on three lanes goes on the third (R324). -/
theorem test_stripe : striped 3 [10, 11, 12, 13, 14, 15, 16] = [[10, 13, 16], [11, 14], [12, 15]] := by decide
/-- Control leaves before data that waits longer; data that lacks credits does not hold up control, nor management data (R330, R331). -/
theorem test_vc_order :
    (let q := { upP with credit := [(0, 8), (1, 8), (2, 8)], out := [(pkt 0x20 false [], none), (pkt 0x03 false [], none), (pkt 0x04 false [], none)] }
     q.nextOut = some (pkt 0x04 false [], none)) ∧
    (let q := { upP with credit := [(2, 8)], out := [(pkt 0x20 false [], none), (pkt 0x03 false [], none)] }
     q.nextOut = some (pkt 0x20 false [], none)) := by decide

/-! Witnesses: the group and events. -/

/-- A satellite, member 1 of two; the head of two members, the second present with its last beat at 0, at a DEV_TIME. -/
def satD : Dev := lks (fun l => { l with group := .satellite, member := 1, size := 2, members := [(0, ⟨true, [], 0, 0⟩), (1, ⟨true, ser, 0, 0⟩)] }) Dev.reset
def headD (g : GroupState) (there : Bool) (t : W64) : Dev :=
  hif (fun h => { h with devTime := t })
    (lks (fun l => { l with group := g, size := 2, members := [(0, ⟨true, [], 0, 0⟩), (1, ⟨there, ser, 0, 0⟩)] }) Dev.reset)
/-- A packet from the head to member 1, or from member 1 to the head. -/
def fromHead (typ : Byte) (body : List Byte) : Pkt := ⟨⟨0, false, 0, 0, 1, false, 0⟩, typ, 0, body⟩
def fromSat (typ : Byte) (xid : BitVec 16) (body : List Byte) : Pkt := ⟨⟨0, false, 0, 1, 0, false, xid⟩, typ, 0, body⟩
def rcmdK (x : Desc) : Pkt := fromHead 0x10 (x.bytes ++ natLe 8 9)
/-- A NOP with tag 4,095 for core 0, and one of an opcode that does not exist. -/
def farNop (op : Nat) : Desc := words (BitVec.ofNat 64 (op + 4095 * 2 ^ 8)) 0 0 0 0 0 0 0
def fwdD : Dev := lks (fun l => { l with fwd := [⟨1, 7, 5⟩] }) (headD .grouped true 0)
/-- A dictionary READ of 0x1000:1 bridged for the function PF. -/
def readBody : List Byte := [0, 1, 1] ++ natLe 2 0x1000 ++ [1, 0, 0]
theorem test_witness_MembersSpeak :
    (let x := Desc.ofBytes (rcmdK (farNop 0x01)).body
     let d := own0 satD
     d.mine (rcmdK (farNop 0x01)) = true ∧ d.openBody (rcmdK (farNop 0x01)) = some (rcmdK (farNop 0x01)).body ∧ d.links.group = .satellite ∧
       (0 : BitVec 16) = (d.part 0).epoch ∧ x.tag = 4095 ∧
       ((d.processed (rcmdK (farNop 0x01))).seeXid (rcmdK (farNop 0x01))).acceptCheck x false 0 = none ∧
       ((d.processed (rcmdK (farNop 0x01))).seeXid (rcmdK (farNop 0x01))).covered x = false ∧
       ((d.processed (rcmdK (farNop 0x7F))).seeXid (rcmdK (farNop 0x7F))).acceptCheck (Desc.ofBytes (rcmdK (farNop 0x7F)).body) false 0 =
         some (stNOTSUP, 0x0001)) ∧
    (let k := fromSat 0x11 7 (natLe 8 (5 * 2 ^ 8))
     fwdD.mine k = true ∧ fwdD.openBody k = some (natLe 8 (5 * 2 ^ 8)) ∧
       ∃ f ∈ fwdD.links.fwd, f.member = k.hdr.src ∧ f.tag = BitVec.ofNat 12 (fld (leNat ((natLe 8 (5 * 2 ^ 8)).take 8)) 19 8) ∧ f.xid = k.hdr.xid) ∧
    (let k := fromHead 0x20 readBody
     satD.mine k = true ∧ satD.openBody k = some readBody ∧ satD.links.group = .satellite ∧
       opOf (leNat ((readBody.drop 1).take 1)) (readBody.drop 8) = some .read) ∧
    (let d := lks (fun l => { l with bridged := [⟨1, 7, .pf⟩] }) (headD .grouped true 0)
     let k := fromSat 0x20 7 readBody
     d.mine k = true ∧ d.openBody k = some readBody ∧ d.links.group ≠ .satellite ∧
       d.links.bridged.find? (fun x => x.member == k.hdr.src && x.xid == k.hdr.xid) = some ⟨1, 7, .pf⟩) ∧
    (let k := fromHead 0x31 (timeBody 2 100 10)
     satD.mine k = true ∧ satD.openBody k = some (timeBody 2 100 10) ∧ k.hdr.src = 0 ∧ leNat ((timeBody 2 100 10).take 1) = 2 ∧
       leNat (((timeBody 2 100 10).drop 1).take 8) = 100 ∧ leNat (((timeBody 2 100 10).drop 9).take 8) = 10) ∧
    (let k := fromSat 0x30 7 (natLe 8 0)
     let d := headD .grouped true 5
     d.mine k = true ∧ d.openBody k = some (natLe 8 0) ∧ (d.memberOf k.hdr.src.toNat).present = true) ∧
    (let k := fromSat 0x40 7 []
     (headD .grouped true 5).mine k = true ∧ (headD .grouped true 5).openBody k = some [] ∧ isHead (headD .grouped true 5).links.group = true ∧
      ((headD .grouped true 5).memberOf k.hdr.src.toNat).present = true ∧ ((headD .grouped true 5).memberOf 1).level < (4 : BitVec 3).toNat) ∧
    ((headD .grouped true 5).beatTo = [1] ∧ satD.beatTo = [0] ∧ (∀ e ∈ (headD .grouped true 5).links.xid, e.2 + 1 < 2 ^ 52) ∧
      (headD .grouped true 5).links.group ≠ .satellite) := by decide +kernel

theorem test_witness_TimeExchange :
    (let k := fromHead 0x31 (timeBody 0 100 0)
     satD.mine k = true ∧ satD.openBody k = some (timeBody 0 100 0) ∧ k.hdr.src = 0 ∧ leNat ((timeBody 0 100 0).take 1) = 0) ∧
    (let k := fromSat 0x31 7 (timeBody 1 100 0)
     (headD .grouped true 5).mine k = true ∧ (headD .grouped true 5).openBody k = some (timeBody 1 100 0) ∧
       (headD .grouped true 5).links.group = .grouped ∧ leNat ((timeBody 1 100 0).take 1) = 1) := by decide +kernel

/-- A serial that is not this device's. -/
def otherSerial : List Byte := (Config.serialNumber.extractLsb' 0 8 + 1) :: List.replicate 11 0x42
theorem other_ne : (otherSerial == ownSerial) = false := by
  have h : otherSerial.head? ≠ ownSerial.head? := by
    simp only [otherSerial, ownSerial, Config.serial, List.range, List.range.loop, List.map, List.head?]
    intro e
    have e := Option.some.inj e
    exact absurd (congrArg BitVec.toNat e) (by
      have hl := (Config.serialNumber.extractLsb' 0 8).isLt
      rw [BitVec.toNat_add]
      simp
      omega)
  cases e : (otherSerial == ownSerial) with
  | false => rfl
  | true => exact absurd (congrArg List.head? (eq_of_beq e)) h
/-- Two members joined by one port. -/
theorem topo_pair (a : Adj) (h00 : a 0 0 = 0) (h01 : a 0 1 = 1) (h10 : a 1 0 = 1) (h11 : a 1 1 = 0) : topologyOf a 2 = some (1, .direct) := by
  simp [topologyOf, Adj.uniform, List.range, List.range.loop, h00, h01, h10, h11]
/-- The port 0 of a head whose formation runs leads to the other device. -/
def formD (run : BitVec 16) : Dev :=
  lks (fun l => { l with cmd := run, group := .forming, port := [(0, { Port.reset with st := .up, partner := otherSerial })] }) Dev.reset
def foundF (free ver : Bool) : Found := ⟨otherSerial, [(0, 1)], free, ver⟩
def grown (free ver : Bool) : Dev :=
  let d := (formD 1).groupRuns 1
  (d.setMember 0 ⟨true, ownSerial, d.now, 0⟩).enterMembers [(1, foundF free ver)]
theorem ports_pair (o : List Byte) : (formD 1).portsTo o = if otherSerial == o then 1 else 0 := by
  by_cases h : otherSerial = o <;> simp [Dev.portsTo, Dev.port, formD, lks, List.range, List.range.loop, Tbl.get, Port.reset, h]
theorem grown_adj (free ver : Bool) :
    (grown free ver).adj 0 0 = 0 ∧ (grown free ver).adj 0 1 = 1 ∧ (grown free ver).adj 1 0 = 1 ∧ (grown free ver).adj 1 1 = 0 := by
  have a : ∀ o, (grown free ver).portsTo o = if otherSerial == o then 1 else 0 := ports_pair
  have m0 : ((grown free ver).memberOf 0).serial = ownSerial := rfl
  have m1 : ((grown free ver).memberOf 1).serial = otherSerial := rfl
  refine ⟨?_, ?_, ?_, ?_⟩
  · unfold Dev.adj; rewrite [m0, a, other_ne]; rfl
  · unfold Dev.adj; rewrite [m1, a, beq_self_eq_true]; rfl
  · rfl
  · rfl
theorem grown_mutual (free ver : Bool) : (grown free ver).adjMutual = true := by
  have h := grown_adj free ver
  have n : (grown free ver).memberNos = [0, 1] := rfl
  simp [Dev.adjMutual, n, h]

/-- A lost satellite, a head that lost one, and a plan over two members. -/
def quietD (t : W64) : Dev := headD .grouped true t
def groupOf (there : Bool) (run : BitVec 16) : Dev := lks (fun l => { l with cmd := run }) (headD .grouped there 0)
def planHere (d : Dev) : Dev := d.setPlan 1 { Plan.reset with st := .active, hdr := (planHead 0).set 80 2 }
def soloD : Dev := hif (fun h => { h with accepted := 1 }) Dev.reset
theorem test_witness_GroupsForm :
    (let d := (lks (fun l => { l with list := [0] }) (formD 1)).groupRuns 1
     d.links.cmd = 1 ∧ d.links.group = .forming ∧ d.links.ordered [foundF true true] = none) ∧
    (∀ a b, ((formD 1).groupRuns 1).links.cmd = 1 ∧ ((formD 1).groupRuns 1).links.group = .forming ∧
      ((formD 1).groupRuns 1).links.ordered [foundF a b] = some [(1, foundF a b)] ∧ (grown a b).adjMutual = true ∧
      topologyOf (grown a b).adj 2 = some (1, .direct)) ∧
    (let d := (lks (fun l => { l with cmd := 1, group := .forming }) Dev.reset).groupRuns 1
     d.links.ordered [foundF true true] = some [(1, foundF true true)] ∧
       topologyOf ((d.setMember 0 ⟨true, ownSerial, d.now, 0⟩).enterMembers [(1, foundF true true)]).adj 2 = none) ∧
    ([(1, foundF false true)].findSome? fun f => joinNo f.2) = some 2 ∧ ([(1, foundF true false)].findSome? fun f => joinNo f.2) = some 3 ∧
    ([(1, foundF true true)].findSome? fun f => joinNo f.2) = none := by
  refine ⟨by decide, fun a b => ⟨rfl, rfl, rfl, grown_mutual a b, ?_⟩, ⟨rfl, ?_⟩, rfl, rfl, rfl⟩
  · have h := grown_adj a b
    exact topo_pair _ h.1 h.2.1 h.2.2.1 h.2.2.2
  · decide
theorem test_witness_GroupsChangeAndEnd :
    ((groupOf true 2).groupRuns 2).links.cmd = 2 ∧ ((headD .grouped true 0).groupRuns 2).links.cmd = 0 ∧
    (let d := (groupOf true 0x105).groupRuns (0x100 + (5 : MemberNo).toNat)
     d.links.cmd.toNat = 0x105 ∧ d.links.group = .grouped ∧ d.addNo 5 ser = some 2) ∧
    joinNo (foundF false true) = some 2 ∧ joinNo (foundF true false) = some 3 ∧ joinNo (foundF true true) = none ∧
    (∀ there, let d := (groupOf there 0x201).groupRuns (0x200 + (1 : MemberNo).toNat)
      d.links.cmd.toNat = 0x201 ∧ d.memberNos.contains 1 = true ∧ (d.srv.plan.any fun p => p.2.names 1) = false ∧
        ((d.memberOf 1).present = false ∨ d.adj.connected (d.presentNos.filter (· ≠ 1)) = true)) ∧
    soloD.mayJoin 0x0001 = true ∧ (let k := fromHead 0x40 [0]; satD.mine k = true ∧ satD.openBody k = some [0]) ∧ satD.links.group = .satellite ∧ (([(1, 0x8101), (2, 0)] : List (MemberNo × BitVec 32)).map (·.1)).Nodup ∧
    ((quietD 9999999).isLost 1 = true ∧ (quietD 10000000).isLost 1 = true ∧ (headD .degraded true 10000000).isLost 1 = true) ∧
    (let d := hif (fun h => { h with devTime := 10000000 }) satD
     d.links.group = .satellite ∧ (d.memberOf 0).beat + d.links.lossMs * 1000000 ≤ d.now) := by decide +kernel
theorem test_witness_RemovalRefused :
    (let d := (planHere (groupOf true 0x201)).groupRuns (0x200 + (1 : MemberNo).toNat)
     d.links.cmd.toNat = 0x201 ∧ d.memberNos.contains 1 = true ∧ (d.srv.plan.any fun p => p.2.names 1) = true) := by decide +kernel

/-- A prefill plan on member 1 and a decode plan on the head, under group flags and salts. -/
def handPlan (flags : Nat) (salt : Nat) (rpt : Nat) (m : MemberNo) : Plan :=
  { planOf .active flags with
    hdr := (planHead flags).take 64 ++ natLe 8 salt ++ (planHead flags).drop 72 ++ natLe 4 0, tmpl := [⟨Desc.zero.setF 0 7 0 0x30, rpt, 1, m, 0, 0, 0⟩] }
/-- Both plans need FLAGS[5] and the same VINE_SALT (spec/12 R353). -/
theorem test_hand_pair : handPair (handPlan 0x20 9 3 1) (handPlan 0x20 9 2 0) = true ∧ handPair (handPlan 0 9 3 1) (handPlan 0x20 9 2 0) = false ∧
    handPair (handPlan 0x20 9 3 1) (handPlan 0x20 8 2 0) = false ∧ handPair (handPlan 0x20 9 3 1) (handPlan 0x20 9 2 1) = false := by decide +kernel
/-- The LINK_PUT of a page that member 1 hands to the head: 64 KiB, WRITE, CODEC NONE, MEMBER 0, to the head's own page. -/
theorem test_hand_put :
    let d := srvD (handPlan 0x20 9 3 1) { Seq.reset with st := .prefill, plan := 1, promptLen := 64, kvObj := 2 }
    let x := (d.handDesc ⟨3, 0, 0, 0, 1, 2, none, none⟩ 1 0 9).1
    x.op = 0x50 ∧ x.tag = 9 ∧ lkLen x = 65536 ∧ lkOp x = 0 ∧ lkCodec x = 0 ∧ lkMember x = 0 ∧ urObj (x.w 2) = 1 ∧ urOff (x.w 2) = 0 := by decide +kernel

/-- Source 0x90 + 3, counted 254 or 255 times, its group enabled; and the retained state of NAP. -/
def evcD (f : EvcCore → EvcCore) (d : Dev) : Dev := { d with evc := { d.evc with core := f d.evc.core } }
def srcD (n : BitVec 8) : Dev := evcD (fun e => { e with count := [(0x93, n)], enable := 1 <<< 0x93 }) Dev.reset
def napEvc (d : Dev) : Dev := { d with evc := { d.evc with retained := some d.evc.core } }
theorem test_witness_SourcesFire :
    (∀ n : BitVec 8, n = 254 ∨ n = 255 → (BitVec.ofNat 32 (evtMask .pwrEvt)).getLsbD 3 = true ∧ (srcD n).evc.retained = none ∧
      0x93 ∈ evtSources .pwrEvt (2 ^ 3) ∧ (srcD n).evc.core.enable.getLsbD 0x93 = true ∧ Tbl.get (0 : BitVec 8) (srcD n).evc.core.count 0x93 = n) ∧
    ((napEvc Dev.reset).evc.retained.isSome = true ∧ (BitVec.ofNat 32 (evtMask .srvEvt)).getLsbD 0 = true ∧
      ∀ n ∈ evtSources .srvEvt (2 ^ 0), n < 0x90 ∨ 0xAF < n) ∧
    (0x8001 : W32).getLsbD 15 = true ∧ (0x100 : W32).getLsbD 8 = true ∧ (0x93 : W32).getLsbD 8 = false := by
  refine ⟨?_, by decide, by decide, by decide, by decide⟩
  rintro n (rfl | rfl) <;> decide
/-- Group 9 armed with a pending and enabled source, for the message or the control processor. -/
def armD (msi cp run : Bool) (h : BitVec 4) : Dev :=
  hif (fun x => { x with msixEn := [(0, true)], msixOn := [(msixKey 0 2, true)], msixAddr := [(msixKey 0 2, 0x4000)] })
    (evcD (fun e => { e with
      pend := 1 <<< 0x93, enable := 1 <<< 0x93, armed := 1 <<< 9, msiEn := if msi then 1 <<< 9 else 0,
      cpEn := if cp then 1 <<< 9 else 0, hoRun := if run then 1 <<< 9 else 0, holdoff := [(9, h)], vector := [(9, 2)] }) Dev.reset)
theorem test_witness_GroupsDeliver :
    sourceMask.getLsbD 0x93 = true ∧ sourceMask.getLsbD 0x4F = false ∧ (armD true false false 3).evc.core.pend.getLsbD 0x93 = true ∧
    ((0 : W32).getLsbD 0 = false ∧ (1 : W32).getLsbD 0 = true ∧ (armD true false false 3).evc.core.req 9 = true) ∧
    ((armD true false false 3).delivers 9 = true ∧ (armD true false false 3).msiTakes 9 = true ∧ (armD true false false 3).cpTakes 9 = false ∧
      Tbl.get (0 : BitVec 4) (armD true false false 3).evc.core.holdoff 9 ≠ 0 ∧
      Tbl.get false (armD true false false 3).hif.msixOn (msixKey 0 (Tbl.get (0 : BitVec 6) (armD true false false 3).evc.core.vector 9).toNat) = true) ∧
    ((armD false true false 0).delivers 9 = true ∧ (armD false true false 0).cpTakes 9 = true ∧ (armD false true false 0).msiTakes 9 = false) ∧
    (armD true true true 3).delivers 9 = false ∧ (armD false false false 3).delivers 9 = false := by decide +kernel
/-- HOLDOFF 8 is 2^7 = 128 µs (the worked example of spec/14): a hold-off from 0 ends at 128,000 ns and not at 127,999. -/
def hoD (t : W64) : Dev := hif (fun h => { h with devTime := t }) (evcD (fun e => { e with hoRun := 1 <<< 9, hoLen := [(9, 8)] }) Dev.reset)
theorem test_witness_HoldOff :
    ((hoD 128000).evc.retained = none ∧ (hoD 128000).evc.core.hoRun.getLsbD 9 = true ∧ (hoD 128000).evc.core.hoEnd 9 ≤ (hoD 128000).now) ∧
    (hoD 127999).now < (hoD 127999).evc.core.hoEnd 9 ∧ Dev.reset.evc.core.hoRun.getLsbD 9 = false := by decide +kernel
/-- A source counts to 255 and stays there (R398). -/
theorem test_source_count : Tbl.get (0 : BitVec 8) (doSourceFire .pwrEvt 3 (srcD 254)).evc.core.count 0x93 = 255 ∧
    Tbl.get (0 : BitVec 8) (doSourceFire .pwrEvt 3 (srcD 255)).evc.core.count 0x93 = 255 := by decide

/-! Witnesses: firmware. -/

def fw (f : Fw → Fw) (d : Dev) : Dev := { d with fw := f d.fw }
/-- Component 1 in a state, its copy switched in or not; a LIVE lease of the PF; DEV_TIME 1,000; an activation waiting. -/
def compE (s : UpState) (switched fromReset : Bool) : Comp := { Comp.reset with st := s, switched := switched, fromReset := fromReset }
def fwD (l : LeaseState) (k : Comp) : Dev :=
  ((hif (fun h => { h with devTime := 1000 }) Dev.reset).setLease 0 { leaseE l 5000 with st := l }).setComp 1 k
def fwS (l : LeaseState) (k : Comp) : State := { State.reset with dev := fwD l k, nv := { Nv.reset with area := [(areaKey true 1, FwCopy.factory)] } }
/-- A host STAGE of 4,096 bytes, or of one past the area of component 1, out of object 1. -/
def stageD (n : W32) (o : ObjState) (l : LeaseState) (k : Comp) : Dev :=
  fw (fun f => { f with regAddr := 0x10000000000, regLen := n }) (tierD [(1, { objG o granT1 with size := 4194304 })] [] (fwD l k))
theorem test_witness_StagingTurnedAway :
    (stageD 4096 .live .none Comp.reset).stageNo .host 2 = some 0x0C ∧ (stageD 4096 .live .live Comp.reset).stageNo .host 3 = some 0x05 ∧
    (stageD 4096 .live .live (compE .trial false false)).stageNo .host 2 = some 0x06 ∧ (stageD 4096 .live .live Comp.reset).stageNo .host 0 = some 0x06 ∧
    (stageD 4096 .dying .live Comp.reset).stageNo .host 2 = some 0x0D ∧ (stageD 2097153 .live .live Comp.reset).stageNo .host 2 = some 0x05 ∧
    (stageD 2097152 .live .live Comp.reset).stageNo .host 2 = none ∧ (stageD 4096 .sealed .live (compE .staged false false)).stageNo .host 2 = none ∧
    (fwD .none Comp.reset).stageNo .mgmt 2 = none ∧ (fw (fun f => { f with len := 2097153 }) (fwD .none Comp.reset)).stageNo .mgmt 2 = some 0x05 ∧
    (fw (fun f => { f with stageComp := some 0 }) (fwD .none Comp.reset)).stageNo .mgmt 2 = some 0x01 := by decide +kernel
def stagingD : Dev := fw (fun f => { f with stageComp := some 1, stager := 2, len := 512 }) (fwD .live (compE .writing false false))
def staging : State := { fwS .live (compE .writing false false) with dev := stagingD }
/-- An image's header: component 1, SVN 3, no body. -/
def imageHead : List Byte :=
  natLe 2 0xC1FC ++ [1, 1] ++ natLe 4 0x01000001 ++ natLe 4 3 ++ natLe 4 0 ++ natLe 4 0x1FFFF ++ natLe 4 0x00010000 ++ List.replicate 32 0 ++ [0, 1] ++
    List.replicate 454 0
/-- The digest and the signature are the unit's own to judge (log entry 7): whatever else R420 asks, this image meets. -/
theorem test_witness_StagingDone :
    staging.dev.fw.stageComp = some 1 ∧ staging.nv.invalid 1 (FwCopy.ofBytes 1 staging.dev.stageBytes) = some 0x02 ∧
    imageHead.length = 512 ∧
    staging.nv.invalid 1 { FwCopy.ofBytes 1 imageHead with digestOk := true, sigOk := true } = none ∧
    (let d := hif (fun h => { h with devTime := 60000000000 }) (fw (fun f => { f with stager := 1 }) Dev.reset)
     d.fw.stager ≠ 0 ∧ d.fw.stageComp = none ∧ d.fw.lastAt + 60000000000 ≤ d.now) := by
  refine ⟨by decide +kernel, by decide +kernel, by decide +kernel, by decide +kernel, by decide +kernel⟩
theorem test_witness_StagingTakenBack :
    (∀ l ∈ [LeaseState.live, .none], ∀ p ∈ [CmdPath.host, .mgmt], (l = .live ∨ p = .mgmt) → (fwD l Comp.reset).noLease p = false) ∧
    (∀ k ∈ [compE .armed false true, compE .pending false false, compE .pending true false], ∀ c, c < 8 → (2 : BitVec 8).getLsbD c = true →
      ((fwD .live k).comp c).st = .pending ∨ ((fwD .live k).comp c).st = .armed) ∧
    (∀ k ∈ [compE .writing false false, compE .trial false false, compE .trial false true], ∀ c, c < 8 → (2 : BitVec 8).getLsbD c = true →
      ((fwD .live k).comp c).st = .writing ∨ ((fwD .live k).comp c).st = .trial) := by decide

def actS (k : Comp) : State := { fwS .live k with dev := fw (fun f => { f with actFrom := some 1000 }) (fwD .live k) }
theorem test_witness_Activation :
    (fwS .none (compE .staged false false)).actNo .host 2 false = some 0x0C ∧ (fwS .live (compE .staged false false)).actNo .host 2 false = none ∧
    (fwS .live (compE .staged false false)).actNo .host 2 true = none ∧ (fwS .live Comp.reset).actNo .host 2 true = some 0x06 ∧
    (fwS .live (compE .pending false false)).actNo .host 2 true = some 0x01 ∧
    (let k := compE .pending false false
     ((actS k).dev.comp 1) = k ∧ (actS k).dev.emergency = false ∧ (actS k).dev.fw.actFrom ≠ none ∧
       (∀ i, i < 1 → ((actS k).dev.comp i).st = .pending → ((actS k).dev.comp i).switched = true) ∧ (actS k).dev.quiet 1 = true ∧
       (actS k).nv.invalid 1 ((actS k).nv.copy (!k.runB) 1) = none ∧
       { (actS k).nv with revoked := 1 }.invalid 1 ((actS k).nv.copy (!k.runB) 1) = some 0x04 ∧
       (∀ i, i < 8 → i ≠ 1 → ((actS k).dev.comp i).st = .pending → ((actS k).dev.comp i).switched = true) ∧
       (let d := (actS k).dev.setComp 3 k
        (d.comp 3).st = .pending ∧ (d.comp 3).switched = false) ∧ ((actS k).dev.autoCommit = true ∧ (actS k).dev.trialTime ≠ 0) ∧
       (let d := { (actS k).dev with od := { (actS k).dev.od with val := [(0xA012 * 256 + 1, [0, 0, 0, 0])] } }
        d.trialTime = 0 ∧ d.autoCommit = true)) ∧
    ((actS (compE .pending false false)).dev.lastInst 1 = false ∧
     (let d := fw (fun f => { f with hifB := true }) (actS { compE .pending false false with insts := 2 }).dev
      d.lastInst 1 = true ∧ d.quiet 1 = true) ∧
     (∀ n ∈ [(0 : BitVec 4), 8, 12, 14], ((actS { compE .pending false false with insts := n }).dev.comp 1).insts = n)) ∧
    (let d := ((actS (compE .pending false false)).dev.setPart 2 { Part.reset with st := .scrubbing }).setComp 4 (compE .pending false false)
     d.quiet 4 = false ∧ d.quiet 1 = true) ∧
    (let d := hif (fun h => { h with devTime := 10000001000 }) (actS (compE .pending false false)).dev
     d.fw.actFrom = some 1000 ∧ d.compsIn .pending ≠ [] ∧ 1000 + d.actWait * 1000000 ≤ d.now) := by decide +kernel
theorem test_witness_Commit :
    (let d := fwD .live (compE .trial false false)
     d.noLease .host = false ∧ (∀ c, c < 8 → (2 : BitVec 8).getLsbD c = true → (d.comp c).st = .trial) ∧ d.held = false ∧
       (pwr (fun p => { p with devHold := true }) d).held = true) ∧
    (let d := fw (fun f => { f with trialEnd := 1000 }) (fwD .live (compE .trial false false))
     d.fw.trialEnd ≠ 0 ∧ d.fw.trialEnd ≤ d.now ∧ d.autoCommit = true ∧ d.held = false) ∧
    ((compE .trial false false).st = .trial ∧ (compE .trial false false).fromReset = false ∧ (compE .trial false true).fromReset = true) ∧
    Dev.reset.setMpus.isFault 2 false (.access (.block .srv) .write) = false ∧ Dev.reset.setMpus.isFault 2 false (.access (.block .sec) .write) = true ∧
    Dev.reset.setMpus.isFault 1 true .watchdog = true := by decide
/-- No CP needs more than the 16 regions of its memory protection unit (R415). -/
theorem test_mpu_regions : ∀ cp, cp < 4 → (mpuRegions cp).length ≤ 16 := by decide

/-! Witnesses: security. -/

/-- A device whose PF lease is LIVE, every feature accepted, partition 2 in a state; the command word of an OP for partition 2 and VF 1. -/
def secD (s : PartState) (live2 : Bool) : Dev :=
  (feats (Dev.reset.setLease 0 (leaseE .live 5000))).setPart 2
    { Part.reset with st := s, epoch := 4, vintCur := 6, vintOld := 5, live2 := live2, keyCur := some 9, keyOld := if live2 then some 8 else none }
def secC (op : Nat) : W32 := BitVec.ofNat 32 (op + 2 * 2 ^ 8 + 2 ^ 16)
theorem test_witness_PartitionCommands :
    ((st Dev.reset).dev.secNo .host (secC 1) = some 0x04 ∧ (st satD).dev.secNo .mgmt (secC 1) = some 0x04 ∧
      (secD .absent false).secNo .host 0x80000201 = some 0x06 ∧ (secD .absent false).secNo .host (secC 1) = none ∧ secOp (secC 1) = 1 ∧ secOp (secC 9) = 9) ∧
    ((secD .absent false).createNo .host (secC 1) = none ∧ (secD .live false).createNo .host (secC 1) = some 0x02 ∧
      (secD .absent false).createNo .host 1 = some 0x06 ∧ (Dev.reset.setPart 2 Part.reset).createNo .mgmt (secC 1) = some 0x03) ∧
    ((secD .live false).removeNo (secC 2) = none ∧ (secD .draining false).removeNo (secC 2) = some 0x02 ∧ (secD .live false).removeNo 2 = some 0x06) ∧
    ((secD .live false).assignNo .host (secC 3) = none ∧ (secD .absent false).assignNo .host (secC 3) = some 0x02 ∧
      (let d := { secD .live false with sec := { (secD .live false).sec with argMgmt := [0xFF, 0, 0, 0, 0, 0, 0, 0x80] } }
       bitN (d.secMask .mgmt) 63 = true ∧ bitN (d.secMask .mgmt) 62 = false)) ∧
    ((secD .live false).bindNo (secC 4) = none ∧ (secD .live false).bindNo (secC 5) = none ∧ (secD .absent false).bindNo (secC 4) = some 0x02 ∧
      (secD .live false).bindNo 0x90204 = some 0x06 ∧ (secD .live false).bindNo 0x80204 = none ∧ (secD .live false).bindNo 0x00204 = some 0x06) ∧
    ((secD .live false).rotateNo (secC 6) = none ∧ (secD .live true).rotateNo (secC 6) = some 0x09 ∧ (secD .absent false).rotateNo (secC 6) = some 0x02) ∧
    ((secD .live false).attestNo (secC 7) = none ∧ (secD .absent false).attestNo (secC 7) = some 0x02) := by decide +kernel
/-- Partition 2 with an object of one granule under the old vintage; a catalogue entry of partition 3. -/
def oldG : Gran := { Gran.reset with t1 := some ⟨1, 5⟩ }
def oldD : Dev := tierD [(1, { objG .live oldG with part := 2 })] [] (secD .live true)
def epochK (m : Nat) : Pkt := if m = 0 then fromHead 0x32 (natLe 2 9 ++ [2]) else fromSat 0x32 7 (natLe 2 9 ++ [2])
theorem test_witness_Teardown :
    (((secD .draining false).part 2).st = .draining ∧ (secD .draining false).drainedPart 2 = true) ∧
    (((secD .retiring false).part 2).st = .retiring ∧ (secD .retiring false).links.group = .solo ∧ (secD .retiring false).partRuns 2 = false ∧
      Tbl.get [] (secD .retiring false).links.epochWait (2 : PartNo).toNat = []) ∧
    (∀ s ∈ [PartState.retiring, .draining, .live], let d := lks (fun l => { l with group := .satellite, member := 1 }) (secD s false)
      d.mine (epochK 0) = true ∧ d.openBody (epochK 0) = some (natLe 2 9 ++ [2]) ∧ d.links.group = .satellite ∧ (d.part 2).st = s ∧
        (BitVec.ofNat 3 (leNat (((natLe 2 9 ++ [2]).drop 2).take 1)) : PartNo) = 2) ∧
    (let d := lks (fun l => { l with group := .grouped, epochWait := [(2, [1, 3])] }) (secD .retiring false)
     d.mine (epochK 1) = true ∧ d.openBody (epochK 1) = some (natLe 2 9 ++ [2]) ∧ d.links.group ≠ .satellite ∧
       (epochK 1).hdr.src.toNat ∈ Tbl.get [] d.links.epochWait 2 ∧ (∃ m ∈ Tbl.get [] d.links.epochWait 2, m ≠ (epochK 1).hdr.src.toNat)) ∧
    (((secD .scrubbing false).part 2).st = .scrubbing ∧ (secD .scrubbing false).entriesOf 2 = []) ∧
    ((oldD.obj 1).st ≠ .free ∧ (oldD.part (oldD.obj 1).part).live2 = true ∧ (oldD.part (oldD.obj 1).part).serves = true ∧ oldD.moving 1 0 = false ∧
      Gran.vintIn ((oldD.obj 1).g 0) (oldD.part (oldD.obj 1).part).vintOld = some .t1 ∧ oldD.framesIn .t1 < oldD.capacity .t1 / granSize ∧
      oldD.reencBefore 1 0 = false ∧ oldD.reencBefore 1 1 = true) ∧
    (((secD .live true).part 2).live2 = true ∧ (secD .live true).remain 2 ((secD .live true).part 2).vintOld = 0 ∧
      oldD.remain 2 (oldD.part 2).vintOld = 1) ∧
    ((lks (fun l => { l with group := .satellite }) (secD .absent false)).links.group = .satellite ∧ secPart (secC 1) = 2 ∧
      secOp (secC 2) = 2 ∧ secOp (secC 3) = 3) := by decide +kernel
/-- A revocation of key 2 by a record for any unit, signed by key 1 if the unit finds it so. -/
def revokeRec (k : Byte) : List Byte := List.replicate 12 0 ++ [k] ++ List.replicate 243 0
theorem revoke_form (s : State) (r : List Byte) (a : (cut r 0 11).all (· == 0) = true) (b : leNat (cut r 12 12) = 2)
    (c : (cut r 13 159).all (· == 0) = true) : s.revokeNo r = if s.nv.revoked ||| 4 = 0xF then some 0x0B
      else if (List.range 4).any fun j => j != 2 && !s.nv.revoked.getLsbD j && Config.ecdsaVerify j (cut r 0 159) (cut r 160 255) then none
      else some 0x08 := by
  simp only [State.revokeNo, a, b, c, Bool.or_true]
  rfl
theorem test_witness_Revoke (h : Config.ecdsaVerify 1 (cut (revokeRec 2) 0 159) (cut (revokeRec 2) 160 255) = true) :
    State.reset.revokeNo (revokeRec 2) = none := by
  rw [revoke_form _ _ (by decide) (by decide) (by decide +kernel)]
  generalize revokeRec 2 = r at h
  have e : State.reset.nv.revoked = 0 := rfl
  rw [e]
  simp [List.range, List.range.loop, h]
theorem test_witness_AttestationAndUnlock :
    (secD .live false).confActive = false ∧ ((secD .live false).setPart 2 { Part.reset with st := .live, conf := true }).confActive = true ∧
    secOp (secC 8) = 8 ∧ ((secD .live false).secNo .host (secC 8)) = none ∧
    (let d := { Dev.reset with sec := { Sec.reset with requests := 2 ^ 20 } }
     2 ^ 20 ≤ d.sec.requests) ∧
    (let d := hif (fun h => { h with devTime := 1000000000 }) Dev.reset
     d.sec.reseedAt.toNat + 1000000000 ≤ d.now ∧ d.sec.samplerAt.toNat + 1000000 ≤ d.now) ∧
    Dev.reset.sec.debugUnlocked = false := by decide +kernel
/-- A REVOKE that would revoke the last key is refused with 0x0B before its signature is looked at. -/
theorem test_last_key : ({ State.reset with nv := { Nv.reset with revoked := 0xB } }).revokeNo (revokeRec 2) = some 0x0B := by
  rw [revoke_form _ _ (by decide) (by decide) (by decide +kernel)]
  rfl

/-! Witnesses: power, faults and Safe Hold. -/

def pins (f : Pins → Pins) (d : Dev) : Dev := { d with pins := f d.pins }
/-- A booted device at a DEV_TIME, its power state set, with a sequence in a state. -/
def pwD (t : W64) (f : Pwr → Pwr) (q : SeqState) : Dev :=
  (pins (fun p => { p with phase := .ready }) (hif (fun h => { h with devTime := t }) (pwr f Dev.reset))).setSeq 3 { Seq.reset with st := q }
theorem test_witness_Emergencies :
    (let d := pwD 50000000 (fun p => { p with limited := List.replicate 1000 1000000 }) .free
     d.awake = true ∧ d.pwr.power = false ∧ 1000 < (({ State.reset with dev := d }).limiter 5600 5501 5400).dev.pwr.limited.length ∧
       (({ State.reset with dev := d }).limiter 5600 5500 5400).dev.pwr.limited.length ≤ 1000 ∧ d.pwr.capForce * 10 < (5501 : BitVec 16).toNat ∧
       (5500 : BitVec 16).toNat ≤ d.pwr.capForce * 10) ∧
    ((pwD 0 id .free).awake = true ∧ (pwD 0 id .free).pwr.therm = false ∧
      (let d := (pwD 0 id .free).readings (List.replicate 16 190)
       (∃ i, i < 51 ∧ (sensorLimits i).1 ≤ d.sensor i) ∧ ∀ i, i < 51 → d.sensor i < (sensorLimits i).2) ∧
      (let d := (pwD 0 id .free).readings (List.replicate 51 120)
       ∃ i, i < 51 ∧ (sensorLimits i).2 ≤ d.sensor i) ∧
      (let d := (pwD 0 id .free).readings (List.replicate 51 109)
       ∀ i, i < 51 → d.sensor i < (sensorLimits i).1)) ∧
    (let d := pwD 1000000000 (fun p => { p with therm := true, coolAt := some 0 }) .free
     (d.pwr.therm && d.pins.coolOk && d.secondPast d.pwr.coolAt) = true) ∧
    (let d := pwD 1000000000 (fun p => { p with power := true, limitAt := some 0 }) .free
     (d.pwr.power && d.secondPast d.pwr.limitAt) = true) ∧
    (∀ l ∈ [3, 4], let d := pwD 100000000 (fun p => { p with therm := true, level := l }) .decode
      d.persists = true ∧ d.pwr.emergAt + 100000000 ≤ d.now ∧ (d.pwr.level = 4 ↔ l = 4) ∧ d.pwr.withdrawn = false ∧ (d.seq 3).alive = true) ∧
    ((pwD 0 id .decode).pins.coolOk = true ∧ (pwD 0 id .decode).pwr.st ≠ .nap ∧ (pwD 0 id .decode).pwr.st ≠ .deep ∧
      ((pwD 0 id .decode).seq 3).alive = true) := by decide +kernel
theorem test_witness_LevelsAndStates :
    (let d := pwD 0 (fun p => { p with capAt := some 0, capWritten := 300 }) .free
     d.gap = true ∧ d.pwr.capAt.isSome = true ∧ levelOf d.pwr.capWritten ≠ d.pwr.level) ∧
    (let d := pwD 20000000 (fun p => { p with capAt := some 0, capWritten := 300 }) .free
     d.pwr.capAt = some 0 ∧ 0 + 20000000 ≤ d.now) ∧
    (let d := pwD 0 (fun p => { p with st := .active }) .held
     d.pwr.st = .active ∧ (d.cores.tag.any fun e => e.2.inFlight) = false ∧ d.noneActive = true) ∧
    (let d := pwD 1000000000 (fun p => { p with st := .idle }) .held
     d.pwr.st = .idle ∧ d.links.group = .solo ∧ d.pwr.idleAt + d.napAfterNs ≤ d.now ∧ d.napBlocked = false) ∧
    ((pins (fun p => { p with coolOk := false }) (pwD 0 id .free)).pwr.st = .idle ∧
      (pins (fun p => { p with coolOk := false }) (pwD 0 id .free)).pins.coolOk = false) ∧
    (let d := napEvc (pwD 0 (fun p => { p with st := .nap }) .free)
     d.pwr.st = .nap ∧ d.pins.coolOk = true ∧ d.evc.retained = some EvcCore.reset) ∧
    (∀ x ∈ [PwrState.idle, .nap], let d := hif (fun h => { h with numVfs := 1, d3 := [(0, true), (1, true)] }) (pwD 0 (fun p => { p with st := x }) .free)
      (∀ f, f ≤ d.hif.numVfs → Tbl.get false d.hif.d3 f = true) ∧ (d.pwr.st = .idle ∨ d.pwr.st = .nap) ∧ d.links.group = .solo ∧ (d.seqsWhere fun e => e.served).isEmpty = true) := by decide +kernel

def allUnits : List UnitId := [.core 0, .core 63, .quad 0, .quad 63, .rack 0, .rack 11, .channel 0, .channel 7, .lane 0 0, .lane 7 3]
/-- Object 1 holds a granule in T1; it is LIVE, SEALED, or a LIVE KV map. -/
def patD (s : ObjState) : Dev := tierD [(1, objG s granT1)] [] Dev.reset
theorem test_witness_FaultsRetireAndHold :
    (∀ x ∈ allUnits, Dev.reset.unitIn x = true ∧ ∀ c, x = .channel c → Dev.reset.cellar.retiring.toNat ≠ c.toNat) ∧
    ((Dev.reset.setCore 5 { CoreSt.reset with inService := false }).unitIn (.core 5) = false) ∧
    (((pwD 0 id .decode).seq 3).alive = true ∧ (pwD 0 id .decode).pwr.partHold.getLsbD 0 = false ∧ (pwD 0 id .decode).pwr.devHold = false ∧
      ((runsD (words 0x501 0 0 0 0 0 0 0)).tagE 5).live = true ∧ ((runsD (words 0x501 0 0 0 0 0 0 0)).tagE 5).desc.part = 0) ∧
    ((pwr (fun p => { p with partHold := 0x84 }) Dev.reset).pwr.partHold.getLsbD (7 : PartNo).toNat = true) ∧
    (∀ s ∈ [ObjState.live, .sealed], (patD s).pwr.st ≠ .nap ∧ (patD s).pwr.st ≠ .deep ∧ 
      Gran.frame ((patD s).gran 1 0) false = some (.t1, ⟨0, 0⟩) ∧
      Gran.frame { (patD s).gran 1 0 with t2 := some ⟨3, 0⟩ } true = some (.t2, ⟨3, 0⟩) ∧
      ((patD s).obj 1).eff = s ∧ (patD s).metaOf 1 = none ∧ (patD s).vineUsed ((patD s).obj 1).part = []) := by decide +kernel
theorem test_witness_PatrolOfSealedGranules :
    (let d := cel (fun c => { c with cat := [(1, { CatE.reset with used := true, places := [(0, ⟨0, 0, 0⟩)] })] }) Dev.reset
     d.pwr.st ≠ .nap ∧ (d.cat 1).used = true ∧ Tbl.get Place.none (d.cat 1).places 0 ≠ Place.none) := by decide +kernel
theorem test_witness_RailsAndTrips :
    (let d := pins (fun p => { p with phase := .ready }) Dev.reset
     d.pins.pwrEn = true ∧ d.pins.phase ≠ .off ∧ d.pins.phase ≠ .aux ∧ d.pins.pwrGood = true) ∧
    (let d := pins (fun p => { p with phase := .ramping, pwrGood := false }) Dev.reset
     d.pins.phase ≠ .off ∧ d.pins.phase ≠ .aux ∧ d.pins.pwrGood = false) ∧
    (let d := pins (fun p => { p with thermTrip := true, pwrEn := false, phase := .aux }) Dev.reset
     d.pins.thermTrip = true ∧ d.pins.pwrEn = false ∧ d.belowTrip = true) ∧
    (let d := pins (fun p => { p with phase := .aux }) Dev.reset
     d.pins.phase = .aux ∧ d.pins.pwrEn = true ∧ d.pins.thermTrip = false ∧ d.pwr.latched = false) := by decide +kernel
/-- A thermal trip of Cask 7: THERM_TRIP_N asserted, the main rails off, the reading at its trip point, 105 °C (R486). -/
theorem test_trip : (let u := (match execThermTrip true 7 { State.reset with dev := pwD 0 id .free } with
      | .next u => u
      | _ => State.reset)
    u.dev.pins.thermTrip = true ∧ u.dev.pins.pwrGood = false ∧ Tbl.get 0 u.dev.pwr.temp 23 = 210) := by decide +kernel

/-! Witnesses: pins, boot, dictionary and management; the machine. -/

def pinS (f : Pins → Pins) : State := { State.reset with dev := pins f Dev.reset }
/-- Reset held after power-up, with an erased recovery image or a revoked key. -/
def romS (held : Bool) (nv : Nv) : State := { pinS (fun p => if held then p else { p with phase := .aux, pwrGood := false }) with nv := nv }
theorem test_witness_PowerAndReset :
    ((pinS fun p => { p with auxUp := false, phase := .off }).dev.pins.auxUp = false ∧ Nv.reset.pick 7 = some ⟨false, false, false⟩ ∧
      { Nv.reset with revoked := 1 }.pick 7 = none) ∧
    (pinS fun p => { p with phase := .aux, pwrEn := false }).dev.pins.auxUp = true ∧ (pinS fun p => { p with phase := .ramping }).dev.pins.phase = .ramping ∧
    (pinS fun p => { p with phase := .ramping, perstN := true }).dev.pins.perstN = true ∧
    ((romS true Nv.reset).dev.pins.perstN = false ∧ (romS true Nv.reset).dev.pins.phase = .held ∧ (romS false Nv.reset).dev.pins.phase ≠ .held ∧
      Nv.reset.invalid 8 Nv.reset.recov = none ∧ ({ Nv.reset with revoked := 1 }.invalid 8 Nv.reset.recov).isSome = true ∧
      (List.range 7).mapM (romS true Nv.reset).nv.pick = some (List.replicate 7 ⟨false, false, false⟩) ∧
      setCompatible ((romS true Nv.reset).bootSet (List.replicate 7 ⟨false, false, false⟩)) = true) ∧
    (State.reset.dev.pins.pwrGood = true ∧ State.reset.dev.fw.stageComp = none) ∧
    ((pinS fun p => { p with phase := .boot }).dev.pins.phase = .boot ∧ (pinS fun p => { p with phase := .boot }).dev.pins.inited = false ∧
      (pinS fun p => { p with phase := .boot }).dev.fw.recovery = false) ∧
    (let s := pinS fun p => { p with phase := .ready, tickPrsntN := false, tickLvl := false }
     s.dev.pins.tickLvl = false ∧ Dev.reset.pins.tickLvl = true ∧
     s.dev.pins.tickPrsntN = false ∧ s.dev.pins.phase = .ready ∧ s.dev.pwr.st ≠ .nap ∧ s.dev.pwr.st ≠ .deep ∧ s.dev.links.group ≠ .satellite ∧
       (let d := s.dev.setPlan 1 { planOf .active 0 with tick := true }
        (d.plan 1).tick = true ∧ (d.plan 1).runs = true ∧ (d.plan 1).edge = none)) := by decide +kernel

/-- The host interface is ready and the firmware runs, or is still booting; a satellite; a head with member 1 present or lost. -/
def odD (ph : Phase) (d : Dev) : Dev := pins (fun p => { p with phase := ph }) (hif (fun h => { h with ready := true }) d)
def odS (ph : Phase) (d : Dev) : State := { State.reset with dev := odD ph d }
def waiting8 : List Bridged := List.replicate 8 ⟨1, 7, .pf⟩
theorem test_witness_DictionaryPaths :
    (odS .ready Dev.reset).dev.pathUp .pf = true ∧ State.reset.dev.pathUp .pf = false ∧ ((odS .ready Dev.reset).dev.links.bridged.filter (·.path == .pf)).length < 8 ∧
    8 ≤ ((lks (fun l => { l with bridged := waiting8 }) (odD .ready Dev.reset)).links.bridged.filter (·.path == .pf)).length ∧
    (∀ ix ∈ [0x2000, 0xFFFF], (odS .boot Dev.reset).dev.notReady .read ix = true ∧ (odS .ready Dev.reset).dev.notReady .read ix = false ∧
      (odS .boot Dev.reset).dev.notReady .next ix = true ∧ (odS .ready Dev.reset).dev.pathDenies .pf .read ix = false ∧
      (odS .ready Dev.reset).dev.pathDenies (.vf 0) .read ix = true ∧ (odS .ready Dev.reset).dev.pathDenies (.vf 0) .next ix = true) ∧
    (odS .boot Dev.reset).dev.notReady .read 0x1000 = false ∧ (odS .boot Dev.reset).dev.notReady .restore 0 = true ∧
    (odS .ready Dev.reset).dev.notReady .restore 0 = false ∧ (odS .ready satD).dev.pathDenies .pf .restore 0 = true ∧
    (odS .ready Dev.reset).dev.pathDenies .pf .restore 0 = false ∧ (odS .ready Dev.reset).dev.pathDenies (.vf 0) .restore 0 = true := by decide +kernel
theorem test_witness_DictionaryEntries :
    entryAt 0x100006 = none ∧ entryAt 0x200101 = some ⟨1, 8, .u64, .rw, 0⟩ ∧ entryAt 0x100001 = some ⟨1, 1, .str, .const, 0⟩ ∧
    entryAt 0x501001 = some ⟨1, 1, .blob, .rw, 768⟩ ∧ nextEntry 0x100005 = some 0x100100 ∧ nextEntry 0x100004 = some 0x100005 ∧
    nextEntry 0xB04306 = none := by decide +kernel
theorem test_witness_DictionaryWrites :
    (odS .ready Dev.reset).dev.pwr.st ≠ .nap ∧ (odS .ready Dev.reset).dev.windowWaits 0x400301 (natLe 4 7) = false ∧
    OdAcc.const.writable = false ∧ OdAcc.rw.writable = true ∧ (natLe 4 7).length ≠ OdType.u64.size ∧ OdType.str.size < (List.replicate 256 (0 : Byte)).length ∧
    (natLe 4 7).length = OdType.u32.size ∧ OdType.blob.fixed = false ∧ (List.replicate 12 (0 : Byte)).length ≤ OdType.blob.size ∧
    (State.store (odS .ready Dev.reset) .pf 0x501001 ⟨1, 1, .blob, .rw, 768⟩ (List.replicate 13 0) = none) ∧
    ((State.store (odS .ready Dev.reset) .pf 0x501001 ⟨1, 1, .blob, .rw, 768⟩ (List.replicate 12 0)).isSome = true ∧
    lookupKey 0x501001 rwpList = none) ∧
    ((entryAt 0x600101).map (fun r => (State.store (odS .ready Dev.reset) .pf 0x600101 r [0x26, 2]).isSome) = some true ∧
      lookupKey 0x600101 rwpList ≠ none) := by decide +kernel
theorem test_witness_DictionaryMembers :
    (∀ m ∈ [(0 : BitVec 8), 64, 1], m ≠ 0xFF) ∧ isHead Dev.reset.links.group = false ∧ isHead (headD .grouped true 0).links.group = true ∧
    ((headD .grouped true 0).memberOf 1).present = true ∧ ((headD .grouped false 0).memberOf (1 : BitVec 8).toNat).present = false ∧
    (∀ x ∈ (headD .grouped true 0).links.xid, x.2 + 1 < 2 ^ 52) := by decide
theorem test_witness_Management :
    ((pinS fun p => { p with perstN := true }).dev.bindUp .vdm = true ∧ State.reset.dev.bindUp .side = true ∧ State.reset.dev.bindUp .vdm = false) ∧
    (let d := pins (fun p => { p with mgmtMode := false, alertDrv := true }) Dev.reset
     d.pins.auxUp = true ∧ d.pins.mgmtMode = false ∧ d.pins.alertDrv = true) ∧
    (Dev.reset.alertCond = false ∧ (pwr (fun p => { p with therm := true }) Dev.reset).alertCond = true ∧ Dev.reset.pins.mgmtMode = true) ∧
    (∀ c ∈ [(0 : Byte), 7, 10, 14, 0xFF], c.toNat = 0 ∨ (6 < c.toNat ∧ c.toNat < 11) ∨ 13 < c.toNat) := by decide +kernel
/-- The responses of R498: MCTP version 1.3 for control; message types 0x00 and 0x7E. -/
theorem test_mctp : Tbl.get [] (doGetMctpVersionSupport .side Dev.reset).od.ctrl 1 = [0, 1, 0xF1, 0xF3, 0xFF, 0x00] ∧
    Tbl.get [] (doGetMessageTypeSupport .side Dev.reset).od.ctrl 1 = [0, 2, 0x00, 0x7E] := by decide

theorem test_witness_StepTakesTheFront :
    State.reset.pending = [] ∧ (State.reset.dev.pins.perstN = false) ∧
    (let s := pinS fun p => { p with perstN := true }
     s.dev.pins.perstN = true ∧ s.dev.pins.pwrGood = true ∧ (hif (fun h => { h with devTime := 9999999 }) s.dev).now + 1 = 10000000) := by decide
theorem test_witness_StepKeeps : State.reset.HostWf ∧ (∃ u, step State.reset = .next u) ∧
    ({ State.reset with nv := { Nv.reset with revoked := 8 } }).nv.revoked.getLsbD 3 = true :=
  ⟨rfl, ⟨_, rfl⟩, by decide⟩
theorem test_witness_Nop : (nopD.tagE 5).desc.op = 0x01 ∧ (nopD.tagE 5).st = .running ∧ (nopD.tagE 5).retries = 0 ∧
    ((tagIn .waiting (words 0x501 0 0 0 0 0 0 0) Dev.reset).tagE 5).st = .waiting := by decide
/-- Tag 5 holds a NOP that is READY, one whose only wait has resolved, one whose fence has cleared. -/
def nopTag (e : TagE) : TagE := { e with desc := words 0x501 0 0 0 0 0 0 0 }
def nopIn (e : TagE) : TagE := (Dev.reset.setTag 5 (nopTag e)).tagE 5
theorem test_witness_NopReady :
    (nopIn { TagE.reset with st := .ready }).desc.op = 0x01 ∧ (nopIn { TagE.reset with st := .ready }).st = .ready ∧
    (nopIn { TagE.reset with st := .ready }).checked = false ∧ (nopIn { TagE.reset with st := .ready }).epoch = (Dev.reset.part 0).epoch := by decide
theorem test_witness_NopWait :
    (nopIn { TagE.reset with st := .waiting, wait0 := .got 4 true }).st = .waiting ∧
    (nopIn { TagE.reset with st := .waiting, wait0 := .got 4 true }).fence = none ∧
    (nopIn { TagE.reset with st := .waiting, wait0 := .got 4 true }).wait0.decided = true ∧
    (nopIn { TagE.reset with st := .waiting, wait0 := .got 4 true }).wait0.settle = .none ∧
    (nopIn { TagE.reset with st := .waiting, wait0 := .got 4 true }).wait1.settle = .none := by decide
theorem test_witness_NopFence :
    (nopIn { TagE.reset with st := .waiting, fence := some [] }).st = .waiting ∧ (nopIn { TagE.reset with st := .waiting, fence := some [] }).fence = some [] ∧
    (nopIn { TagE.reset with st := .waiting, fence := some [] }).wait0 = .none ∧ (nopIn { TagE.reset with st := .waiting, fence := some [] }).wait1 = .none := by decide
theorem test_witness_Schedule :
    (planOf .active 0).tick = false ∧ (planOf .active 0).anchor.toNat + 1000 * (planOf .active 0).period < 2 ^ 64 ∧
    (hif (fun h => { h with devTime := 0xFFFFFFFFFFFFFC18 }) Dev.reset).now + 1000 ≤ 2 ^ 64 := by decide +kernel
theorem test_witness_TimeLo :
    (nopD.tagE 5).live = true ∧ (0x1FFFFFFFF : W64) ≤ 0x2FFFFFFFE ∧ ((0x2FFFFFFFE : W64) - 0x1FFFFFFFF).toNat < 2 ^ 32 ∧ (Dev.reset.part 0).conf = false := by
  decide
/-- The device the words name: no command of the table has a word, so none decodes. -/
theorem test_no_words (n w : Nat) : decodeTableWord n w = none ∧ State.reset.withFetchWord n w = State.reset := ⟨rfl, rfl⟩

end Sys2Proof.Tests
end

section
/-! PROOF. A NOP completes DONE when its waits and fence resolve (R107): a start that no check refuses, then the NOP's own end. -/

namespace Sys2Proof.Machine

/-! A start that no check refuses (R95). -/

/-- A command that every check from step 6 on lets through is passed. -/
theorem Dev.judge_pass {d : Dev} {t : Tag} (hc : (d.tagE t).checked = false) (ha : firstBad (d.checksA (d.tagE t)) = none)
    (hz : hasZero (d.tagE t).desc (opSpec (d.tagE t).desc) = false) (hb : firstBad (d.checksB (d.tagE t)) = none)
    (hl : firstBad (d.checksC (d.tagE t)) = none) : d.judge t = d.pass t := by
  simp [Dev.judge, hc, ha, hz, hb, hl]

/-- To pass marks the entry and does nothing else; only an OBJ_DESTROY makes its object DYING as well (R196). -/
theorem Dev.pass_of_not_destroy {d : Dev} {t : Tag} (h : (d.tagE t).desc.op ≠ 0x41) :
    d.pass t = d.setTag t { d.tagE t with checked := true } := by
  simp [Dev.pass, h]

/-- What a start does at once concerns the tile producers and EXPAND alone. -/
theorem Dev.begin_of_no_unit {d : Dev} {t : Tag} (hm : (d.tagE t).desc.op ≠ 0x10) (ha : (d.tagE t).desc.op ≠ 0x30)
    (he : (d.tagE t).desc.op ≠ 0x13) : d.begin t = d := by
  simp [Dev.begin, hm, ha, he]

/-- A start without an upset makes the entry RUNNING with no retry, and does what the start does at once. -/
theorem Dev.launch_clean (d : Dev) (t : Tag) (dm1 : Bool) :
    d.launch t dm1 [] =
      (d.setTag t { d.tagE t with st := .running, started := d.hif.devTime, dm1 := dm1, retries := 0 }).begin t := by
  simp [Dev.launch]

/-- A READY command that is let through and stays READY, first on its units, is launched. -/
theorem doCommandStart_launch {d : Dev} {t : Tag} {dm1 : Bool} {us : List Nat} (hr : (d.tagE t).st = .ready)
    (hr' : ((d.judge t).tagE t).st = .ready) (hs : (d.judge t).startOn ((d.judge t).tagE t) = some dm1) :
    doCommandStart t us d = (d.judge t).launch t dm1 us := by
  simp [doCommandStart, hr, hr', hs]

/-! The NOP (R107). -/

/-- A NOP has no operands, whatever its words hold. -/
theorem opSpec_nop {x : Desc} (h : x.op = 0x01) : opSpec x = OpSpec.none := by simp [opSpec, h]

/-- No check of a NOP can fail but that of its partition's epoch. -/
theorem Dev.checks_nop {d : Dev} {e : TagE} (h : e.desc.op = 0x01) (he : e.epoch = (d.part e.desc.part).epoch) :
    firstBad (d.checksA e) = none ∧ hasZero e.desc (opSpec e.desc) = false ∧ firstBad (d.checksB e) = none ∧
    firstBad (d.checksC e) = none := by
  refine ⟨?_, ?_, ?_, ?_⟩
  · simp [Dev.checksA, opSpec_nop h, OpSpec.none, typeChecks, onesChecks, optChk, firstBad, h, he]
  · simp [opSpec_nop h, OpSpec.none, hasZero]
  · simp [Dev.checksB, Dev.ownChecks, Dev.fitChecks, opSpec_nop h, OpSpec.none, firstBad, h]
  · simp [Dev.checksC, Dev.lateChecks, opSpec_nop h, OpSpec.none, firstBad, h]

/-- A NOP needs no unit, so it is always first in order. -/
theorem Dev.startOn_nop {d : Dev} {e : TagE} (h : e.desc.op = 0x01) : d.startOn e = some false := by
  simp [Dev.startOn, TagE.units, opChip, h]

/-- A READY NOP starts: its entry alone changes, marked as checked and RUNNING without a retry. -/
theorem doCommandStart_nop {d : Dev} {t : Tag} (h : (d.tagE t).desc.op = 0x01) (hr : (d.tagE t).st = .ready)
    (hc : (d.tagE t).checked = false) (he : (d.tagE t).epoch = (d.part (d.tagE t).desc.part).epoch) :
    doCommandStart t [] d = (d.pass t).setTag t
      { d.tagE t with checked := true, st := .running, started := d.hif.devTime, dm1 := false, retries := 0 } := by
  obtain ⟨ha, hz, hb, hl⟩ := Dev.checks_nop h he
  have hj : d.judge t = d.pass t := Dev.judge_pass hc ha hz hb hl
  have hp : d.pass t = d.setTag t { d.tagE t with checked := true } := Dev.pass_of_not_destroy (by simp [h])
  have ht : (d.pass t).tagE t = { d.tagE t with checked := true } := by simp [hp]
  have hs : (d.judge t).startOn ((d.judge t).tagE t) = some false := Dev.startOn_nop (by simpa [hj, ht] using h)
  calc doCommandStart t [] d = (d.pass t).launch t false [] := by
        rw [doCommandStart_launch hr (by simpa [hj, ht] using hr) hs, hj]
    _ = (d.pass t).setTag t
          { d.tagE t with checked := true, st := .running, started := d.hif.devTime, dm1 := false, retries := 0 } := by
        rw [Dev.launch_clean, Dev.begin_of_no_unit (by simp [ht, h]) (by simp [ht, h]) (by simp [ht, h])]
        simp [hp]

/-- The start of a NOP keeps all that a completion keeps. -/
theorem doCommandStart_nop_aside {d : Dev} {t : Tag} (h : (d.tagE t).desc.op = 0x01) (hr : (d.tagE t).st = .ready)
    (hc : (d.tagE t).checked = false) (he : (d.tagE t).epoch = (d.part (d.tagE t).desc.part).epoch) :
    d.AsideCompletion (doCommandStart t [] d) := by
  rw [doCommandStart_nop h hr hc he, Dev.pass_of_not_destroy (by simp [h])]
  exact (Dev.setTag_aside d t _).trans (Dev.setTag_aside _ t _)

/-- A running NOP without a retry completes DONE with RESULT zero. -/
theorem doNop_completed {d : Dev} {t : Tag} (h : (d.tagE t).desc.op = 0x01) (hr : (d.tagE t).st = .running)
    (h0 : (d.tagE t).retries = 0) : d.Completed (doNop t d) t stDONE 0 0 := by
  have hn : doNop t d = d.completeOk t 0 := by simp [doNop, Dev.runs, h, hr]
  have hk : (d.tagE t).okStatus = stDONE := by simp [TagE.okStatus, h0]
  rw [hn, ← hk]
  exact Dev.completeOk_completed d t 0 (by simp [TagE.live, hr])

/-- A command that does not run does not end as a NOP. -/
theorem doNop_of_not_running {d : Dev} {t : Tag} (h : (d.tagE t).st ≠ .running) : doNop t d = d := by
  simp [doNop, Dev.runs, h]

/-- A completion after steps that keep what a completion keeps is one as seen from before those steps. -/
theorem Dev.Completed.of_aside {c d e : Dev} {t : Tag} {st : Byte} {detail : BitVec 16} {result : Nat} (h : c.AsideCompletion d)
    (k : d.Completed e t st detail result) : c.Completed e t st detail result := by
  obtain ⟨hdone, haside⟩ := k
  exact ⟨h.hif ▸ hdone, h.trans haside⟩

/-- A READY NOP, started and then run, completes DONE with RESULT zero. -/
theorem doNop_doCommandStart_completed {d : Dev} {t : Tag} (h : (d.tagE t).desc.op = 0x01) (hr : (d.tagE t).st = .ready)
    (hc : (d.tagE t).checked = false) (he : (d.tagE t).epoch = (d.part (d.tagE t).desc.part).epoch) :
    d.Completed (doNop t (doCommandStart t [] d)) t stDONE 0 0 := by
  have hrun := doCommandStart_nop h hr hc he
  refine (doNop_completed ?_ ?_ ?_).of_aside (doCommandStart_nop_aside h hr hc he)
  · simpa [hrun] using h
  · simp [hrun]
  · simp [hrun]

/-! The wait and the fence that resolve last (R98, R99). -/

/-- A wait that settles to none has not failed. -/
theorem Wait.failed_of_settle_none {w : Wait} (h : w.settle = .none) : w.failed = Option.none := by
  cases w with
  | none => rfl
  | on u => simp [Wait.settle] at h
  | got u ok =>
    cases ok with
    | false => simp [Wait.settle] at h
    | true => rfl

/-- A WAITING command whose waits are over, one of them just now, and that no fence holds is READY. -/
theorem doWaitResolve_ready {d : Dev} {t : Tag} (hw : (d.tagE t).st = .waiting) (hf : (d.tagE t).fence = none)
    (hd : ((d.tagE t).wait0.decided || (d.tagE t).wait1.decided) = true) (h0 : (d.tagE t).wait0.settle = .none)
    (h1 : (d.tagE t).wait1.settle = .none) :
    (doWaitResolve t d).tagE t = { d.tagE t with st := .ready, wait0 := .none, wait1 := .none } := by
  simp only [doWaitResolve, hw, hd, and_self, if_true, Wait.failed_of_settle_none h0, Wait.failed_of_settle_none h1]
  simp [TagE.ripen, hf, h0, h1]

/-- A WAITING command whose fence has cleared, with no wait left, is READY. -/
theorem doFenceClear_ready {d : Dev} {t : Tag} (hw : (d.tagE t).st = .waiting) (hf : (d.tagE t).fence = some [])
    (h0 : (d.tagE t).wait0 = .none) (h1 : (d.tagE t).wait1 = .none) :
    (doFenceClear t d).tagE t = { d.tagE t with st := .ready, fence := none } := by
  simp [doFenceClear, TagE.ripen, hw, hf, h0, h1]

/-! What the commands of the statement do to the state: an effect on the device alone. -/

theorem exec_nop (t : Tag) (s : State) : exec (.nop t) s = .next { s with dev := doNop t s.dev } := rfl
theorem exec_commandStart (t : Tag) (us : List Nat) (s : State) :
    exec (.commandStart t us) s = .next { s with dev := doCommandStart t us s.dev } := rfl
theorem exec_waitResolve (t : Tag) (s : State) : exec (.waitResolve t) s = .next { s with dev := doWaitResolve t s.dev } := rfl
theorem exec_fenceClear (t : Tag) (s : State) : exec (.fenceClear t) s = .next { s with dev := doFenceClear t s.dev } := rfl

/-- Settles O58: a NOP has no operands, so nothing but a stale epoch can refuse its start; each clause is the lemma above about the
command that it names. -/
theorem nopCompletesDone : Obligations.NopCompletesDone := by
  unfold Obligations.NopCompletesDone
  refine ⟨fun _ => opSpec_nop, fun s t hop => ⟨?_, ?_, ?_, ?_, ?_⟩⟩
  · intro hr h0
    exact ⟨_, exec_nop t s, doNop_completed hop hr h0⟩
  · intro hw
    rw [exec_nop, doNop_of_not_running (by simp [hw])]
  · intro hr hc he
    exact ⟨_, _, exec_commandStart t [] s, exec_nop t _, doNop_doCommandStart_completed hop hr hc he⟩
  · intro hw hf hd h0 h1
    exact ⟨_, exec_waitResolve t s, doWaitResolve_ready hw hf hd h0 h1⟩
  · intro hw hf h0 h1
    exact ⟨_, exec_fenceClear t s, doFenceClear_ready hw hf h0 h1⟩

end Sys2Proof.Machine
end

section
/-! PROOF. The schedule of a plan without TICK (R296). The first alignment of DEV_TIME can move A below 0 (R368); such a plan's points count
from the negative A, and those of the statement from 0. -/

namespace Sys2Proof.Machine

/-- Without TICK a schedule point is A + k × PERIOD, or 0 where that is below 0. -/
theorem Plan.schedAt_of_no_tick {p : Plan} (k : Nat) (ht : p.tick = false) :
    p.schedAt k = (p.anchor + (k * p.period : Nat)).toNat := by
  simp [Plan.schedAt, ht]

/-- The point counts from `anchor.toNat`, as the statement has it, just where A is not below 0 or no time has to pass. -/
theorem Plan.schedAt_eq_iff {p : Plan} (k : Nat) (ht : p.tick = false) :
    p.schedAt k = p.anchor.toNat + k * p.period ↔ 0 ≤ p.anchor ∨ k * p.period = 0 := by
  rw [Plan.schedAt_of_no_tick k ht]
  omega

/-- A plan without TICK whose header gives a PERIOD of 1 ms. -/
def msPlan : Plan := { Plan.reset with hdr := List.replicate 32 0 ++ natLe 8 1000000 }

/-- That plan made ACTIVE at DEV_TIME 5,000, on a device that is at DEV_TIME 7,000 and has had no PTM dialogue. -/
def msPlanDev : Dev :=
  let d := ({ Dev.reset with hif := { Dev.reset.hif with devTime := 5000 } }).activate 1 msPlan
  { d with hif := { d.hif with devTime := 7000, ptmEn := true } }

/-- The first dialogue finds the host's time to be 1,000: DEV_TIME goes back by 6,000, and A with it, from 5,000 to −1,000. -/
theorem exec_ptmDialogue_anchor_neg :
    (msPlanDev.plan 1).anchor = 5000 ∧
    ∃ u, exec (.ptmDialogue 1000) { State.reset with dev := msPlanDev } = .next u ∧
      (u.dev.plan 1).st = .active ∧ (u.dev.plan 1).tick = false ∧ (u.dev.plan 1).anchor = -1000 ∧ (u.dev.plan 1).period = 1000000 :=
  ⟨by decide, _, rfl, by decide⟩

/-- Refutes O59: the first alignment has moved A to −1,000, so that S_1 is 999,000. The statement reads A through `toNat`, where a negative A
is 0, and so asks for 1,000,000. -/
theorem not_scheduleWithoutTick : ¬ Obligations.ScheduleWithoutTick := by
  unfold Obligations.ScheduleWithoutTick
  rintro ⟨hpoints, -⟩
  obtain ⟨-, u, -, -, htick, hanchor, hperiod⟩ := exec_ptmDialogue_anchor_neg
  obtain ⟨hpoint, -⟩ := hpoints (u.dev.plan 1) 1 htick (by rw [hanchor, hperiod]; decide)
  have h : 0 ≤ (u.dev.plan 1).anchor ∨ 1 * (u.dev.plan 1).period = 0 := (Plan.schedAt_eq_iff 1 htick).mp hpoint
  rw [hanchor, hperiod] at h
  exact absurd h (by decide)

end Sys2Proof.Machine
end

section
/-! PROOF. The full time that a TIME_LO stands for (R369), and where a completion record, a transfer record and a serving event carry it. -/

namespace Sys2Proof

/-! The first bytes of a number, and the low word of the last word of a record. -/

theorem take_natLe {k n : Nat} (h : k ≤ n) (v : Nat) : (natLe n v).take k = natLe k v := by
  induction k generalizing n v with
  | zero => rfl
  | succ k ih =>
    obtain ⟨n, rfl⟩ : ∃ m, n = m + 1 := ⟨n - 1, by omega⟩
    simp [natLe, ih (Nat.le_of_succ_le_succ h)]

/-- The low word of the 64-bit word that ends a record. -/
theorem leNat_lowWord_after {bs : List Byte} {n : Nat} (h : bs.length = n) (v : Nat) :
    leNat (((bs ++ natLe 8 v).drop n).take 4) = v % 2 ^ 32 := by
  rw [List.drop_left' h, take_natLe (by decide), leNat_natLe, show 256 ^ 4 = 2 ^ 32 from rfl]

/-! The reconstruction. -/

/-- Truncation keeps differences mod 2^32, so T_lo − TIME_LO is the time passed where that fits 32 bits. -/
theorem zeroExtend_truncate_sub {a T : W64} (h : (T - a).toNat < 2 ^ 32) :
    ((T.truncate 32 : W32) - a.truncate 32).zeroExtend 64 = T - a := by
  have hlow : (T.truncate 32 : W32) - a.truncate 32 = (T - a).truncate 32 := by bv_omega
  rw [hlow]
  generalize T - a = passed at h ⊢
  apply BitVec.eq_of_toNat_eq
  simp only [BitVec.toNat_setWidth]
  omega

end Sys2Proof

namespace Sys2Proof.Machine

/-! TIME_LO in the records, where the partition is not confidential. -/

theorem recordBytes_timeLo {d : Dev} {x : Desc} (h : (d.part x.part).conf = false) (st retries : Byte) (detail : BitVec 16)
    (result timeLo : W32) : leNat (((recordBytes d x st retries detail result timeLo).drop 8).take 4) = timeLo.toNat := by
  simp only [recordBytes, h, Bool.false_eq_true, if_false]
  rw [leNat_lowWord_after (natLe_length 8 _), Nat.mul_add_mod', Nat.mod_eq_of_lt timeLo.isLt]

theorem Dev.xferRecord_timeLo {d : Dev} {p : PartNo} (h : (d.part p).conf = false) (xid : BitVec 16) (st : Byte)
    (detail : BitVec 16) (kib : Nat) :
    leNat (((d.xferRecord xid p st detail kib).drop 8).take 4) = (d.hif.devTime.truncate 32 : W32).toNat := by
  simp only [Dev.xferRecord, h, Bool.false_eq_true, if_false]
  rw [leNat_lowWord_after (natLe_length 8 _), Nat.mul_add_mod', Nat.mod_mod, BitVec.toNat_setWidth, Dev.now]

@[simp] theorem SrvEv.head_length (e : SrvEv) : e.head.length = 12 := by simp [SrvEv.head]

theorem Dev.evBytes_timeLo {d : Dev} {e : SrvEv} (h : (d.part e.part).conf = false) :
    leNat (((d.evBytes e).drop 24).take 4) = (BitVec.ofNat 32 e.time).toNat := by
  have hplain : d.evBytes e = e.head ++ (natLe 4 e.value.toNat ++ natLe 4 e.logprob.toNat) ++ natLe 4 e.index ++ natLe 8 e.time := by
    simp [Dev.evBytes, h]
  rw [hplain, leNat_lowWord_after (by simp), BitVec.toNat_ofNat]

/-- Settles O60: the time passed since the record is subtracted from the time read; each record carries the low word at its offset. -/
theorem timeLoGivesTheFullTime : Obligations.TimeLoGivesTheFullTime := by
  unfold Obligations.TimeLoGivesTheFullTime
  refine ⟨?reconstruct, ?entry, ?record, ?transfer, ?event⟩
  case reconstruct =>
    intro a T _ hpassed
    rw [zeroExtend_truncate_sub hpassed]
    bv_omega
  case entry => exact fun d t st detail r hlive => (Dev.complete_tag d t st detail r hlive).time
  case record => exact fun d x st retries detail result timeLo hconf => recordBytes_timeLo hconf st retries detail result timeLo
  case transfer => exact fun d xid p st detail kib hconf => Dev.xferRecord_timeLo hconf xid st detail kib
  case event => exact fun d e hconf => Dev.evBytes_timeLo hconf

end Sys2Proof.Machine
end
